-- ==== Sys2Proof/Word.lean ====
section
/-! DEFINITION. The words the part works in: bytes, exposure tags and the small index types of links, lanes,
streams, segments and tile slots. -/

namespace Sys2Proof

/-- One byte of a lane, of board memory or of the serial flash. -/
abbrev Byte := BitVec 8

/-- A 16-bit exposure tag (R40: every value, 0 and 65535 included, is accepted as a tag). -/
abbrev Tag := BitVec 16

/-- LINK0 to LINK3 (R13). -/
abbrev LinkNo := Fin 4

/-- Lane 0 to lane 3 of a link (R1: a link has 1 to 4 lanes). -/
abbrev LaneNo := Fin 4

/-- The 4-bit stream number of a packet header (R30). -/
abbrev StreamNo := Fin 16

/-- Segment number 0 to 63 (R1). -/
abbrev SegNo := Fin 64

/-- Tile slot number 0 to 127 (R57). -/
abbrev SlotNo := Fin 128

end Sys2Proof
end

