-- ==== Sys2Proof/Config.lean ====
section
/-! DEFINITION. The free values of the model: constants without a body, which no proof can evaluate. Each stands where
the manual lets the machine go on and does not fix a value or an order (assumption log 3, 4 and 23). The machine's fixed
numbers (regions, strides, limits) are here too. -/

namespace Sys2Proof

/-- FREE VALUE (log 3). R157: a host read that meets an uncorrectable memory error 'completes with the data as read';
what that data is, is not stated. The first argument is the model's counter of free values taken, the second the
byte's offset. -/
opaque Config.dataAsRead : Nat → Nat → Byte

/-- FREE VALUE (log 23). What a byte of a host read reads as beyond the aperture, of which R157 says only that a read is
never refused. The first argument is the model's counter of free values taken, the second the byte's offset. -/
opaque Config.beyondAperture : Nat → Nat → Byte

/-- FREE VALUE (log 4). R168: two orders that end together are retired 'taken in either order'. True: the service
unit's order is retired first. The argument is the model's counter of free values taken. -/
opaque Config.serviceRetiresFirst : Nat → Bool

/-- Size of board memory: 16 GiB, offsets 0 to 0x3_FFFF_FFFF (R157). -/
abbrev Config.memSize : Nat := 0x400000000

/-- First offset of the general region (R157). -/
abbrev Config.generalBase : Nat := 0x1000

/-- First offset above the general region, which is the first of the tile pool (R157). -/
abbrev Config.poolBase : Nat := 0x3D8000000

/-- First offset above the tile pool (R157). -/
abbrev Config.poolEnd : Nat := 0x3FB000000

/-- Bytes of one tile slot (R57). -/
abbrev Config.slotBytes : Nat := 4587520

/-- Bytes of one row of a tile slot (R57). -/
abbrev Config.rowBytes : Nat := 2240

/-- Bytes of one cell's accumulator records: 65,536 records of 24 bytes (R106). -/
abbrev Config.cellBytes : Nat := 1572864

/-- Bytes of one cell product (R147). -/
abbrev Config.productBytes : Nat := 659456

/-- The maximum at which every 32-bit counter stops (Conventions, R26). -/
abbrev Config.counterMax : Nat := 4294967295

/-- Largest time base value: the time base is a 64-bit count (Conventions). -/
abbrev Config.timeMax : Nat := 18446744073709551615

/-- Limit of the flash busy wait: 50 ms in microseconds (R6). -/
abbrev Config.flashBusyLimit : Nat := 50000

/-- Held bytes a lane can keep awaiting merge (R19). -/
abbrev Config.laneLimit : Nat := 1024

/-- Largest payload length the parser follows (R34). -/
abbrev Config.payloadMax : Nat := 4096

end Sys2Proof
end

