-- ==== Sys2Proof/Syntax.lean ====
section
/-! DEFINITION. The commands of the part: one constructor of `Instr` per row of spec/opcode_table.json, with the
operands the rules give the step. The table's rows carry no bits. -/

namespace Sys2Proof

/-- A register write as the register window takes it (R158): the whole 64 bits, or either aligned 32-bit half. -/
inductive RegWrite where
  | whole (v : BitVec 64)
  | low (v : BitVec 32)
  | high (v : BitVec 32)
  deriving DecidableEq, Repr

/-- A write to CONTROL that covers its fields (R158): the whole 64 bits, or the low half, which holds every field. A write to the
high half is an `IdleWrite`. -/
inductive ControlWord where
  | whole (v : BitVec 64)
  | low (v : BitVec 32)
  deriving DecidableEq, Repr

/-- The part of a register that a read takes (R158). -/
inductive RegPart where
  | whole
  | low
  | high
  deriving DecidableEq, Repr

/-- The eight registers of the register window (the register table of chapter 10, R158). -/
inductive Reg where
  | ident
  | control
  | chainStart
  | poll
  | nudge
  | alertCfg
  | alert
  | cause
  deriving DecidableEq, Repr

/-- A register write that touches no field with a behaviour (R158): any write to IDENT or CAUSE, or a 32-bit write
to a half that holds unused bits alone. -/
inductive IdleWrite where
  | ident (w : RegWrite)
  | cause (w : RegWrite)
  | controlHigh (v : BitVec 32)
  | pollHigh (v : BitVec 32)
  | alertHigh (v : BitVec 32)
  deriving DecidableEq, Repr

/-- A host read request (R157, R158): through the memory aperture, or of one register of the register window. -/
inductive HostReadOf where
  | aperture (off : BitVec 34) (len : Nat)
  | register (r : Reg) (p : RegPart)
  deriving DecidableEq, Repr

/-- Which read of the part a memory error is met by. The first four are the order-record reads of R165, R167 and
R168 (the record read and the next-field read of an examination, a unit's take-up read, the retirement reread). -/
inductive ReadBy where
  | record
  | nextField
  | takeUp
  | reread
  | tileRow
  | table
  | accumulator
  | bankOrMap
  | host
  deriving DecidableEq, Repr

/-- One uncorrectable memory error the environment lets the reads of one command meet: a read of the kind named that
covers the offset meets it (assumption log 2). -/
structure MemErr where
  by_ : ReadBy
  at_ : Nat
  deriving DecidableEq, Repr

/-- An entry that the reads of one row take (R78): of the linearity table, of the flat plane row or of the bias plane row, by its place. -/
inductive RowEntry where
  | table (i : Nat)
  | flat (x : Nat)
  | bias (x : Nat)
  deriving DecidableEq, Repr

/-- A host write request that lands while the reads for one row are under way, and the entries of the row read before it (R78, log 46). -/
structure RowWrite where
  off : BitVec 34
  bytes : List Byte
  before : List RowEntry
  deriving DecidableEq, Repr

/-- What the reads for one row meet: host writes that land while they are under way, in their order (R78), and uncorrectable memory errors
(R81). -/
structure RowReads where
  during : List RowWrite
  errs : List MemErr
  deriving DecidableEq, Repr

/-- Bytes that the running board memory load or define read early: when board memory stood as at the moment, a place in `State.past`
(R8, R74, log 48). -/
structure EarlyRead where
  moment : Nat
  bytes : List Nat
  deriving DecidableEq, Repr

/-- What the reads of a board memory load or of a define met: the bytes read before its end, every other byte being read at the end (R8,
R74, log 48), and uncorrectable memory errors. -/
structure MemReads where
  early : List EarlyRead
  errs : List MemErr
  deriving DecidableEq, Repr

/-- The commands: one constructor per row of spec/opcode_table.json, in the table's order. A command whose step can read board memory
carries `errs`, the uncorrectable memory errors its reads meet (log 2), and ROW_DEPOSIT the host writes too that land while its reads are
under way (log 46), MAP_LOAD_END and DEFINE_BANK_END the moments of their reads (log 48). A row that is a CONTROL write carries the word
written (the rest of the write's fields act as R159 states, log 5). -/
inductive Instr where
  | powerOn
  | busReset
  | softReset (w : ControlWord)
  | runSet (w : ControlWord) (errs : List MemErr)
  | runClear (w : ControlWord) (errs : List MemErr)
  | abort (w : ControlWord) (errs : List MemErr)
  | clearMode (w : ControlWord) (errs : List MemErr)
  | msgEn (w : ControlWord) (errs : List MemErr)
  | chainStart (w : RegWrite)
  | poll (w : RegWrite)
  | nudge (w : RegWrite) (errs : List MemErr)
  | alertCfg (w : RegWrite)
  | alertWrite (w : RegWrite)
  | alertRead (p : RegPart)
  | registerWrite (w : IdleWrite)
  | hostWrite (off : BitVec 34) (bytes : List Byte)
  | hostRead (what : HostReadOf) (errs : List MemErr)
  | laneStartMark (l : LinkNo) (k : LaneNo) (errs : List MemErr)
  | laneEndMark (l : LinkNo) (k : LaneNo) (errs : List MemErr)
  | exposureOpen (l : LinkNo) (tag : Tag) (errs : List MemErr)
  | exposureClose (l : LinkNo) (tag : Tag) (errs : List MemErr)
  | segmentBegin (l : LinkNo) (t : StreamNo) (count : BitVec 16) (errs : List MemErr)
  | row (l : LinkNo) (t : StreamNo) (index : BitVec 16) (samples : List (BitVec 16))
  | segmentEnd (l : LinkNo) (t : StreamNo) (sent : BitVec 16) (errs : List MemErr)
  | burstEnd (l : LinkNo)
  | flashStatusRead (status : Byte)
  | flashBusyTimeout (errs : List MemErr)
  | mapLoadEnd (flash : List Byte) (reads : MemReads)
  | loadMapBegin
  | pollTimerExpiry (errs : List MemErr)
  | rowDeposit (reads : RowReads)
  | deadlineExpiry (errs : List MemErr)
  | finalizeCellOpening
  | finalizeCellRow (errs : List MemErr)
  | finalizeCellClosing (errs : List MemErr)
  | cellClear (errs : List MemErr)
  | defineBankEnd (reads : MemReads)
  | quietTimerExpiry
  | laneDataByte (l : LinkNo) (k : LaneNo) (b : Byte) (errs : List MemErr)
  | mirrorWriteLands (off : BitVec 12)
  deriving DecidableEq, Repr

end Sys2Proof
end

