-- ==== Sys2Proof/Decode.lean ====
section
/-! DEFINITION. The command a word of the table's bits spells, and the command an access to the register window is. No row of
spec/opcode_table.json gives bits: every command is a register access, a packet or an event, so no word spells one (log 31). -/

namespace Sys2Proof

/-- The command that a word of `nbits` bits spells: none, since no row of the table has bits. -/
def decodeTableWord (_nbits _w : Nat) : Option Instr := none

/-! ### The register window (R158, register table of chapter 10) -/

/-- The 64 bits that a CONTROL write gives. The half it leaves out holds no field. -/
def ControlWord.value : ControlWord → BitVec 64
  | .whole v => v
  | .low v => v.setWidth 64

/-- The offset of a register in the register window. -/
def Reg.offset : Reg → Nat
  | .ident => 0x00
  | .control => 0x08
  | .chainStart => 0x10
  | .poll => 0x18
  | .nudge => 0x20
  | .alertCfg => 0x28
  | .alert => 0x30
  | .cause => 0x38

/-- The eight registers, in the order of their offsets. -/
def Reg.all : List Reg := [.ident, .control, .chainStart, .poll, .nudge, .alertCfg, .alert, .cause]

/-- R158: the register and the part of it that an access of `len` bytes at an offset of the register window takes: 8 bytes of a
register, or 4 of either aligned half. The window takes no other access. -/
def windowPart (off len : Nat) : Option (Reg × RegPart) :=
  Reg.all.findSome? fun r =>
    if len = 8 ∧ off = r.offset then some (r, .whole)
    else if len = 4 ∧ off = r.offset then some (r, .low)
    else if len = 4 ∧ off = r.offset + 4 then some (r, .high)
    else none

/-- R158: the command that a read of the register window is. -/
def windowRead (off len : Nat) (errs : List MemErr) : Option Instr :=
  (windowPart off len).map fun
    | (.alert, p) => .alertRead p
    | (r, p) => .hostRead (.register r p) errs

/-- R159: the command that a CONTROL write is: SOFT_RESET alone acts where it is set; every other write acts by its fields, under
whichever of its rows it is named (log 5). -/
def controlCommand (w : ControlWord) (errs : List MemErr) : Instr :=
  if w.value.getLsbD 2 then .softReset w
  else if w.value.getLsbD 1 then .abort w errs
  else if w.value.getLsbD 0 then .runSet w errs
  else .runClear w errs

/-- R158: the command that a write to a register is. -/
def writeCommand (r : Reg) (w : RegWrite) (errs : List MemErr) : Instr :=
  match r, w with
  | .ident, w => .registerWrite (.ident w)
  | .control, .whole v => controlCommand (.whole v) errs
  | .control, .low v => controlCommand (.low v) errs
  | .control, .high v => .registerWrite (.controlHigh v)
  | .chainStart, w => .chainStart w
  | .poll, .high v => .registerWrite (.pollHigh v)
  | .poll, w => .poll w
  | .nudge, w => .nudge w errs
  | .alertCfg, w => .alertCfg w
  | .alert, .high v => .registerWrite (.alertHigh v)
  | .alert, w => .alertWrite w
  | .cause, w => .registerWrite (.cause w)

/-- R158: the command that a write of `len` bytes of the register window is, the bytes as one number, the first the lowest. -/
def windowWrite (off len : Nat) (v : BitVec 64) (errs : List MemErr) : Option Instr :=
  (windowPart off len).map fun
    | (r, .whole) => writeCommand r (.whole v) errs
    | (r, .low) => writeCommand r (.low (v.setWidth 32)) errs
    | (r, .high) => writeCommand r (.high (v.setWidth 32)) errs

end Sys2Proof
end

