-- ==== Sys2Proof/Machine/State.lean ====
section
/-! DEFINITION. The state of the part, block by block, as plain data; the fault and refusal reasons; the state right
after power-on. -/

namespace Sys2Proof.Machine

/-! ### The map loader (chapter 1) -/

/-- R1: the entry of a present segment. The linear terms are stored integers with 30 fractional bits. -/
structure SegEntry where
  link : LinkNo
  stream : StreamNo
  lanes : Nat
  burstEnd : Bool
  prescan : Nat
  image : Nat
  overscan : Nat
  rows : Nat
  a : Int
  b : Int
  c : Int
  d : Int
  e : Int
  f : Int
  deriving DecidableEq, Repr

/-- R1: the row length of a segment is prescan plus image columns plus overscan, in samples. -/
def SegEntry.rowLen (e : SegEntry) : Nat := e.prescan + e.image + e.overscan

/-- R1: a complete map. `none` is a segment that is not present, or from the segment count up. -/
structure FocalMap where
  count : Nat
  entries : Vector (Option SegEntry) 64
  deriving DecidableEq, Repr

/-- R2: the map state as IDENT shows it. -/
inductive MapState where
  | absent
  | valid
  | loading
  deriving DecidableEq, Repr

/-- Where a running load stands (R5, R6, R8): in the flash busy wait since the poll start, in the flash data read, or
reading an image in board memory. -/
inductive LoadPhase where
  | busyWait (start : Nat)
  | dataRead
  | memory (off : Nat)
  deriving DecidableEq, Repr

/-- A running load: the power-on load (R7) or the load of the LOAD_MAP order in flight (R8). -/
structure MapLoad where
  ofOrder : Bool
  phase : LoadPhase
  deriving DecidableEq, Repr

/-- R1, R2: the map in use, the map state, the state LOADING was entered from, and the running load. -/
structure Loader where
  inUse : Option FocalMap
  state : MapState
  enteredFrom : MapState
  load : Option MapLoad
  deriving DecidableEq, Repr

/-! ### The link receivers (chapters 2 and 3) -/

/-- R11: the stream table entry of an enabled stream. -/
structure StreamEntry where
  seg : SegNo
  prescan : Nat
  image : Nat
  overscan : Nat
  rowLen : Nat
  rows : Nat
  deriving DecidableEq, Repr

/-- R11: link settings with segments. A stream is enabled when its table place holds an entry. -/
structure LinkSettings where
  lanes : Nat
  burstEnd : Bool
  streams : Vector (Option StreamEntry) 16
  deriving DecidableEq, Repr

/-- R14: the link states. -/
inductive LinkPhase where
  | off
  | idle
  | burst
  deriving DecidableEq, Repr

/-- R13, R16: the lane states of a lane in use. -/
inductive LanePhase where
  | waiting
  | opened
  | ended
  deriving DecidableEq, Repr

/-- R13: one lane: its state, the bytes held for merging, oldest first, and whether it gave a start mark after it had
opened (R16, R20). -/
structure Lane where
  phase : LanePhase
  restarted : Bool
  held : List Byte
  deriving DecidableEq, Repr

/-- R30: a packet header as corrected: stream, kind and header value. -/
structure Header where
  stream : StreamNo
  kind : Fin 16
  value : BitVec 16
  deriving DecidableEq, Repr

/-- R13, R35: the parse state: header bytes taken so far, the accepted header of a long packet in progress, the packet
buffer (payload and footer bytes so far), and whether the rest of the merged burst is discarded (R23). -/
structure Parser where
  hdr : List Byte
  cur : Option Header
  buffer : List Byte
  discarding : Bool
  deriving DecidableEq, Repr

/-- R26: the 14 counters of a link, in the order of the table. -/
inductive LinkCounter where
  | headersFixed
  | headersLost
  | crcFailures
  | truncated
  | excess
  | filtered
  | unknown
  | strayRows
  | lengthErrors
  | refused
  | noRoom
  | duplicateExposure
  | restarts
  | missingEndMarks
  deriving DecidableEq, Repr

/-- The place of a counter in the order of R26. -/
def LinkCounter.idx : LinkCounter → Fin 14
  | .headersFixed => 0
  | .headersLost => 1
  | .crcFailures => 2
  | .truncated => 3
  | .excess => 4
  | .filtered => 5
  | .unknown => 6
  | .strayRows => 7
  | .lengthErrors => 8
  | .refused => 9
  | .noRoom => 10
  | .duplicateExposure => 11
  | .restarts => 12
  | .missingEndMarks => 13

/-- R13: one link receiver. `replaced` records that the map in use was replaced during the burst (R21). -/
structure Link where
  phase : LinkPhase
  settings : Option LinkSettings
  replaced : Bool
  lanes : Vector Lane 4
  turn : LaneNo
  merged : Nat
  mergeOpen : Bool
  parser : Parser
  endMark : Bool
  current : Option Tag
  refused : Option Tag
  counters : Vector Nat 14
  deriving DecidableEq, Repr

/-! ### The exposure table and the tile pool (chapter 4) -/

/-- R47: the states of an exposure entry. -/
inductive ExpState where
  | opened
  | closed
  | assembling
  | assembled
  | discarded
  deriving DecidableEq, Repr

/-- R47: how assembly has settled a segment. -/
inductive SegOutcome where
  | unsettled
  | deposited
  | missing
  | late
  deriving DecidableEq, Repr

/-- R47: an entry of the exposure table. The link sets have LINKn in bit n (12.6). -/
structure ExpEntry where
  tag : Tag
  state : ExpState
  openedBy : BitVec 4
  closedBy : BitVec 4
  held : Nat
  outcomes : Vector SegOutcome 64
  deriving DecidableEq, Repr

/-- R58: the states of a slot that is not FREE. -/
inductive SlotState where
  | filling
  | complete
  | late
  deriving DecidableEq, Repr

/-- R58: the catalogue entry of a slot that is not FREE (its other fields have meaning only then). -/
structure Slot where
  state : SlotState
  tag : Tag
  seg : SegNo
  link : LinkNo
  prescan : Nat
  image : Nat
  overscan : Nat
  rowLen : Nat
  mapRows : Nat
  expected : Nat
  rows : List Nat
  sent : Option Nat
  cursor : Nat
  unterminated : Bool
  restarted : Bool
  deriving DecidableEq, Repr

/-- R58: the highest stored row is the last index in rows stored. -/
def Slot.highest (s : Slot) : Option Nat := s.rows.getLast?

/-- R66: why a slot is freed. -/
inductive FreeReason where
  | deposited
  | late
  | restart
  | discard
  | mismatch
  deriving DecidableEq, Repr

/-! ### The bank table (chapter 5) -/

/-- R71: the bias modes. -/
inductive BiasMode where
  | overscan
  | fixed
  | plane
  deriving DecidableEq, Repr

/-- R71: the parameters of one amplifier. A flat or bias plane offset of 0 means absent (R72). -/
structure Amp where
  mode : BiasMode
  fixed : Nat
  skip : Nat
  n : Nat
  gain : Nat
  sat : Nat
  lut : Nat
  flat : Nat
  bias : Nat
  deriving DecidableEq, Repr

/-- R71: a defect entry. -/
structure Defect where
  seg : Nat
  firstCol : Nat
  lastCol : Nat
  firstRow : Nat
  lastRow : Nat
  deriving DecidableEq, Repr

/-- R71: what a VALID bank table entry holds. An EMPTY entry is `none` in the table. -/
structure Bank where
  amps : Vector Amp 64
  defects : List Defect
  deriving DecidableEq, Repr

/-! ### The sky canvas (chapter 7) -/

/-- R110: the cell states. -/
inductive CellState where
  | vacant
  | accumulating
  | finalized
  | spoiled
  deriving DecidableEq, Repr

/-- R109: one entry of the cell directory. -/
structure DirCell where
  state : CellState
  deposits : Nat
  exposures : List Tag
  overflow : Bool
  last : Option Nat
  deriving DecidableEq, Repr

/-- R105, R109: what a DEFINED field table entry holds, with its cell directory entries in row order (cell row 0
first). An UNDEFINED field is `none` in the table. -/
structure Field where
  ou : Int
  ov : Int
  cols : Nat
  rows : Nat
  base : Nat
  cells : List DirCell
  deriving DecidableEq, Repr

/-! ### The deposit unit (chapters 6 and 8) -/

/-- R93: the effective placement of one segment, in units of 2^-30 sky pixel. -/
structure Placement where
  A : Int
  B : Int
  Dc : Int
  E : Int
  Cu : Int
  Cv : Int
  deriving DecidableEq, Repr

/-- R139: the results of an ASSEMBLE, in the slot order of 12.2. -/
structure Results where
  deposited : Nat
  missing : Nat
  late : Nat
  mismatched : Nat
  rowsMissing : Nat
  saturated : Nat
  bad : Nat
  clamped : Nat
  clipped : Nat
  refusedFull : Nat
  droppedSpoiled : Nat
  deriving DecidableEq, Repr

/-- R139: all results are 0 at take-up. -/
def Results.zero : Results := ⟨0, 0, 0, 0, 0, 0, 0, 0, 0, 0, 0⟩

/-- R126: what the deposit unit holds while an ASSEMBLE is in flight. `deadline` is the order's deadline in milliseconds as R127
takes it, `expiry` the time base value at which it expires. `made` records whether any share of the order was
reported MADE (R140), `draining` the segments whose slots this order made LATE and drains (R137). -/
structure Assembly where
  record : Nat
  tag : Tag
  field : Fin 4
  bank : Fin 8
  tileComplete : Bool
  weight : Nat
  map : Vector (Option SegEntry) 64
  place : Vector (Option Placement) 64
  ou : Int
  ov : Int
  width : Nat
  height : Nat
  deadline : Nat
  expiry : Option Nat
  deadlinePassed : Bool
  turn : SegNo
  current : Option SegNo
  draining : List SegNo
  results : Results
  made : Bool
  deriving DecidableEq, Repr

/-- R126: the states of the deposit unit. -/
inductive DepositUnit where
  | idle
  | waiting (o : Assembly)
  | serving (o : Assembly)
  deriving DecidableEq, Repr

/-! ### The service unit (chapters 1, 5, 7 and 9) -/

/-- R122, R145: a cell rectangle clipped to its field. -/
structure Rect where
  col : Nat
  row : Nat
  width : Nat
  height : Nat
  deriving DecidableEq, Repr

/-- R148, R152: where the publication of the present cell stands. `blank` says that in-cell rows are written without
reading (a VACANT or SPOILED cell, or step 2 of R152). -/
inductive CellPhase where
  | opening
  | rows (q : Nat) (blank : Bool)
  | closing
  deriving DecidableEq, Repr

/-- A FINALIZE in flight (R145 to R153). `shown` is the cell state the header will show (R147). -/
structure Finalize where
  record : Nat
  field : Fin 4
  rect : Rect
  base : Nat
  reject : Bool
  k : Nat
  phase : CellPhase
  shown : CellState
  cellNoData : Nat
  cellRejected : Nat
  written : Nat
  noData : Nat
  rejected : Nat
  anySpoiled : Bool
  deriving DecidableEq, Repr

/-- The one non-ASSEMBLE order in flight. A LOAD_MAP has its image offset in board memory (`none`: the serial flash) and
whether its own load has begun (R7). DEFINE_FIELD and DISCARD_EXPOSURE are carried out in one event at take-up
(R108, R67) and so never stand here. -/
inductive ServiceOrder where
  | finalize (o : Finalize)
  | clearField (record : Nat) (field : Fin 4) (rect : Rect) (k : Nat)
  | defineBank (record : Nat) (bank : Fin 8) (off : Nat) (map : Vector (Option SegEntry) 64)
  | loadMap (record : Nat) (image : Option Nat) (begun : Bool)
  deriving DecidableEq, Repr

/-! ### The order walker, the alert unit and the host port (chapters 10 and 11) -/

/-- R162: the walker states. -/
inductive WalkerState where
  | stopped
  | running
  | halted
  deriving DecidableEq, Repr

/-- R165, R168: the reasons of the fault record. -/
inductive FaultReason where
  | none
  | chainLink
  | chainState
  | recordRead
  | orphaned
  deriving DecidableEq, Repr

/-- The order walker: state, cursor, parked flag, poll timer (its expiry time), retired count, last retired offset and
fault record (R162 to R168). -/
structure Walker where
  state : WalkerState
  cursor : Nat
  parked : Bool
  pollTimer : Option Nat
  retired : Nat
  lastRetired : Nat
  faultReason : FaultReason
  faultOffset : Nat
  deriving DecidableEq, Repr

/-- R172: the alert causes. -/
inductive Cause where
  | fault
  | receive
  | mark
  | quiet
  deriving DecidableEq, Repr

/-- A set of alert causes, one flag each: the pending set (R172) and the enables (ALERT_CFG). -/
structure Causes where
  fault : Bool
  receive : Bool
  mark : Bool
  quiet : Bool
  deriving DecidableEq, Repr

/-- R173: the sources of memory errors, in order. -/
inductive MemSource where
  | tileRows
  | tablesAndPlanes
  | accumulatorRecords
  | orderRecords
  | bankAndMapRecords
  | hostReads
  deriving DecidableEq, Repr

/-- The place of a source in the order of R173. -/
def MemSource.idx : MemSource → Fin 6
  | .tileRows => 0
  | .tablesAndPlanes => 1
  | .accumulatorRecords => 2
  | .orderRecords => 3
  | .bankAndMapRecords => 4
  | .hostReads => 5

/-- R172: the alert unit. The quiet timer holds its expiry time while it runs. -/
structure AlertUnit where
  pending : Causes
  ackCount : Nat
  quietTimer : Option Nat
  memErrors : Vector Nat 6
  deriving DecidableEq, Repr

/-- The kept fields of CONTROL (R159); ABORT and SOFT_RESET read as 0 and are not kept. -/
structure Control where
  run : Bool
  clearMode : Bool
  msgEn : Bool
  deriving DecidableEq, Repr

/-- ALERT_CFG (register table of chapter 10): mark, quiet interval in units of 10 µs, cause enables. -/
structure AlertCfg where
  mark : BitVec 8
  quiet : BitVec 16
  enables : Causes
  deriving DecidableEq, Repr

/-- The host port: the registers that hold a value, and the guard drop count (R158, R170). -/
structure HostPort where
  control : Control
  chainStart : BitVec 36
  poll : BitVec 16
  alertCfg : AlertCfg
  guardDrops : Nat
  deriving DecidableEq, Repr

/-- A write of a changed field into the progress block that has not landed (R26, R48, R169). -/
structure MirrorWrite where
  off : Nat
  bytes : List Byte
  deriving DecidableEq, Repr

/-! ### The whole part -/

/-- The state of the part. The spec's own state stands first. The last fields are the model's own: `readData` and
`messages` are what the part gave the host (the data of the last host read, the count of PCIe messages sent), `errs`
the memory errors the environment lets the present command's reads meet (log 2), `past` board memory as it stood before each change since
the reads of the running board memory load or define began (R8, R74, log 48; no rule reads it after the load or define has ended, and the
next one begins it afresh), `freeTaken` the count of free values
taken (log 3, 4), and `pending` the queue of waiting commands. -/
structure State where
  timeBase : Nat
  mem : List Host.Cell
  mirror : List MirrorWrite
  loader : Loader
  links : Vector Link 4
  exposures : Vector (Option ExpEntry) 4
  slots : Vector (Option Slot) 128
  banks : Vector (Option Bank) 8
  fields : Vector (Option Field) 4
  deposit : DepositUnit
  service : Option ServiceOrder
  walker : Walker
  alert : AlertUnit
  port : HostPort
  readData : List Byte
  messages : Nat
  errs : List MemErr
  past : List (List Host.Cell)
  freeTaken : Nat
  pending : List Instr
  deriving DecidableEq, Repr

/-- Why the part's model stops with a fault: never. The manual gives every command an effect, so there is no reason to list. -/
inductive Fault where
  deriving DecidableEq, Repr

/-- Why the model has no meaning for a command. -/
inductive Refusal where
  /-- The command named has no meaning in the model. Raised by exec's own arms alone; no arm raises it now. Safe. -/
  | notModelled (mnemonic : String)
  deriving DecidableEq, Repr

/-! ### The state after power-on -/

/-- R35: nothing in the packet buffer, at the start of a packet, not discarding. -/
def Parser.start : Parser := ⟨[], none, [], false⟩

/-- A lane before any burst: waiting, nothing held (log 6: the lane state outside a burst has no effect). -/
def Lane.start : Lane := ⟨.waiting, false, []⟩

/-- R27: a link receiver at power-on. -/
def Link.start : Link :=
  { phase := .off, settings := none, replaced := false, lanes := Vector.replicate 4 Lane.start, turn := 0, merged := 0,
    mergeOpen := false, parser := Parser.start, endMark := false, current := none, refused := none,
    counters := Vector.replicate 14 0 }

/-- R171: the walker at power-on. DESIGN CHOICE (log 40): the offset of a fault record that is none is 0. -/
def Walker.start : Walker :=
  { state := .stopped, cursor := 0, parked := false, pollTimer := none, retired := 0, lastRetired := 0,
    faultReason := .none, faultOffset := 0 }

/-- No cause. -/
def Causes.empty : Causes := ⟨false, false, false, false⟩

/-- Every cause (the reset value of the enables). -/
def Causes.all : Causes := ⟨true, true, true, true⟩

/-- R178: ALERT_CFG after any reset: mark 0, quiet 0, all enables set. -/
def AlertCfg.start : AlertCfg := ⟨0, 0, Causes.all⟩

/-- R171, R178: the alert unit at power-on. -/
def AlertUnit.start : AlertUnit := ⟨Causes.empty, 0, none, Vector.replicate 6 0⟩

/-- The registers at power-on (register table of chapter 10, R171). -/
def HostPort.start : HostPort :=
  { control := ⟨false, false, false⟩, chainStart := 0, poll := 100, alertCfg := AlertCfg.start, guardDrops := 0 }

/-- R7: the loader right after power-on: no map in use, and the power-on load has entered LOADING from ABSENT with its
flash busy wait begun at time base 0. -/
def Loader.start : Loader :=
  { inUse := none, state := .loading, enteredFrom := .absent, load := some ⟨false, .busyWait 0⟩ }

/-- R68, R169: the progress block at power-on is written with the power-on values: every byte 0 but the free count 128
at 0x024. Nothing else of board memory is listed (log 1). -/
def Memory.start : List Host.Cell := [(0x024, 128)]

/-- The part right after power-on (R7, R27, R68, R91, R105, R142, R155, R171, R178). -/
def State.reset : State :=
  { timeBase := 0
    mem := Memory.start
    mirror := []
    loader := Loader.start
    links := Vector.replicate 4 Link.start
    exposures := Vector.replicate 4 none
    slots := Vector.replicate 128 none
    banks := Vector.replicate 8 none
    fields := Vector.replicate 4 none
    deposit := .idle
    service := none
    walker := Walker.start
    alert := AlertUnit.start
    port := HostPort.start
    readData := []
    messages := 0
    errs := []
    past := []
    freeTaken := 0
    pending := [] }

end Sys2Proof.Machine
end

