-- ==== Sys2Proof/Machine/Bits.lean ====
section
/-! DEFINITION. Byte order, signed fields, rounding and saturation: the arithmetic helpers every block uses. -/

namespace Sys2Proof.Machine

/-- The `n` bytes of a field, least significant byte first (Conventions, Byte order). -/
def leBytes : Nat → Nat → List Byte
  | 0, _ => []
  | n + 1, v => BitVec.ofNat 8 v :: leBytes n (v / 256)

/-- The value of a field's bytes, least significant byte first. -/
def leNat : List Byte → Nat
  | [] => 0
  | b :: bs => b.toNat + 256 * leNat bs

/-- The 16-bit fields of a run of bytes, each low byte first. -/
def u16s : List Byte → List Nat
  | a :: b :: bs => leNat [a, b] :: u16s bs
  | _ => []

/-- The value of a field of `w` bits in two's complement (chapter 12). -/
def signed (w : Nat) (v : Nat) : Int := if v < 2 ^ (w - 1) then (v : Int) else (v : Int) - 2 ^ w

/-- The stored integer of a signed value in a field of `w` bits. -/
def stored (w : Nat) (x : Int) : Nat := (x % 2 ^ w).toNat

/-- Rounded to the nearest integer with ties away from zero (Conventions, Rounding): x / d. -/
def roundDiv (x : Int) (d : Nat) : Int :=
  let q : Nat := (2 * x.natAbs + d) / (2 * d)
  if x < 0 then -(q : Int) else (q : Int)

/-- A counter gains `k` and stops at its maximum (Conventions, Counters). -/
def satAdd (n k : Nat) : Nat := min (n + k) Config.counterMax

/-- A Nat as an index below `k`, when it is one. -/
def idx? (k n : Nat) : Option (Fin k) := if h : n < k then some ⟨n, h⟩ else none

/-- Two byte ranges share a byte. -/
def overlaps (a n b m : Nat) : Bool := decide (0 < n) && decide (0 < m) && decide (a < b + m) && decide (b < a + n)

/-- The `n` bytes from `off` lie wholly in the general region, 0x1000 up to 0x3_D7FF_FFFF (R157). -/
def inGeneral (off n : Nat) : Bool := decide (Config.generalBase ≤ off) && decide (off + n ≤ Config.poolBase)

/-- The vector of the values of a function. -/
def vecOf {α : Type} {n : Nat} (f : Fin n → α) : Vector α n := ⟨(List.ofFn f).toArray, by simp⟩

end Sys2Proof.Machine
end

