-- ==== Sys2Proof/Machine/Memory.lean ====
section
/-! DEFINITION. Board memory as a list of (offset, byte) pairs in one canonical form, and its operations. -/

namespace Sys2Proof.Machine

/-- What a byte of board memory that nothing has written reads as (log 1: the manual calls board memory undefined
after power-on). -/
def Memory.fill : Byte := 0

/-- The canonical form: offsets strictly rising, no entry equal to `Memory.fill`, every offset inside board memory. -/
abbrev Memory.wf (m : List Host.Cell) : Prop :=
  m.Pairwise (fun x y => x.1 < y.1) ∧ ∀ c ∈ m, c.2 ≠ Memory.fill ∧ c.1 < Config.memSize

/-- The byte at an offset. -/
def Memory.read : List Host.Cell → Nat → Byte
  | [], _ => Memory.fill
  | c :: m, a => if c.1 = a then c.2 else Memory.read m a

/-- The `n` bytes from an offset. -/
def Memory.readBytes (m : List Host.Cell) (off : Nat) : Nat → List Byte
  | 0 => []
  | n + 1 => Memory.read m off :: Memory.readBytes m (off + 1) n

/-- The entries that `bytes` laid out from `off` give: none for a byte equal to the fill, none beyond board memory. -/
def Memory.cells : Nat → List Byte → List Host.Cell
  | _, [] => []
  | off, b :: bs =>
    if b = Memory.fill ∨ Config.memSize ≤ off then Memory.cells (off + 1) bs else (off, b) :: Memory.cells (off + 1) bs

/-- The memory with the bytes from `off` replaced by `bytes`. -/
def Memory.writeBytes (m : List Host.Cell) (off : Nat) (bytes : List Byte) : List Host.Cell :=
  m.filter (fun c => decide (c.1 < off)) ++ Memory.cells off bytes
    ++ m.filter (fun c => decide (off + bytes.length ≤ c.1))

/-- The memory with the `n` bytes from `off` written as 0 (R112, zeroing). -/
def Memory.zero (m : List Host.Cell) (off n : Nat) : List Host.Cell :=
  m.filter (fun c => decide (c.1 < off ∨ off + n ≤ c.1))

/-- The unsigned field of `n` bytes at an offset. -/
def Memory.readNat (m : List Host.Cell) (off n : Nat) : Nat := leNat (Memory.readBytes m off n)

/-- The signed field of `n` bytes at an offset. -/
def Memory.readInt (m : List Host.Cell) (off n : Nat) : Int := signed (8 * n) (Memory.readNat m off n)

/-- The `n` 16-bit fields from an offset. -/
def Memory.readU16s (m : List Host.Cell) (off : Nat) : Nat → List Nat
  | 0 => []
  | n + 1 => Memory.readNat m off 2 :: Memory.readU16s m (off + 2) n

end Sys2Proof.Machine
end

