-- ==== Sys2Proof/Machine/Flags.lean ====
section
/-! DEFINITION. The alert causes: raising, acknowledging, the message, and the memory error counts (chapter 11). -/

namespace Sys2Proof.Machine

/-- The cause is a member of the set. -/
def Causes.has (c : Causes) : Cause → Bool
  | .fault => c.fault
  | .receive => c.receive
  | .mark => c.mark
  | .quiet => c.quiet

/-- The set with a cause added. -/
def Causes.add (c : Causes) : Cause → Causes
  | .fault => { c with fault := true }
  | .receive => { c with receive := true }
  | .mark => { c with mark := true }
  | .quiet => { c with quiet := true }

/-- The set is not empty. -/
def Causes.any (c : Causes) : Bool := c.fault || c.receive || c.mark || c.quiet

/-- The members of both sets. -/
def Causes.inter (c d : Causes) : Causes := ⟨c.fault && d.fault, c.receive && d.receive, c.mark && d.mark, c.quiet && d.quiet⟩

/-- The members of the first set that are not in the second. -/
def Causes.minus (c d : Causes) : Causes :=
  ⟨c.fault && !d.fault, c.receive && !d.receive, c.mark && !d.mark, c.quiet && !d.quiet⟩

/-- The set in the bits of ALERT: FAULT bit 0, RECEIVE bit 1, MARK bit 2, QUIET bit 3. -/
def Causes.bits (c : Causes) : Nat :=
  (if c.fault then 1 else 0) + (if c.receive then 2 else 0) + (if c.mark then 4 else 0) + (if c.quiet then 8 else 0)

/-- The highest cause as CAUSE shows it (R172): FAULT, then RECEIVE, MARK, QUIET; 0 for none. -/
def Causes.highest (c : Causes) : Nat :=
  if c.fault then 1 else if c.receive then 2 else if c.mark then 3 else if c.quiet then 4 else 0

/-- Queue a write of a changed field for the progress block (R169: it lands later). -/
def State.queueMirror (s : State) (off : Nat) (bytes : List Byte) : State :=
  { s with mirror := s.mirror ++ [⟨off, bytes⟩] }

/-- Queue a write of a field of `n` bytes when the field has changed. -/
def State.mirrorIf (changed : Bool) (off n v : Nat) (s : State) : State :=
  if changed then s.queueMirror off (leBytes n v) else s

/-- Send one PCIe message (R177); its content is not needed, so the model counts them. -/
def State.sendMessage (s : State) : State := { s with messages := s.messages + 1 }

/-- R172, R177: raise a cause. A cause already pending leaves the set as it was. A message is sent when MSG_EN is set,
the cause is enabled and the set was empty (first alert). -/
def State.raise (c : Cause) (s : State) : State :=
  if s.alert.pending.has c then s
  else
    let t : State := { s with alert := { s.alert with pending := s.alert.pending.add c } }
    if s.port.control.msgEn && s.port.alertCfg.enables.has c && !s.alert.pending.any then t.sendMessage else t

/-- R176, R177: an acknowledgment of `named`: the causes leave the set, MARK or QUIET named sets the acknowledgment
count to 0, and a message is sent again when a cause that is enabled stays pending and MSG_EN is set. -/
def State.acknowledge (named : Causes) (s : State) : State :=
  let left := s.alert.pending.minus named
  let count := if named.mark || named.quiet then 0 else s.alert.ackCount
  let t : State := { s with alert := { s.alert with pending := left, ackCount := count } }
  if s.port.control.msgEn && (left.inter s.port.alertCfg.enables).any then t.sendMessage else t

/-- The progress block offset of the count of a source (12.6). -/
def memErrorOff (src : MemSource) : Nat := 0x028 + 4 * src.idx

/-- R173: an uncorrectable memory error adds 1 to the count of its source and raises FAULT. -/
def State.memError (src : MemSource) (s : State) : State :=
  let n := satAdd s.alert.memErrors[src.idx] 1
  let t : State := { s with alert := { s.alert with memErrors := s.alert.memErrors.set src.idx n } }
  ((t.mirrorIf (decide (n ≠ s.alert.memErrors[src.idx])) (memErrorOff src) 4 n)).raise .fault

/-- A read of the kind named that covers `n` bytes from `off` meets an uncorrectable memory error (log 2). DESIGN CHOICE (log 47): an
error holds for its offset over the whole step, so that of several reads of one record in one row event (R99, R119) all meet it or none. -/
def State.readErr (s : State) (by_ : ReadBy) (off n : Nat) : Bool :=
  s.errs.any fun e => decide (e.by_ = by_) && decide (off ≤ e.at_) && decide (e.at_ < off + n)

/-- R174: MARK is raised when the mark is above 0 and at or below the acknowledgment count. -/
def State.testMark (s : State) : State :=
  if 0 < s.port.alertCfg.mark.toNat ∧ s.port.alertCfg.mark.toNat ≤ s.alert.ackCount then s.raise .mark else s

/-- R174, R175: what one reported retirement does at the alert unit: the acknowledgment count gains 1, MARK is tested,
and the quiet timer is started afresh, or stopped when the quiet interval is 0. -/
def State.alertRetirement (s : State) : State :=
  let t : State := { s with alert := { s.alert with ackCount := satAdd s.alert.ackCount 1 } }
  let u := t.testMark
  let q := u.port.alertCfg.quiet.toNat
  { u with alert := { u.alert with quietTimer := if 0 < q then some (u.timeBase + q * 10) else none } }

end Sys2Proof.Machine
end

