-- ==== Sys2Proof/Machine/Ops.lean ====
section
/-! DEFINITION. The named operations over the blocks' state that keep the progress block mirrors: link counters, the
exposure places, the tile slots, the walker's fields, and the retirement of an order; and the reads of board memory that a load or a
define makes over several steps. -/

namespace Sys2Proof.Machine

/-! ### Link receivers -/

/-- One link receiver replaced. -/
def State.setLink (l : LinkNo) (k : Link) (s : State) : State := { s with links := s.links.set l k }

/-- The progress block offset of a link's counter (12.6, R26). -/
def counterOff (l : LinkNo) (c : LinkCounter) : Nat := 0x100 + 0x40 * l + 4 * c.idx

/-- R26: a counter of a link gains `n`, stopping at its maximum, and a change is followed by a mirror write. -/
def State.count (l : LinkNo) (c : LinkCounter) (n : Nat) (s : State) : State :=
  let old := s.links[l].counters[c.idx]
  let new := satAdd old n
  (s.setLink l { s.links[l] with counters := s.links[l].counters.set c.idx new }).mirrorIf (decide (new ≠ old))
    (counterOff l c) 4 new

/-! ### Exposure places (R47, R48) -/

/-- The code of an entry state in its mirror (12.6). -/
def ExpState.code : ExpState → Nat
  | .opened => 0
  | .closed => 1
  | .assembling => 2
  | .assembled => 3
  | .discarded => 4

/-- The progress block offset of a place's mirror (12.6). -/
def placeOff (p : Fin 4) : Nat := 0x040 + 8 * p

/-- R48: a place takes a new content (`none`: no entry), and each mirrored value that changes is written. A place that
takes an entry has all six values written, and one that loses its entry has its present byte written (log 7). -/
def State.setPlace (p : Fin 4) (new : Option ExpEntry) (s : State) : State :=
  let old := s.exposures[p]
  let t : State := { s with exposures := s.exposures.set p new }
  match old, new with
  | none, none => t
  | some _, none => t.mirrorIf true (placeOff p) 1 0
  | none, some e =>
    t |> State.mirrorIf true (placeOff p) 1 1
      |> State.mirrorIf true (placeOff p + 1) 1 e.state.code
      |> State.mirrorIf true (placeOff p + 2) 1 e.openedBy.toNat
      |> State.mirrorIf true (placeOff p + 3) 1 e.closedBy.toNat
      |> State.mirrorIf true (placeOff p + 4) 2 e.tag.toNat
      |> State.mirrorIf true (placeOff p + 6) 2 e.held
  | some o, some e =>
    t |> State.mirrorIf (decide (e.state ≠ o.state)) (placeOff p + 1) 1 e.state.code
      |> State.mirrorIf (decide (e.openedBy ≠ o.openedBy)) (placeOff p + 2) 1 e.openedBy.toNat
      |> State.mirrorIf (decide (e.closedBy ≠ o.closedBy)) (placeOff p + 3) 1 e.closedBy.toNat
      |> State.mirrorIf (decide (e.tag ≠ o.tag)) (placeOff p + 4) 2 e.tag.toNat
      |> State.mirrorIf (decide (e.held ≠ o.held)) (placeOff p + 6) 2 e.held

/-- The place that holds the entry for a tag (R47: the tags of the entries present are distinct). -/
def State.placeOf (s : State) (tag : Tag) : Option (Fin 4) :=
  (List.finRange 4).find? fun p => match s.exposures[p] with
    | some e => decide (e.tag = tag)
    | none => false

/-- The entry for a tag. -/
def State.entryOf (s : State) (tag : Tag) : Option ExpEntry :=
  match s.placeOf tag with
  | some p => s.exposures[p]
  | none => none

/-- The lowest-numbered free place (R47). -/
def State.freePlace (s : State) : Option (Fin 4) := (List.finRange 4).find? fun p => s.exposures[p].isNone

/-- The entry for a tag changed by `f`; nothing where there is none. -/
def State.mapEntry (tag : Tag) (f : ExpEntry → ExpEntry) (s : State) : State :=
  match s.placeOf tag with
  | some p => match s.exposures[p] with
    | some e => s.setPlace p (some (f e))
    | none => s
  | none => s

/-- R56: an entry that is ASSEMBLED with no slot held, or DISCARDED, is removed. -/
def State.removalCheck (tag : Tag) (s : State) : State :=
  match s.placeOf tag with
  | some p => match s.exposures[p] with
    | some e => if (e.state = .assembled ∧ e.held = 0) ∨ e.state = .discarded then s.setPlace p none else s
    | none => s
  | none => s

/-! ### Tile slots (R57, R58, R66) -/

/-- The number of FREE slots. -/
def State.freeCount (s : State) : Nat := s.slots.toList.countP (·.isNone)

/-- A slot takes a new catalogue entry (`none`: FREE); a changed free count is mirrored (R48). -/
def State.setSlot (n : SlotNo) (new : Option Slot) (s : State) : State :=
  let t : State := { s with slots := s.slots.set n new }
  t.mirrorIf (decide (new.isSome ≠ s.slots[n].isSome)) 0x024 4 t.freeCount

/-- The board memory offset of a row of a slot (R57). -/
def rowOff (n : SlotNo) (r : Nat) : Nat := Config.poolBase + n * Config.slotBytes + r * Config.rowBytes

/-- The lowest-numbered slot that a test holds of. -/
def State.findSlot (s : State) (test : Slot → Bool) : Option SlotNo :=
  (List.finRange 128).find? fun n => match s.slots[n] with
    | some sl => test sl
    | none => false

/-- The slot of a tag and a segment that is not FREE. -/
def State.slotOf (s : State) (tag : Tag) (seg : SegNo) : Option SlotNo :=
  s.findSlot fun sl => decide (sl.tag = tag) && decide (sl.seg = seg)

/-- The slot of a tag and a segment in one of the states given. -/
def State.slotIn (s : State) (tag : Tag) (seg : SegNo) (states : List SlotState) : Option SlotNo :=
  s.findSlot fun sl => decide (sl.tag = tag) && decide (sl.seg = seg) && decide (sl.state ∈ states)

/-- The lowest-numbered FREE slot (R59). -/
def State.freeSlot (s : State) : Option SlotNo := (List.finRange 128).find? fun n => s.slots[n].isNone

/-- The code of a reason in a segment report (12.6). -/
def FreeReason.code : FreeReason → Nat
  | .deposited => 1
  | .late => 2
  | .restart => 3
  | .discard => 4
  | .mismatch => 5

/-- 1 for true, 0 for false. -/
def bit (b : Bool) : Nat := if b then 1 else 0

/-- The 16 bytes of a segment report (12.6, R66). DESIGN CHOICE (log 39): a highest stored row or rows sent that byte 3 marks as
none is written as 0. -/
def reportBytes (why : FreeReason) (sl : Slot) : List Byte :=
  leBytes 2 sl.tag.toNat ++ leBytes 1 why.code
    ++ leBytes 1 (bit sl.unterminated + 2 * bit sl.restarted + 4 * bit sl.highest.isSome + 8 * bit sl.sent.isSome)
    ++ leBytes 2 sl.expected ++ leBytes 2 sl.rows.length ++ leBytes 2 (sl.highest.getD 0)
    ++ leBytes 2 (sl.sent.getD 0) ++ leBytes 2 sl.cursor ++ leBytes 2 0

/-- The progress block offset of a segment's report (12.6). -/
def reportOff (seg : SegNo) : Nat := 0x200 + 16 * seg

/-- R66: a slot is freed: the segment report is written, the slot becomes FREE, its entry's slots held drops by 1, and
the entry's removal is checked (R56). -/
def State.freeSlotAs (why : FreeReason) (n : SlotNo) (s : State) : State :=
  match s.slots[n] with
  | none => s
  | some sl =>
    s |> (fun s => s.queueMirror (reportOff sl.seg) (reportBytes why sl))
      |> State.setSlot n none
      |> State.mapEntry sl.tag (fun e => { e with held := e.held - 1 })
      |> State.removalCheck sl.tag

/-! ### The walker's fields and retirement (R165, R168, R169) -/

/-- The code of a walker state (12.6, register CAUSE). -/
def WalkerState.code : WalkerState → Nat
  | .stopped => 0
  | .running => 1
  | .halted => 2

/-- The code of a fault reason (12.6). -/
def FaultReason.code : FaultReason → Nat
  | .none => 0
  | .chainLink => 1
  | .chainState => 2
  | .recordRead => 3
  | .orphaned => 4

/-- The walker takes new fields; each mirrored field that changes is written (R169). -/
def State.setWalker (w : Walker) (s : State) : State :=
  let o := s.walker
  let t : State := { s with walker := w }
  t |> State.mirrorIf (decide (w.retired ≠ o.retired)) 0x000 4 w.retired
    |> State.mirrorIf (decide (w.state ≠ o.state)) 0x004 1 w.state.code
    |> State.mirrorIf (decide (w.parked ≠ o.parked)) 0x005 1 (bit w.parked)
    |> State.mirrorIf (decide (w.faultReason ≠ o.faultReason)) 0x006 1 w.faultReason.code
    |> State.mirrorIf (decide (w.lastRetired ≠ o.lastRetired)) 0x008 8 w.lastRetired
    |> State.mirrorIf (decide (w.cursor ≠ o.cursor)) 0x010 8 w.cursor
    |> State.mirrorIf (decide (w.faultOffset ≠ o.faultOffset)) 0x018 8 w.faultOffset

/-- The fault record takes a reason and an offset, and FAULT is raised (R165, R168). -/
def State.faultRecord (why : FaultReason) (off : Nat) (s : State) : State :=
  (s.setWalker { s.walker with faultReason := why, faultOffset := off }).raise .fault

/-- The order status codes (12.2). -/
inductive Status where
  | ok
  | partial_
  | empty
  | aborted
  | badKind
  | badField
  | badBank
  | noMap
  | placementRange
  | bankGeometry
  | fieldBusy
  | regionRange
  | regionOverlap
  | badRect
  | bankCheck
  | mapCheck
  | flashTimeout
  | unknownExposure
  | alreadyAssembled
  | memoryFault
  deriving DecidableEq, Repr

/-- The code of a status (12.2). -/
def Status.code : Status → Nat
  | .ok => 0
  | .partial_ => 1
  | .empty => 2
  | .aborted => 3
  | .badKind => 16
  | .badField => 17
  | .badBank => 18
  | .noMap => 19
  | .placementRange => 20
  | .bankGeometry => 21
  | .fieldBusy => 22
  | .regionRange => 23
  | .regionOverlap => 24
  | .badRect => 25
  | .bankCheck => 26
  | .mapCheck => 27
  | .flashTimeout => 28
  | .unknownExposure => 29
  | .alreadyAssembled => 30
  | .memoryFault => 31

/-- R168: DONE (3) for OK, PARTIAL, EMPTY and ABORTED, FAILED (4) for any other status. -/
def Status.stateWord (st : Status) : Nat := if st.code < 16 then 3 else 4

/-- The bytes of a result area: eleven 32-bit slots, those not given written as 0 (12.2, R168). -/
def resultBytes (results : List Nat) : List Byte :=
  ((results ++ List.replicate 11 0).take 11).flatMap (leBytes 4)

/-- R180: the writes of a retirement into the record at `off`: the result area, status, retire time, and last the state
word. -/
def recordResults (off : Nat) (st : Status) (results : List Nat) (time : Nat) (m : List Host.Cell) : List Host.Cell :=
  let m := Memory.writeBytes m (off + 84) (resultBytes results)
  let m := Memory.writeBytes m (off + 6) (leBytes 2 st.code)
  let m := Memory.writeBytes m (off + 32) (leBytes 8 time)
  Memory.writeBytes m off (leBytes 4 st.stateWord)

/-- R168: the walker retires the order whose record lies at `off`. -/
def State.retire (off : Nat) (st : Status) (results : List Nat) (s : State) : State :=
  if s.readErr .reread off 4 then
    (s.memError .orderRecords).faultRecord .recordRead off
  else if Memory.readNat s.mem off 4 = 2 then
    let t : State := { s with mem := recordResults off st results s.timeBase s.mem }
    (t.setWalker { t.walker with retired := (t.walker.retired + 1) % 4294967296, lastRetired := off }).alertRetirement
  else
    s.faultRecord .orphaned off

/-! ### Reads under way (R8, R74) -/

/-- R8, R74: the record offset of the order in flight that reads board memory over several steps: a DEFINE_BANK, or a LOAD_MAP whose
board memory load has begun. -/
def State.reading (s : State) : Option Nat :=
  match s.service with
  | some (.defineBank rec _ _ _) => some rec
  | some (.loadMap rec (some _) true) => some rec
  | _ => none

/-- R8, R74: the reads of a board memory load or of a define begin with board memory as it now stands. -/
def State.startReads (s : State) : State := { s with past := [] }

/-- R8, R74: a change of board memory since `before`, made while an order reads it: the reads may have come before the change. -/
def State.noteMemory (s before : State) : State :=
  if before.reading.isSome ∧ s.reading = before.reading ∧ s.mem ≠ before.mem then { s with past := s.past ++ [before.mem] } else s

/-- Board memory at a moment of the running reads: before the change of that place, or as it now stands. -/
def State.memoryAt (s : State) (moment : Nat) : List Host.Cell := s.past.getD moment s.mem

/-- The moment at which a byte is listed as read, the present one (`now`) where it is not listed. The first listing counts. -/
def listedMoment (now : Nat) : List EarlyRead → Nat → Nat
  | [], _ => now
  | r :: rs, a => if a ∈ r.bytes then min r.moment now else listedMoment now rs a

/-- R8, R74: the moment at which a byte of an image or bank record at an offset is read. Its 16 header bytes are read, and checked,
before any other. -/
def readMoment (now off : Nat) (early : List EarlyRead) (a : Nat) : Nat :=
  let own := listedMoment now early a
  if a < off + 16 then own else ((List.range 16).map fun i => listedMoment now early (off + i)).foldl max own

/-- R8, R74: board memory as the reads of an image or bank record at an offset found it, each byte at the moment it was read. DESIGN
CHOICE (log 48): the moments are an operand of the command that ends the reads. -/
def State.asRead (s : State) (off : Nat) (early : List EarlyRead) : List Host.Cell :=
  (early.flatMap EarlyRead.bytes).foldl
    (fun m a => Memory.writeBytes m a [Memory.read (s.memoryAt (readMoment s.past.length off early a)) a]) s.mem

end Sys2Proof.Machine
end

