-- ==== Sys2Proof/Machine/Calibrate.lean ====
section
/-! DEFINITION. Pixel calibration: from a raw sample to a calibrated value (chapter 5, R80 to R89). -/

namespace Sys2Proof.Machine

/-- The largest magnitude of a calibrated value (R89). -/
def valueMax : Int := 268435455

/-- The outcome of an image pixel (R80). -/
inductive PixelOutcome where
  | saturated
  | bad
  | deposit (v : Int) (clamped : Bool)
  deriving DecidableEq, Repr

/-- R83: a defect entry covers image pixel (x, y) of a segment. -/
def Defect.covers (d : Defect) (seg : SegNo) (x y : Nat) : Bool :=
  decide (d.seg = seg) && decide (d.firstCol ≤ x ∧ x ≤ d.lastCol) && decide (d.firstRow ≤ y ∧ y ≤ d.lastRow)

/-- R84: the overscan mean of `n` samples with the sum given, halves rounded up. -/
def overscanMean (sum n : Nat) : Nat := (2 * sum + n) / (2 * n)

/-- R86: the gain stage, in units of 1/16 electron. -/
def gainStage (S : Int) (G : Nat) : Int := roundDiv (S * G) 256

/-- R87: the linearity table index: S clamped to 0..65535 and shifted right by 6. -/
def linearityIndex (S : Int) : Nat := (min (max S 0) 65535).toNat / 64

/-- R87: the linearity stage. -/
def linearityStage (P1 : Int) (L : Nat) : Int := roundDiv (P1 * L) 16384

/-- R88: the flat stage. -/
def flatStage (P2 : Int) (F : Nat) : Int := roundDiv (P2 * F) 16384

/-- R89: the clamp, with the clamped mark. -/
def clampStage (V : Int) : Int × Bool :=
  if valueMax < V then (valueMax, true) else if V < -valueMax then (-valueMax, true) else (V, false)

/-- R86 to R89: the calibrated value of a sample D with bias B, gain G, linearity table and flat entry F. -/
def calibratedValue (D B G : Nat) (lut : List Nat) (F : Nat) : Int × Bool :=
  let S : Int := (D : Int) - B
  clampStage (flatStage (linearityStage (gainStage S G) (lut.getD (linearityIndex S) 0)) F)

/-- What a row's reads gave: samples, linearity table, flat row and bias row (R78). A flat row is absent without a flat
plane, a bias row outside PLANE mode. -/
structure RowData where
  samples : List Nat
  lut : List Nat
  flat : Option (List Nat)
  bias : Option (List Nat)
  deriving DecidableEq, Repr

/-- R84, R85: the bias of image pixel x of a row. -/
def rowBias (amp : Amp) (e : SegEntry) (r : RowData) (x : Nat) : Nat :=
  match amp.mode with
  | .overscan => overscanMean (((r.samples.drop (e.prescan + e.image + amp.skip)).take amp.n).sum) amp.n
  | .fixed => amp.fixed
  | .plane => (r.bias.getD []).getD x 0

/-- R88: the flat entry of image pixel x: 16384 without a flat plane. -/
def rowFlat (r : RowData) (x : Nat) : Nat :=
  match r.flat with
  | some f => f.getD x 0
  | none => 16384

/-- R80: the outcome of image pixel (x, y) of a segment. -/
def pixelOutcome (amp : Amp) (defects : List Defect) (seg : SegNo) (e : SegEntry) (r : RowData) (x y : Nat) :
    PixelOutcome :=
  let D := r.samples.getD (e.prescan + x) 0
  let F := rowFlat r x
  if amp.sat ≤ D then .saturated
  else if defects.any (fun d => d.covers seg x y) || F == 0 then .bad
  else
    let v := calibratedValue D (rowBias amp e r x) amp.gain r.lut F
    .deposit v.1 v.2

end Sys2Proof.Machine
end

