-- ==== Sys2Proof/Machine/Place.lean ====
section
/-! DEFINITION. Placement on the sky grid: effective placements, the range check, positions and the split (chapter 6). -/

namespace Sys2Proof.Machine

/-- R92: the pointing of an ASSEMBLE, as stored integers. -/
structure Pointing where
  cp : Int
  sp : Int
  pu : Int
  pv : Int
  deriving DecidableEq, Repr

/-- 2^30: the unit of a fixed-point value with 30 fractional bits. -/
abbrev one30 : Nat := 1073741824

/-- R94: the effective placement composed from a map entry, a pointing and the field's origin. -/
def compose (e : SegEntry) (p : Pointing) (ou ov : Int) : Placement :=
  { A := roundDiv (p.cp * e.a - p.sp * e.c) one30
    B := roundDiv (p.cp * e.b - p.sp * e.d) one30
    Dc := roundDiv (p.sp * e.a + p.cp * e.c) one30
    E := roundDiv (p.sp * e.b + p.cp * e.d) one30
    Cu := roundDiv (p.cp * e.e - p.sp * e.f) one30 + p.pu - ou * one30
    Cv := roundDiv (p.sp * e.e + p.cp * e.f) one30 + p.pv - ov * one30 }

/-- R95: a linear coefficient has a magnitude below 2.0. -/
def linearFits (c : Int) : Bool := decide (c.natAbs < 2147483648)

/-- R95: the linear coefficients of a placement are in range. -/
def Placement.fits (p : Placement) : Bool := linearFits p.A && linearFits p.B && linearFits p.Dc && linearFits p.E

/-- R95: pu and pv have stored magnitudes below 2^61. -/
def Pointing.fits (p : Pointing) : Bool :=
  decide (p.pu.natAbs < 2305843009213693952) && decide (p.pv.natAbs < 2305843009213693952)

/-- R96: the sky column u of image pixel (x, y), in units of 2^-30 sky pixel from the field's origin. -/
def Placement.u (p : Placement) (x y : Nat) : Int := p.A * x + p.B * y + p.Cu

/-- R96: the sky row v of image pixel (x, y). -/
def Placement.v (p : Placement) (x y : Nat) : Int := p.Dc * x + p.E * y + p.Cv

/-- R97: the whole part of a position, rounded toward minus infinity. -/
def wholePart (u : Int) : Int := u / (one30 : Int)

/-- R97: the 8-bit fraction of a position. -/
def fraction (u : Int) : Nat := ((u % (one30 : Int)) / 4194304).toNat

/-- R98: one target of a pixel: sky pixel (i, j) and split weight. -/
structure Target where
  i : Int
  j : Int
  split : Nat
  deriving DecidableEq, Repr

/-- R98, R99: the four targets of a pixel at (u, v), in the order of the table. -/
def targets (u v : Int) : List Target :=
  let ui := wholePart u
  let vi := wholePart v
  let fx := fraction u
  let fy := fraction v
  [ ⟨ui, vi, (256 - fx) * (256 - fy)⟩,
    ⟨ui + 1, vi, fx * (256 - fy)⟩,
    ⟨ui, vi + 1, (256 - fx) * fy⟩,
    ⟨ui + 1, vi + 1, fx * fy⟩ ]

/-- R100: a target lies in a field of the width and height given. -/
def Target.inField (t : Target) (width height : Nat) : Bool :=
  decide (0 ≤ t.i ∧ t.i < width ∧ 0 ≤ t.j ∧ t.j < height)

/-- R102: the weight of a share. -/
def shareWeight (split weight : Nat) : Nat := split * weight / 256

/-- R92: an exposure weight of 0 is taken as 1. -/
def weightInUse (w : Nat) : Nat := if w = 0 then 1 else w

end Sys2Proof.Machine
end

