-- ==== Sys2Proof/Machine/Canvas.lean ====
section
/-! DEFINITION. The sky canvas: accumulator records, the touches of a cell, the product-written event and the clear
(chapter 7). -/

namespace Sys2Proof.Machine

/-- R106: the bytes of a field's accumulator region. -/
def Field.regionBytes (f : Field) : Nat := f.cols * f.rows * Config.cellBytes

/-- R170: the byte range shares a byte with the accumulator region of some DEFINED field. -/
def State.inSomeField (s : State) (off n : Nat) : Bool :=
  s.fields.toList.any fun
    | some f => overlaps off n f.base f.regionBytes
    | none => false

/-- R106: the number of a cell in row order. -/
def Field.cellNo (f : Field) (col row : Nat) : Nat := row * f.cols + col

/-- R106: where the accumulator record of sky pixel (i, j) begins. -/
def Field.recordOff (f : Field) (i j : Nat) : Nat :=
  f.base + (f.cellNo (i / 256) (j / 256) * 65536 + (j % 256) * 256 + i % 256) * 24

/-- R114, 12.5: an accumulator record. -/
structure AccRecord where
  fsum : Int
  wsum : Nat
  hiValue : Int
  hiWeight : Nat
  count : Nat
  mask : Nat
  deriving DecidableEq, Repr

/-- The mask flags (12.5). -/
inductive MaskFlag where
  | saturated
  | badPix
  | clamped
  | full
  | rejected
  | noData
  | spoiled
  deriving DecidableEq, Repr

/-- The value of a mask flag (12.5). -/
def MaskFlag.value : MaskFlag → Nat
  | .saturated => 1
  | .badPix => 2
  | .clamped => 4
  | .full => 8
  | .rejected => 16
  | .noData => 32
  | .spoiled => 64

/-- A mask with a flag added. -/
def addFlag (mask : Nat) (f : MaskFlag) : Nat := mask ||| f.value

/-- R179: the record at an offset, reserved bits of the mask disregarded. -/
def readRecord (m : List Host.Cell) (off : Nat) : AccRecord :=
  { fsum := Memory.readInt m off 8
    wsum := Memory.readNat m (off + 8) 4
    hiValue := Memory.readInt m (off + 12) 4
    hiWeight := Memory.readNat m (off + 16) 2
    count := Memory.readNat m (off + 18) 2
    mask := Memory.readNat m (off + 20) 2 % 16 }

/-- The 24 bytes of a record; bytes 22 and 23 are 0 (R180). -/
def AccRecord.bytes (r : AccRecord) : List Byte :=
  leBytes 8 (stored 64 r.fsum) ++ leBytes 4 r.wsum ++ leBytes 4 (stored 32 r.hiValue) ++ leBytes 2 r.hiWeight
    ++ leBytes 2 r.count ++ leBytes 2 r.mask ++ leBytes 2 0

/-- R114: what a share with value V, weight w and clamped mark c makes of a record; false when it is refused FULL. -/
def AccRecord.share (r : AccRecord) (V : Int) (w : Nat) (c : Bool) : AccRecord × Bool :=
  let mask := if c then addFlag r.mask .clamped else r.mask
  if r.count = 65535 then ({ r with mask := addFlag mask .full }, false)
  else
    let high := decide (r.count = 0) || decide (r.hiValue < V)
    ({ fsum := r.fsum + V * w
       wsum := r.wsum + w
       hiValue := if high then V else r.hiValue
       hiWeight := if high then w else r.hiWeight
       count := r.count + 1
       mask := mask }, true)

/-- R111: the outcome of a share. -/
inductive ShareOutcome where
  | made
  | refusedFull
  | droppedSpoiled
  deriving DecidableEq, Repr

/-- One field replaced. -/
def State.setField (f : Fin 4) (x : Option Field) (s : State) : State := { s with fields := s.fields.set f x }

/-- The directory entry of a cell. -/
def State.cellAt (s : State) (f : Fin 4) (c : Nat) : Option DirCell :=
  match s.fields[f] with
  | some fd => fd.cells[c]?
  | none => none

/-- The directory entry of a cell changed by `g`. -/
def State.mapCell (f : Fin 4) (c : Nat) (g : DirCell → DirCell) (s : State) : State :=
  match s.fields[f] with
  | some fd => s.setField f (some { fd with cells := fd.cells.modify c g })
  | none => s

/-- R112: all 65,536 records of a cell are zeroed and the cell becomes ACCUMULATING. -/
def State.zeroCell (f : Fin 4) (c : Nat) (s : State) : State :=
  match s.fields[f] with
  | some fd =>
    ({ s with mem := Memory.zero s.mem (fd.base + c * Config.cellBytes) Config.cellBytes } : State).mapCell f c
      fun d => { d with state := .accumulating }
  | none => s

/-- R113: STALE (3) is written into the product state field at an offset, when that field lies in the general region and
outside the region of every DEFINED field. -/
def State.writeStale (off : Nat) (s : State) : State :=
  if inGeneral off 4 && !s.inSomeField off 4 then { s with mem := Memory.writeBytes s.mem off (leBytes 4 3) } else s

/-- R112, R113: a touch first brings its cell into a state that can take it: a VACANT cell is zeroed, a FINALIZED cell has
its last product marked STALE, and both become ACCUMULATING. -/
def State.prepareCell (f : Fin 4) (c : Nat) (s : State) : State :=
  match s.cellAt f c with
  | some d =>
    match d.state with
    | .vacant => s.zeroCell f c
    | .finalized =>
      let t := match d.last with
        | some off => s.writeStale off
        | none => s
      t.mapCell f c fun d => { d with state := .accumulating }
    | .accumulating => s
    | .spoiled => s
  | none => s

/-- R117: the exposure list and overflow flag after a deposit made by the exposure of a tag. -/
def DirCell.noteExposure (tag : Tag) (d : DirCell) : DirCell :=
  if tag ∈ d.exposures then d
  else if d.exposures.length < 8 then { d with exposures := d.exposures ++ [tag] }
  else { d with overflow := true }

/-- R119: a record read met an uncorrectable error: the cell becomes SPOILED, the error is counted and FAULT raised. -/
def State.spoilCell (f : Fin 4) (c : Nat) (s : State) : State :=
  (s.mapCell f c fun d => { d with state := .spoiled }).memError .accumulatorRecords

/-- R114, R119, R120: a share that reaches cell `c` (already prepared) at the record at `off`. -/
def State.takeShare (f : Fin 4) (c off : Nat) (tag : Tag) (V : Int) (w : Nat) (cl : Bool) (s : State) :
    State × ShareOutcome :=
  match s.cellAt f c with
  | none => (s, .droppedSpoiled)
  | some d =>
    if d.state = .spoiled then (s, .droppedSpoiled)
    else if s.readErr .accumulator off 24 then (s.spoilCell f c, .droppedSpoiled)
    else
      let r := (readRecord s.mem off).share V w cl
      let t : State := { s with mem := Memory.writeBytes s.mem off r.1.bytes }
      if r.2 then (t.mapCell f c (DirCell.noteExposure tag), .made) else (t, .refusedFull)

/-- R115, R119, R120: a mask effect that reaches cell `c` (already prepared) at the record at `off`. -/
def State.takeMask (f : Fin 4) (c off : Nat) (flag : MaskFlag) (s : State) : State :=
  match s.cellAt f c with
  | none => s
  | some d =>
    if d.state = .spoiled then s
    else if s.readErr .accumulator off 24 then s.spoilCell f c
    else
      let r := readRecord s.mem off
      { s with mem := Memory.writeBytes s.mem off ({ r with mask := addFlag r.mask flag } : AccRecord).bytes }

/-- R110: one share handed to the canvas for sky pixel (i, j) of a field. -/
def State.touchShare (f : Fin 4) (i j : Nat) (tag : Tag) (V : Int) (w : Nat) (cl : Bool) (s : State) :
    State × ShareOutcome :=
  match s.fields[f] with
  | none => (s, .droppedSpoiled)
  | some fd =>
    let c := fd.cellNo (i / 256) (j / 256)
    (s.prepareCell f c).takeShare f c (fd.recordOff i j) tag V w cl

/-- R110: one mask effect handed to the canvas for sky pixel (i, j) of a field. -/
def State.touchMask (f : Fin 4) (i j : Nat) (flag : MaskFlag) (s : State) : State :=
  match s.fields[f] with
  | none => s
  | some fd =>
    let c := fd.cellNo (i / 256) (j / 256)
    (s.prepareCell f c).takeMask f c (fd.recordOff i j) flag

/-- R116: each cell listed has its deposit count gain 1 at the end of a row deposit event. -/
def State.noteDeposits (f : Fin 4) (cells : List Nat) (s : State) : State :=
  cells.foldl (fun s c => s.mapCell f c fun d => { d with deposits := satAdd d.deposits 1 }) s

/-- R121: the product-written event of a cell. -/
def DirCell.productWritten (off : Nat) (d : DirCell) : DirCell :=
  match d.state with
  | .vacant => d
  | .accumulating => { d with state := .finalized, last := some off }
  | .finalized => { d with last := some off }
  | .spoiled => { d with last := some off }

/-- R109, R123: a VACANT cell directory entry. -/
def DirCell.vacant : DirCell := ⟨.vacant, 0, [], false, none⟩

/-- The code of a cell state in a product header (12.5). -/
def CellState.code : CellState → Nat
  | .vacant => 0
  | .accumulating => 1
  | .finalized => 2
  | .spoiled => 3

end Sys2Proof.Machine
end

