-- ==== Sys2Proof/Machine/Assemble.lean ====
section
/-! DEFINITION. The deposit unit: take-up, binding, the row deposit, the service modes, close, deadline and the end of an
ASSEMBLE (chapters 6 and 8). -/

namespace Sys2Proof.Machine

/-! ### Settling segments -/

/-- The order the deposit unit holds, in WAITING or SERVING. -/
def State.assembly (s : State) : Option Assembly :=
  match s.deposit with
  | .idle => none
  | .waiting o => some o
  | .serving o => some o

/-- The held order of a SERVING unit changed by `g`. -/
def State.mapServing (g : Assembly → Assembly) (s : State) : State :=
  match s.deposit with
  | .serving o => { s with deposit := .serving (g o) }
  | _ => s

/-- The results of a SERVING order changed by `g`. -/
def State.mapResults (g : Results → Results) (s : State) : State :=
  s.mapServing fun o => { o with results := g o.results }

/-- A segment is present in the map copy and UNSETTLED in the entry (R139: only such a segment is settled). -/
def State.awaits (s : State) (o : Assembly) (seg : SegNo) : Bool :=
  o.map[seg].isSome && match s.entryOf o.tag with
    | some e => decide (e.outcomes[seg] = .unsettled)
    | none => false

/-- R55, Settle: a segment's outcome is written into the entry. -/
def State.settle (tag : Tag) (seg : SegNo) (out : SegOutcome) (s : State) : State :=
  s.mapEntry tag fun e => { e with outcomes := e.outcomes.set seg out }

/-- A segment is settled MISSING and counted (R129, R136, R137). -/
def State.settleMissing (tag : Tag) (seg : SegNo) (s : State) : State :=
  (s.settle tag seg .missing).mapResults fun r => { r with missing := satAdd r.missing 1 }

/-- R65: the deposit unit's request that a slot become LATE, naming its tag and segment. -/
def State.requestLate (n : SlotNo) (tag : Tag) (seg : SegNo) (s : State) : State :=
  match s.slots[n] with
  | some sl =>
    if sl.tag = tag ∧ sl.seg = seg ∧ sl.state = .filling then s.setSlot n (some { sl with state := .late }) else s
  | none => s

/-- The indices below expected rows that a slot never stored, counted (R133, R137). -/
def Slot.rowsNeverStored (sl : Slot) : Nat := sl.expected - sl.rows.length

/-- R137, step 1, for one slot: the request, and when the slot became LATE the segment is settled LATE. In ROW_FOLLOWING
the slot is then drained. -/
def State.makeLate (n : SlotNo) (seg : SegNo) (s : State) : State :=
  match s.deposit with
  | .serving o =>
    let t := s.requestLate n o.tag seg
    match t.slots[n] with
    | some sl =>
      if sl.tag = o.tag ∧ sl.seg = seg ∧ sl.state = .late then
        ((t.settle o.tag seg .late).mapResults fun r =>
            { r with late := satAdd r.late 1, rowsMissing := satAdd r.rowsMissing sl.rowsNeverStored }).mapServing
          fun o => { o with draining := if o.tileComplete then o.draining else o.draining ++ [seg] }
      else t
    | none => t
  | _ => s

/-- R131: the examination of a slot of T for an UNSETTLED segment. A slot whose row length or map rows differ from the map
copy is settled MISSING and freed; after the deadline a FILLING slot is made LATE (R138). -/
def State.examineSlot (n : SlotNo) (s : State) : State :=
  match s.deposit with
  | .serving o =>
    match s.slots[n] with
    | some sl =>
      if sl.tag = o.tag ∧ s.awaits o sl.seg then
        match o.map[sl.seg] with
        | some e =>
          if sl.rowLen ≠ e.rowLen ∨ sl.mapRows ≠ e.rows then
            ((s.settleMissing o.tag sl.seg).mapResults fun r =>
              { r with mismatched := satAdd r.mismatched 1 }).freeSlotAs .mismatch n
          else if o.deadlinePassed ∧ sl.state = .filling then s.makeLate n sl.seg
          else s
        | none => s
      else s
    | none => s
  | _ => s

/-- R132: the row served next from a slot: the lowest stored index at or above the deposit cursor. -/
def Slot.rowReady (sl : Slot) : Option Nat := sl.rows.find? fun r => decide (sl.cursor ≤ r)

/-- R133: a COMPLETE slot of the order with no row ready finishes: its missing rows are counted, its segment is settled
DEPOSITED, and the slot is freed. -/
def State.finishTest (n : SlotNo) (s : State) : State :=
  match s.deposit with
  | .serving o =>
    match s.slots[n] with
    | some sl =>
      if sl.tag = o.tag ∧ sl.state = .complete ∧ sl.rowReady = none ∧ s.awaits o sl.seg then
        (((s.settle o.tag sl.seg .deposited).mapResults fun r =>
            { r with
              deposited := satAdd r.deposited 1
              rowsMissing := satAdd r.rowsMissing sl.rowsNeverStored }).freeSlotAs .deposited n).mapServing
          fun o => { o with current := if o.current = some sl.seg then none else o.current }
      else s
    | none => s
  | _ => s

/-! ### The end of an ASSEMBLE -/

/-- The results in slot order (12.2). -/
def Results.toList (r : Results) : List Nat :=
  [r.deposited, r.missing, r.late, r.mismatched, r.rowsMissing, r.saturated, r.bad, r.clamped, r.clipped, r.refusedFull,
   r.droppedSpoiled]

/-- R140: the status of an ASSEMBLE that ends. -/
def Assembly.status (o : Assembly) (outcomes : Vector SegOutcome 64) : Status :=
  if !o.made then .empty
  else if ((List.finRange 64).any fun seg =>
      o.map[seg].isSome && (decide (outcomes[seg] = .missing) || decide (outcomes[seg] = .late)))
      || decide (0 < o.results.rowsMissing) || decide (0 < o.results.droppedSpoiled) then .partial_
  else .ok

/-- R140: the order ends: the entry becomes ASSEMBLED, and is removed if it holds no slot (R56); the unit becomes IDLE and
the order is retired. -/
def State.endAssembly (o : Assembly) (s : State) : State :=
  let t := s.mapEntry o.tag fun e => { e with state := .assembled }
  let outcomes := match t.entryOf o.tag with
    | some e => e.outcomes
    | none => Vector.replicate 64 .unsettled
  let u := t.removalCheck o.tag
  ({ u with deposit := .idle } : State).retire o.record (o.status outcomes) o.results.toList

/-- R137: a LATE slot of the order is still being drained: it has a row ready. -/
def State.drains (s : State) (o : Assembly) : Bool :=
  o.draining.any fun seg =>
    match s.slotIn o.tag seg [.late] with
    | some n => match s.slots[n] with
      | some sl => sl.rowReady.isSome
      | none => false
    | none => false

/-- R140: the end test, and the end when it is met. -/
def State.endTest (s : State) : State :=
  match s.deposit with
  | .serving o =>
    if (List.finRange 64).any (s.awaits o) || s.drains o then s else s.endAssembly o
  | _ => s

/-! ### Service modes -/

/-- R134: in TILE_COMPLETE with no current segment, the lowest present UNSETTLED segment with a COMPLETE slot becomes
current; a slot that then finishes (R133) leads to the next choice. -/
def State.chooseTile : Nat → State → State
  | 0, s => s
  | fuel + 1, s =>
    match s.deposit with
    | .serving o =>
      if o.tileComplete ∧ o.current = none then
        match (List.finRange 64).find? fun seg =>
            s.awaits o seg && (s.slotIn o.tag seg [.complete]).isSome with
        | some seg =>
          let t := s.mapServing fun o => { o with current := some seg }
          match t.slotIn o.tag seg [.complete] with
          | some n => (t.finishTest n).chooseTile fuel
          | none => t
        | none => s
      else s
    | _ => s

/-- The choice of R134 made until it stands; each finish settles one of the 64 segments. -/
def State.choose (s : State) : State := s.chooseTile 65

/-! ### The row deposit -/

/-- What a row deposit event gathers while its touches are taken: the state, the results, whether a share was MADE, and the
cells that took a deposit (R116). -/
structure RowRun where
  st : State
  res : Results
  made : Bool
  cells : List Nat
  deriving DecidableEq, Repr

/-- R100, R102: one target of a DEPOSIT pixel. -/
def depositTarget (o : Assembly) (v : Int) (clamped : Bool) (a : RowRun) (t : Target) : RowRun :=
  if t.split = 0 then a
  else if t.inField o.width o.height then
    let w := shareWeight t.split o.weight
    if w = 0 then a
    else
      let r := a.st.touchShare o.field t.i.toNat t.j.toNat o.tag v w clamped
      match r.2 with
      | .made =>
        let c := t.j.toNat / 256 * (o.width / 256) + t.i.toNat / 256
        { a with st := r.1, made := true, cells := if c ∈ a.cells then a.cells else a.cells ++ [c] }
      | .refusedFull => { a with st := r.1, res := { a.res with refusedFull := satAdd a.res.refusedFull 1 } }
      | .droppedSpoiled => { a with st := r.1, res := { a.res with droppedSpoiled := satAdd a.res.droppedSpoiled 1 } }
  else { a with res := { a.res with clipped := satAdd a.res.clipped 1 } }

/-- R100, R101: one target of a SATURATED or BAD pixel. -/
def maskTarget (o : Assembly) (flag : MaskFlag) (a : RowRun) (t : Target) : RowRun :=
  if t.split = 0 then a
  else if t.inField o.width o.height then { a with st := a.st.touchMask o.field t.i.toNat t.j.toNat flag }
  else a

/-- R90, R99: one image pixel of a row: its outcome is counted and its four targets are taken in order. -/
def depositPixel (o : Assembly) (p : Placement) (x y : Nat) (out : PixelOutcome) (a : RowRun) : RowRun :=
  let ts := targets (p.u x y) (p.v x y)
  match out with
  | .saturated =>
    ts.foldl (maskTarget o .saturated) { a with res := { a.res with saturated := satAdd a.res.saturated 1 } }
  | .bad => ts.foldl (maskTarget o .badPix) { a with res := { a.res with bad := satAdd a.res.bad 1 } }
  | .deposit v cl =>
    ts.foldl (depositTarget o v cl)
      (if cl then { a with res := { a.res with clamped := satAdd a.res.clamped 1 } } else a)

/-- R80, R90: the image pixels of a row in order of ascending column. -/
def depositPixels (o : Assembly) (amp : Amp) (defects : List Defect) (seg : SegNo) (e : SegEntry) (p : Placement)
    (r : RowData) (y : Nat) (a : RowRun) : RowRun :=
  (List.range e.image).foldl
    (fun a x => depositPixel o p x y (pixelOutcome amp defects seg e r x y) a) a

/-- R78: the reads one row needs: where each lies, how long it is, which read it is, and the source its errors count under
(R173). -/
def rowReads (amp : Amp) (e : SegEntry) (n : SlotNo) (r : Nat) : List (ReadBy × Nat × Nat × MemSource) :=
  [(.tileRow, rowOff n r, 2 * e.rowLen, .tileRows), (.table, amp.lut, 2048, .tablesAndPlanes)]
    ++ (if amp.flat = 0 then [] else [(.table, amp.flat + r * e.image * 2, 2 * e.image, .tablesAndPlanes)])
    ++ (if amp.mode = .plane then [(.table, amp.bias + r * e.image * 2, 2 * e.image, .tablesAndPlanes)] else [])

/-- R78: board memory as it stood before a host write that landed while the reads for one row were under way, and the entries of the row
read by then. -/
structure RowView where
  mem : List Host.Cell
  read : List RowEntry
  deriving DecidableEq, Repr

/-- R78: board memory as it stood when an entry of the row was read: before the first write that the entry was read before, or after every
write. -/
def entryMemory (m : List Host.Cell) : List RowView → RowEntry → List Host.Cell
  | [], _ => m
  | v :: vs, x => if x ∈ v.read then v.mem else entryMemory m vs x

/-- R78: the entries that `n` reads from an offset give. Each is read whole, from memory as it stood then. -/
def readEntries (m : List Host.Cell) (views : List RowView) (which : Nat → RowEntry) (off n : Nat) : List Nat :=
  (List.range n).map fun i => Memory.readNat (entryMemory m views (which i)) (off + 2 * i) 2

/-- R78: what the reads of a row give, over the views that host writes left of board memory and the memory after them. -/
def readRow (m : List Host.Cell) (views : List RowView) (amp : Amp) (e : SegEntry) (n : SlotNo) (r : Nat) : RowData :=
  let row := r * e.image * 2
  { samples := Memory.readU16s m (rowOff n r) e.rowLen
    lut := readEntries m views .table amp.lut 1024
    flat := if amp.flat = 0 then none else some (readEntries m views .flat (amp.flat + row) e.image)
    bias := if amp.mode = .plane then some (readEntries m views .bias (amp.bias + row) e.image) else none }

/-- The deposit cursor of a slot (R132, step 4). -/
def State.setCursor (n : SlotNo) (k : Nat) (s : State) : State :=
  match s.slots[n] with
  | some sl => s.setSlot n (some { sl with cursor := k })
  | none => s

/-- R132: one row deposit event: row r of slot n of the segment. A read error makes the row missing (R81). -/
def State.serveRow (views : List RowView) (o : Assembly) (n : SlotNo) (seg : SegNo) (r : Nat) (s : State) : State :=
  match s.banks[o.bank], o.map[seg], o.place[seg] with
  | some bank, some e, some p =>
    let amp := bank.amps[seg]
    let errors := (rowReads amp e n r).filter fun x => s.readErr x.1 x.2.1 x.2.2.1
    if errors ≠ [] then
      ((errors.foldl (fun s x => s.memError x.2.2.2) s).mapResults fun q =>
        { q with rowsMissing := satAdd q.rowsMissing 1 }).setCursor n (r + 1)
    else
      let a := depositPixels o amp bank.defects seg e p (readRow s.mem views amp e n r) r ⟨s, o.results, o.made, []⟩
      ((a.st.noteDeposits o.field a.cells).mapServing fun o => { o with results := a.res, made := a.made }).setCursor n
        (r + 1)
  | _, _, _ => s

/-- R135, R137: the slot of a segment that ROW_FOLLOWING serves: FILLING (before the deadline) or COMPLETE for an UNSETTLED
segment, LATE for one under drain. -/
def State.servedSlot (s : State) (o : Assembly) (seg : SegNo) : Option SlotNo :=
  if s.awaits o seg then s.slotIn o.tag seg (if o.deadlinePassed then [.complete] else [.filling, .complete])
  else if seg ∈ o.draining then s.slotIn o.tag seg [.late]
  else none

/-- R135: the segment numbers from the turn upward to 63, then from 0 up to the turn less 1. -/
def fromTurn (t : SegNo) : List SegNo := (List.finRange 64).drop t ++ (List.finRange 64).take t

/-- R135: the search of ROW_FOLLOWING over the segments given. A COMPLETE slot with no row ready is finished as the search
passes it; the first slot with a row ready has that one row served. -/
def State.searchRow (views : List RowView) : List SegNo → State → State
  | [], s => s
  | seg :: rest, s =>
    match s.deposit with
    | .serving o =>
      match s.servedSlot o seg with
      | some n =>
        match s.slots[n] with
        | some sl =>
          match sl.rowReady with
          | some r => ((s.serveRow views o n seg r).mapServing fun o => { o with turn := seg + 1 }).finishTest n
          | none => (s.finishTest n).searchRow views rest
        | none => s.searchRow views rest
      | none => s.searchRow views rest
    | _ => s

/-- R134: the current segment is cleared when its slot is no longer COMPLETE for T. DESIGN CHOICE (log 37): R126 holds no slot
number, so the slot is looked up by tag and segment, and a segment that was restarted and whose new slot already is COMPLETE
stays current. -/
def State.checkCurrent (s : State) : State :=
  match s.deposit with
  | .serving o =>
    match o.current with
    | some seg =>
      if s.awaits o seg && (s.slotIn o.tag seg [.complete]).isSome then s
      else s.mapServing fun o => { o with current := none }
    | none => s
  | _ => s

/-- R134: TILE_COMPLETE serves the next row of the current segment's slot. -/
def State.tileRow (views : List RowView) (s : State) : State :=
  let t := s.checkCurrent.choose
  match t.deposit with
  | .serving o =>
    match o.current with
    | some seg =>
      match t.slotIn o.tag seg [.complete] with
      | some n =>
        match t.slots[n] with
        | some sl =>
          match sl.rowReady with
          | some r => ((t.serveRow views o n seg r).finishTest n).choose
          | none => t
        | none => t
      | none => t
    | none => t
  | _ => t

/-- R132: the deposit unit's next row deposit event under its mode, and the end test. Nothing happens unless the unit is
SERVING. -/
def State.rowEvent (views : List RowView) (s : State) : State :=
  match s.deposit with
  | .serving o => (if o.tileComplete then s.tileRow views else s.searchRow views (fromTurn o.turn)).endTest
  | _ => s

/-! ### What the exposure table and the tile pool tell the unit -/

/-- R131, R138: the pool tells the unit of a slot newly taken for T. -/
def State.tellTaken (n : SlotNo) (s : State) : State :=
  match s.deposit with
  | .serving o =>
    match s.slots[n] with
    | some sl => if sl.tag = o.tag then (s.examineSlot n).endTest else s
    | none => s
  | _ => s

/-- R133, R134: the pool tells the unit of slots of T that have become COMPLETE. -/
def State.tellComplete (tag : Tag) (ns : List SlotNo) (s : State) : State :=
  match s.deposit with
  | .serving o =>
    if o.tag = tag ∧ ns ≠ [] then ((ns.foldl (fun s n => s.finishTest n) s).choose).endTest else s
  | _ => s

/-- Every present UNSETTLED segment that holds no slot of T is settled MISSING (R136, R137 step 2). -/
def State.settleUnbegun (o : Assembly) (s : State) : State :=
  (List.finRange 64).foldl (fun s seg =>
    if s.awaits o seg && (s.slotOf o.tag seg).isNone then s.settleMissing o.tag seg else s) s

/-- R136: the table tells the unit that T has closed. -/
def State.tellClosed (tag : Tag) (s : State) : State :=
  match s.deposit with
  | .serving o => if o.tag = tag then ((s.settleUnbegun o).choose).endTest else s
  | _ => s

/-- R129: one present segment at binding. -/
def State.bindSegment (wasClosed : Bool) (o : Assembly) (s : State) (seg : SegNo) : State :=
  if s.awaits o seg then
    match s.slotOf o.tag seg with
    | some n => (s.examineSlot n).finishTest n
    | none => if wasClosed then s.settleMissing o.tag seg else s
  else s

/-- R129: the ASSEMBLE is bound to its entry: the entry becomes ASSEMBLING, the unit enters SERVING with the turn at 0 and no
current segment, each present segment is gone through, and the end test is made. -/
def State.bind (o : Assembly) (s : State) : State :=
  let wasClosed := match s.entryOf o.tag with
    | some e => decide (e.state = .closed)
    | none => false
  let t : State := { s.mapEntry o.tag (fun e => { e with state := .assembling }) with
    deposit := .serving { o with turn := 0, current := none } }
  (((List.finRange 64).foldl (State.bindSegment wasClosed o) t).choose).endTest

/-- R129, R130: the table tells a WAITING unit that an entry for its tag was made. -/
def State.tellMade (tag : Tag) (s : State) : State :=
  match s.deposit with
  | .waiting o => if o.tag = tag then s.bind o else s
  | _ => s

/-! ### Deadline -/

/-- The number of present segments of a map copy. -/
def Assembly.presentCount (o : Assembly) : Nat := (List.finRange 64).countP fun seg => o.map[seg].isSome

/-- R137, step 1: each FILLING slot of a present UNSETTLED segment is asked to become LATE. -/
def State.lateFilling (o : Assembly) (s : State) : State :=
  (List.finRange 64).foldl (fun s seg =>
    if s.awaits o seg then
      match s.slotIn o.tag seg [.filling] with
      | some n => s.makeLate n seg
      | none => s
    else s) s

/-- R130, R137: expiry of the deadline. It happens only when the order in flight has an expiry time that the time base has
reached and that has not been taken yet. -/
def State.deadline (s : State) : State :=
  match s.deposit with
  | .idle => s
  | .waiting o =>
    match o.expiry with
    | some t =>
      if t ≤ s.timeBase then
        ({ s with deposit := .idle } : State).retire o.record .empty
          ({ Results.zero with missing := o.presentCount } : Results).toList
      else s
    | none => s
  | .serving o =>
    match o.expiry with
    | some t =>
      if t ≤ s.timeBase ∧ o.deadlinePassed = false then
        (((((s.mapServing fun o => { o with deadlinePassed := true }).lateFilling o).settleUnbegun o).choose)).endTest
      else s
    | none => s

/-! ### ABORT and resets -/

/-- R55, Unbind: the entry leaves ASSEMBLING: CLOSED if its closed set equals its opened set, OPEN otherwise. -/
def State.unbind (tag : Tag) (s : State) : State :=
  s.mapEntry tag fun e =>
    { e with state := if e.closedBy = e.openedBy then .closed else .opened }

/-- R141: ABORT at the deposit unit. -/
def State.abortDeposit (s : State) : State :=
  match s.deposit with
  | .idle => s
  | .waiting o => ({ s with deposit := .idle } : State).retire o.record .aborted Results.zero.toList
  | .serving o => ({ s.unbind o.tag with deposit := .idle } : State).retire o.record .aborted o.results.toList

/-- R70, R142: a bus reset at the deposit unit: the order is abandoned and a bound entry unbound. -/
def State.dropDeposit (s : State) : State :=
  match s.deposit with
  | .serving o => { s.unbind o.tag with deposit := .idle }
  | _ => { s with deposit := .idle }

/-! ### Take-up -/

/-- R75 check 9, R79: a plane of a present segment lies wholly in the general region. -/
def planeFits (off : Nat) (e : SegEntry) : Bool := inGeneral off (e.image * e.rows * 2)

/-- R79: the bank fits a present segment's geometry. -/
def Bank.fitsSegment (b : Bank) (seg : SegNo) (e : SegEntry) : Bool :=
  let amp := b.amps[seg]
  (decide (amp.mode ≠ .overscan) || decide (amp.skip + amp.n ≤ e.overscan))
    && (decide (amp.flat = 0) || planeFits amp.flat e)
    && (decide (amp.mode ≠ .plane) || planeFits amp.bias e)
    && b.defects.all fun d => decide (d.seg ≠ seg) || (decide (d.lastCol < e.image) && decide (d.lastRow < e.rows))

/-- R79: the bank geometry check over every present segment of the map copy. -/
def Bank.fits (b : Bank) (map : Vector (Option SegEntry) 64) : Bool :=
  (List.finRange 64).all fun seg =>
    match map[seg] with
    | some e => b.fitsSegment seg e
    | none => true

/-- R127: the deadline of the record at an offset, in milliseconds: one above 600,000 is taken as 600,000. -/
def readDeadline (m : List Host.Cell) (off : Nat) : Nat := min (Memory.readNat m (off + 48) 4) 600000

/-- R127: the expiry time of a deadline: none for 0. -/
def expiryOf (take deadline : Nat) : Option Nat := if deadline = 0 then none else some (take + deadline * 1000)

/-- R92: the pointing of the record at an offset. -/
def readPointing (m : List Host.Cell) (off : Nat) : Pointing :=
  { cp := Memory.readInt m (off + 52) 4
    sp := Memory.readInt m (off + 56) 4
    pu := Memory.readInt m (off + 64) 8
    pv := Memory.readInt m (off + 72) 8 }

/-- R94: the effective placements of the present segments. -/
def composeAll (map : Vector (Option SegEntry) 64) (p : Pointing) (f : Field) : Vector (Option Placement) 64 :=
  vecOf fun seg => (map[seg]).map fun e => compose e p f.ou f.ov

/-- R95: every effective placement is in range. -/
def placementsFit (place : Vector (Option Placement) 64) : Bool :=
  (List.finRange 64).all fun seg =>
    match place[seg] with
    | some p => p.fits
    | none => true

/-- R126, R127: the order as the unit holds it from take-up. -/
def newAssembly (m : List Host.Cell) (off : Nat) (tag : Tag) (field : Fin 4) (bank : Fin 8) (fd : Field)
    (map : FocalMap) (place : Vector (Option Placement) 64) (time : Nat) : Assembly :=
  { record := off
    tag := tag
    field := field
    bank := bank
    tileComplete := decide (Memory.readNat m (off + 44) 1 = 1)
    weight := weightInUse (Memory.readNat m (off + 45) 1)
    map := map.entries
    place := place
    ou := fd.ou
    ov := fd.ov
    width := 256 * fd.cols
    height := 256 * fd.rows
    deadline := readDeadline m off
    expiry := expiryOf time (readDeadline m off)
    deadlinePassed := false
    turn := 0
    current := none
    draining := []
    results := Results.zero
    made := false }

/-- R128, step 6: the entry for a tag is ASSEMBLED. -/
def State.isAssembled (s : State) (tag : Tag) : Bool :=
  match s.entryOf tag with
  | some e => decide (e.state = .assembled)
  | none => false

/-- R128: the take-up checks in the order of the table: the order as it will be held, or the failing status. -/
def State.checkAssemble (s : State) (off : Nat) (tag : Tag) (fieldNo bankNo : Nat) : Except Status Assembly :=
  match idx? 4 fieldNo with
  | none => .error .badField
  | some f =>
    match s.fields[f] with
    | none => .error .badField
    | some fd =>
      match idx? 8 bankNo with
      | none => .error .badBank
      | some b =>
        match s.banks[b] with
        | none => .error .badBank
        | some bank =>
          match s.loader.inUse with
          | none => .error .noMap
          | some map =>
            if !bank.fits map.entries then .error .bankGeometry
            else
              let p := readPointing s.mem off
              let place := composeAll map.entries p fd
              if !(p.fits && placementsFit place) then .error .placementRange
              else if s.isAssembled tag then .error .alreadyAssembled
              else .ok (newAssembly s.mem off tag f b fd map place s.timeBase)

/-- R128, R129: take-up of an ASSEMBLE: a failed check retires it FAILED; otherwise it binds to the entry for T, or waits for
one. -/
def State.takeAssemble (off : Nat) (tag : Tag) (fieldNo bankNo : Nat) (s : State) : State :=
  match s.checkAssemble off tag fieldNo bankNo with
  | .error st => s.retire off st []
  | .ok o =>
    match s.entryOf tag with
    | some _ => s.bind o
    | none => { s with deposit := .waiting o }

end Sys2Proof.Machine
end

