-- ==== Sys2Proof/Machine/Exposure.lean ====
section
/-! DEFINITION. The exposure table and the tile pool: what each delivered packet does to them, and the DISCARD_EXPOSURE
order (chapter 4). -/

namespace Sys2Proof.Machine

/-- A link in a link set. -/
def linkBit (l : LinkNo) : BitVec 4 := BitVec.ofNat 4 (2 ^ l.val)

/-- A link is a member of a link set. -/
def inLinks (set : BitVec 4) (l : LinkNo) : Bool := set.getLsbD l

/-- A link's current exposure and refused marker replaced. -/
def State.setNames (l : LinkNo) (current refused : Option Tag) (s : State) : State :=
  s.setLink l { s.links[l] with current := current, refused := refused }

/-! ### Closing (R53, R54) -/

/-- R53, step 1, for one slot: a FILLING slot becomes COMPLETE with its unterminated flag set, a LATE slot is freed. -/
def State.closeSlot (l : LinkNo) (tag : Tag) (s : State) (n : SlotNo) : State :=
  match s.slots[n] with
  | some sl =>
    if sl.tag = tag ∧ sl.link = l then
      match sl.state with
      | .filling => s.setSlot n (some { sl with state := .complete, unterminated := true })
      | .complete => s
      | .late => s.freeSlotAs .late n
    else s
  | none => s

/-- The FILLING slots of a tag whose recorded link is the one given. -/
def State.fillingOf (s : State) (l : LinkNo) (tag : Tag) : List SlotNo :=
  (List.finRange 128).filter fun n =>
    match s.slots[n] with
    | some sl => decide (sl.tag = tag) && decide (sl.link = l) && decide (sl.state = .filling)
    | none => false

/-- R53, steps 2 and 3 at the entry: the link joins the closed set, and an OPEN entry whose closed set now equals its opened
set becomes CLOSED. -/
def ExpEntry.closeBy (l : LinkNo) (e : ExpEntry) : ExpEntry :=
  let c := e.closedBy ||| linkBit l
  { e with closedBy := c, state := if e.state = .opened ∧ c = e.openedBy then .closed else e.state }

/-- The entry for a tag is ASSEMBLING with its closed set equal to its opened set. -/
def State.closedInAssembly (s : State) (tag : Tag) : Bool :=
  match s.entryOf tag with
  | some e => decide (e.state = .assembling) && decide (e.closedBy = e.openedBy)
  | none => false

/-- R53: the close of T on a link whose current exposure is T. The slots and the entry change first; the deposit unit is then
told of the slots that became COMPLETE and, for a bound entry, that T has closed (log 8). DESIGN CHOICE (log 42): slots are gone
through in ascending number, for the LATE ones freed and for those told to the deposit unit. -/
def State.closeFor (l : LinkNo) (tag : Tag) (s : State) : State :=
  match s.entryOf tag with
  | none => s.setNames l none s.links[l].refused
  | some _ =>
    let ns := s.fillingOf l tag
    let t := (List.finRange 128).foldl (State.closeSlot l tag) s
    let u := (t.mapEntry tag (ExpEntry.closeBy l)).setNames l none t.links[l].refused
    let v := u.tellComplete tag ns
    if v.closedInAssembly tag then v.tellClosed tag else v

/-- R52, R53: an EXPOSURE_CLOSE of a tag on a link. -/
def State.closeExposure (l : LinkNo) (tag : Tag) (s : State) : State :=
  if s.links[l].refused = some tag then (s.count l .refused 1).setNames l s.links[l].current none
  else if s.links[l].current = some tag then s.closeFor l tag
  else s

/-! ### Opening (R49 to R52) -/

/-- R49: a new entry for a tag opened by a link. -/
def newEntry (l : LinkNo) (tag : Tag) : ExpEntry :=
  { tag := tag, state := .opened, openedBy := linkBit l, closedBy := 0, held := 0,
    outcomes := Vector.replicate 64 .unsettled }

/-- R49: the entry is still arriving for the link: OPEN, or ASSEMBLING with its closed set not yet its opened set, and the
link not in its closed set. -/
def ExpEntry.arriving (e : ExpEntry) (l : LinkNo) : Bool :=
  (decide (e.state = .opened) || (decide (e.state = .assembling) && decide (e.closedBy ≠ e.openedBy)))
    && !inLinks e.closedBy l

/-- R49, second step. -/
def State.openByTable (l : LinkNo) (tag : Tag) (s : State) : State :=
  match s.entryOf tag with
  | none =>
    match s.freePlace with
    | some p => ((s.setPlace p (some (newEntry l tag))).setNames l (some tag) none).tellMade tag
    | none => ((s.setNames l none (some tag)).count l .refused 1).raise .receive
  | some e =>
    if e.arriving l then
      (s.mapEntry tag fun e => { e with openedBy := e.openedBy ||| linkBit l }).setNames l (some tag) none
    else ((s.setNames l none (some tag)).count l .duplicateExposure 1).raise .receive

/-- R49, first step: another current exposure is closed for the link, another refused marker becomes absent. -/
def State.clearWay (l : LinkNo) (tag : Tag) (s : State) : State :=
  let t := match s.links[l].current with
    | some c => if c = tag then s else s.closeFor l c
    | none => s
  if t.links[l].refused = some tag then t else t.setNames l t.links[l].current none

/-- R49: an EXPOSURE_OPEN of a tag on a link. -/
def State.openExposure (l : LinkNo) (tag : Tag) (s : State) : State :=
  let t := s.clearWay l tag
  if t.links[l].refused = some tag then t.count l .refused 1
  else if t.links[l].current = some tag ∧ (t.entryOf tag).isSome then t
  else t.openByTable l tag

/-! ### Segments and rows (R59 to R64) -/

/-- R59: the catalogue entry of a slot newly taken. Expected rows are the map rows when the header value is 0 or above
them. -/
def newSlot (l : LinkNo) (tag : Tag) (g : StreamEntry) (n : Nat) : Slot :=
  { state := .filling, tag := tag, seg := g.seg, link := l, prescan := g.prescan, image := g.image, overscan := g.overscan,
    rowLen := g.rowLen, mapRows := g.rows, expected := if n = 0 ∨ g.rows < n then g.rows else n, rows := [], sent := none,
    cursor := 0, unterminated := false, restarted := false }

/-- R59, R61: the lowest FREE slot is taken for a segment; the deposit unit is told of it when the entry is ASSEMBLING. With
no FREE slot the segment is refused. -/
def State.takeSlot (l : LinkNo) (new : Slot) (s : State) : State :=
  match s.freeSlot with
  | none => (s.count l .noRoom 1).raise .receive
  | some n =>
    let t := (s.setSlot n (some new)).mapEntry new.tag fun e => { e with held := e.held + 1 }
    match t.entryOf new.tag with
    | some e => if e.state = .assembling then t.tellTaken n else t
    | none => t

/-- R60: a restart: the old slot is freed and a new one taken with the deposit cursor carried over. -/
def State.restartSlot (l : LinkNo) (old : SlotNo) (new : Slot) (s : State) : State :=
  let cursor := match s.slots[old] with
    | some sl => sl.cursor
    | none => 0
  ((s.count l .restarts 1).freeSlotAs .restart old).takeSlot l { new with cursor := cursor, restarted := true }

/-- R59: a SEGMENT_BEGIN of the segment and geometry given, with header value n. -/
def State.beginSegment (l : LinkNo) (g : StreamEntry) (n : Nat) (s : State) : State :=
  if s.links[l].refused.isSome then s.count l .refused 1
  else
    match s.links[l].current with
    | none => s
    | some tag =>
      match s.entryOf tag with
      | none => s.count l .refused 1
      | some e =>
        if e.state = .assembled ∨ e.outcomes[g.seg] ≠ .unsettled then s.count l .refused 1
        else
          match s.slotIn tag g.seg [.filling, .complete] with
          | some old => s.restartSlot l old (newSlot l tag g n)
          | none => s.takeSlot l (newSlot l tag g n)

/-- The bytes of samples, each low byte first (R57). -/
def sampleBytes (samples : List Nat) : List Byte := samples.flatMap (leBytes 2)

/-- R45, R62: a row delivered for a segment: its row length, row index and samples. -/
def State.storeRow (l : LinkNo) (seg : SegNo) (rowLen r : Nat) (samples : List Nat) (s : State) : State :=
  if s.links[l].refused.isSome then s.count l .refused 1
  else
    match s.links[l].current with
    | none => s.count l .strayRows 1
    | some tag =>
      match s.slotIn tag seg [.filling] with
      | none => s.count l .strayRows 1
      | some n =>
        match s.slots[n] with
        | none => s.count l .strayRows 1
        | some sl =>
          if sl.rowLen ≠ rowLen then s.count l .lengthErrors 1
          else if sl.expected ≤ r then s.count l .strayRows 1
          else if (match sl.highest with
            | some h => decide (r ≤ h)
            | none => false) = true then s.count l .strayRows 1
          else
            ({ s with mem := Memory.writeBytes s.mem (rowOff n r) (sampleBytes samples) } : State).setSlot n
              (some { sl with rows := sl.rows ++ [r] })

/-- R64: a SEGMENT_END of a segment with rows sent k. -/
def State.endSegment (l : LinkNo) (seg : SegNo) (k : Nat) (s : State) : State :=
  if s.links[l].refused.isSome then s.count l .refused 1
  else
    match s.links[l].current with
    | none => s
    | some tag =>
      match s.slotOf tag seg with
      | none => s
      | some n =>
        match s.slots[n] with
        | none => s
        | some sl =>
          match sl.state with
          | .filling =>
            (s.setSlot n (some { sl with state := .complete, sent := some k, unterminated := false })).tellComplete tag [n]
          | .late => (s.setSlot n (some { sl with sent := some k })).freeSlotAs .late n
          | .complete => s

/-! ### DISCARD_EXPOSURE (R67) -/

/-- R67, step 1, for one slot. -/
def State.discardSlot (tag : Tag) (a : State × Nat) (n : SlotNo) : State × Nat :=
  match a.1.slots[n] with
  | some sl => if sl.tag = tag then (a.1.freeSlotAs .discard n, a.2 + 1) else a
  | none => a

/-- R67, step 3, for one link: its current exposure T becomes its refused marker. -/
def State.refuseLink (tag : Tag) (s : State) (l : LinkNo) : State :=
  if s.links[l].current = some tag then s.setNames l none (some tag) else s

/-- R67: DISCARD_EXPOSURE of a tag, carried out as one event. DESIGN CHOICE (log 36): the slots are freed in ascending slot
number. DESIGN CHOICE (log 35): an entry that is ASSEMBLED is removed at its last freed slot (R66, R56), before step 2 could
make it DISCARDED. -/
def State.takeDiscard (off : Nat) (tag : Tag) (s : State) : State :=
  match s.entryOf tag with
  | none => s.retire off .unknownExposure []
  | some _ =>
    let a := (List.finRange 128).foldl (State.discardSlot tag) (s, 0)
    let t := (a.1.mapEntry tag fun e => { e with state := .discarded }).removalCheck tag
    let u := (List.finRange 4).foldl (State.refuseLink tag) t
    u.retire off .ok [a.2]

end Sys2Proof.Machine
end

