-- ==== Sys2Proof/Machine/Packets.lean ====
section
/-! DEFINITION. Packets: the header code, the payload CRC, and the fate of a completed packet (chapter 3). -/

namespace Sys2Proof.Machine

/-! ### The header code (R31 to R33) -/

/-- R31, 12.1: the six-bit column codes of data bits 0 to 23. -/
def columnCodes : List Nat :=
  [0x07, 0x0B, 0x0D, 0x0E, 0x13, 0x15, 0x16, 0x19, 0x1A, 0x1C, 0x23, 0x25, 0x26, 0x29, 0x2A, 0x2C,
   0x31, 0x32, 0x34, 0x38, 0x1F, 0x2F, 0x37, 0x3B]

/-- R31: the parity of 24 data bits: the exclusive-or of the column codes of the bits that are 1. Data bit i is bit i of the
number. -/
def headerParity (data : Nat) : Nat :=
  columnCodes.zipIdx.foldl (fun p c => if data.testBit c.2 then p ^^^ c.1 else p) 0

/-- R32: the class of a received header. -/
inductive HeaderClass where
  | clean
  | parityFlipped
  | dataFlipped (bit : Nat)
  | uncorrectable
  deriving DecidableEq, Repr

/-- R32: the syndrome of three data bytes, as one number, and the check byte. -/
def syndrome (data check : Nat) : Nat := headerParity data ^^^ (check % 64)

/-- R32: the class of a syndrome. -/
def classOf (syn : Nat) : HeaderClass :=
  if syn = 0 then .clean
  else if syn ∈ [0x01, 0x02, 0x04, 0x08, 0x10, 0x20] then .parityFlipped
  else match columnCodes.zipIdx.find? fun c => c.1 == syn with
    | some c => .dataFlipped c.2
    | none => .uncorrectable

/-- R30: the header in 24 data bits: identifier, first data byte (low), second data byte. -/
def headerOf (data : Nat) : Header :=
  { stream := Fin.ofNat 16 (data / 16), kind := Fin.ofNat 16 data, value := BitVec.ofNat 16 (data / 256) }

/-- R33: the header the parser uses, and whether it was corrected; none when it is uncorrectable. -/
def decodeHeader (data check : Nat) : Option (Header × Bool) :=
  match classOf (syndrome data check) with
  | .clean => some (headerOf data, false)
  | .parityFlipped => some (headerOf data, true)
  | .dataFlipped b => some (headerOf (data ^^^ 2 ^ b), true)
  | .uncorrectable => none

/-- R30: kinds 8 to 15 are long. -/
def Header.long (h : Header) : Bool := decide (8 ≤ h.kind.val)

/-! ### The payload CRC (R36) -/

/-- R36, steps 3 to 5, for one data bit. -/
def crcBit (reg : Nat) (b : Bool) : Nat :=
  let feedback := (reg.testBit 0) ^^ b
  if feedback then (reg / 2) ^^^ 0x8408 else reg / 2

/-- R36, step 2: one payload byte, least significant bit first. -/
def crcByte (reg : Nat) (b : Byte) : Nat :=
  (List.range 8).foldl (fun r i => crcBit r (b.getLsbD i)) reg

/-- R36: the CRC of a payload. -/
def crc16 (payload : List Byte) : Nat := payload.foldl crcByte 0xFFFF

/-! ### The fate of a completed packet (R37 to R45) -/

/-- A completed packet: its corrected header, its payload and its footer. -/
structure Packet where
  header : Header
  payload : List Byte
  footer : List Byte
  deriving DecidableEq, Repr

/-- R37: kinds 1, 2 and 5 are link-level. -/
def linkLevel (kind : Fin 16) : Bool := decide (kind = 1 ∨ kind = 2 ∨ kind = 5)

/-- R11: the stream table entry of a stream in the settings of a link. -/
def State.streamOf (s : State) (l : LinkNo) (t : StreamNo) : Option StreamEntry :=
  match s.links[l].settings with
  | some st => st.streams[t]
  | none => none

/-- R38, step 6: a packet delivered as the event of its kind (R40 to R45). -/
def State.deliver (l : LinkNo) (h : Header) (payload : List Byte) (s : State) : State :=
  match h.kind.val with
  | 1 => s.openExposure l h.value
  | 2 => s.closeExposure l h.value
  | 3 => match s.streamOf l h.stream with
    | some g => s.beginSegment l g h.value.toNat
    | none => s
  | 4 => match s.streamOf l h.stream with
    | some g => s.endSegment l g.seg h.value.toNat
    | none => s
  | 8 => match s.streamOf l h.stream with
    | some g => s.storeRow l g.seg g.rowLen (leNat (payload.take 2)) (u16s (payload.drop 2))
    | none => s
  | _ => s

/-- R38: the end-mark state is set by a BURST_END delivered and cleared by any other completed packet. -/
def State.setEndMark (l : LinkNo) (on : Bool) (s : State) : State := s.setLink l { s.links[l] with endMark := on }

/-- R38: the fate of a completed packet: the first test of the table that applies. -/
def State.fate (l : LinkNo) (p : Packet) (s : State) : State :=
  if !linkLevel p.header.kind && (s.streamOf l p.header.stream).isNone then s.count l .filtered 1
  else if p.header.kind = 0 ∨ p.header.kind = 6 ∨ p.header.kind = 7 then s.count l .unknown 1
  else if 9 ≤ p.header.kind.val then s.count l .unknown 1
  else if p.header.kind = 8 ∧ crc16 p.payload ≠ leNat p.footer then s.count l .crcFailures 1
  else if p.header.kind = 8 ∧ (match s.streamOf l p.header.stream with
      | some g => decide (p.payload.length ≠ 2 + 2 * g.rowLen)
      | none => true) = true then s.count l .lengthErrors 1
  else s.deliver l p.header p.payload

/-- A packet completes on a link: its effect on the end-mark state (R24, R38), then its fate. -/
def State.completePacket (l : LinkNo) (p : Packet) (s : State) : State :=
  (s.setEndMark l (decide (p.header.kind = 5))).fate l p

/-- A packet command: a packet whose CRC is good completes on the link. A link in OFF can take no packet (R14, R25). -/
def State.packetArrives (l : LinkNo) (h : Header) (payload : List Byte) (s : State) : State :=
  if s.links[l].phase = .off then s else s.completePacket l ⟨h, payload, leBytes 2 (crc16 payload)⟩

end Sys2Proof.Machine
end

