-- ==== Sys2Proof/Machine/Links.lean ====
section
/-! DEFINITION. The link receivers: settings, lanes, the merge, the parser and the burst (chapters 1 and 2). -/

namespace Sys2Proof.Machine

/-- One link receiver changed by `g`. -/
def State.mapLink (l : LinkNo) (g : Link → Link) (s : State) : State := s.setLink l (g s.links[l])

/-! ### Settings (R11) -/

/-- R11: the stream table entry that a map entry gives. -/
def SegEntry.streamEntry (e : SegEntry) (seg : SegNo) : StreamEntry :=
  { seg := seg, prescan := e.prescan, image := e.image, overscan := e.overscan, rowLen := e.rowLen, rows := e.rows }

/-- The present segments of a map on a link. -/
def FocalMap.onLink (m : FocalMap) (l : LinkNo) : List SegNo :=
  (List.finRange 64).filter fun seg =>
    match m.entries[seg] with
    | some e => decide (e.link = l)
    | none => false

/-- R11: the entry of a link's stream table. -/
def FocalMap.streamEntry (m : FocalMap) (l : LinkNo) (t : StreamNo) : Option StreamEntry :=
  (List.finRange 64).findSome? fun seg =>
    match m.entries[seg] with
    | some e => if e.link = l ∧ e.stream = t then some (e.streamEntry seg) else none
    | none => none

/-- R11: the link settings drawn from a map in use; `none` is "no segments". -/
def drawSettings (m : Option FocalMap) (l : LinkNo) : Option LinkSettings :=
  match m with
  | none => none
  | some m =>
    match (m.onLink l).head? with
    | none => none
    | some seg =>
      match m.entries[seg] with
      | none => none
      | some e => some { lanes := e.lanes, burstEnd := e.burstEnd, streams := vecOf (m.streamEntry l) }

/-- R25: a link enters OFF: a current exposure is closed implicitly, and the refused marker becomes absent. -/
def State.enterOff (l : LinkNo) (s : State) : State :=
  let t := match s.links[l].current with
    | some c => s.closeFor l c
    | none => s
  t.mapLink l fun k => { k with phase := .off, settings := none, current := none, refused := none, replaced := false }

/-- R11, R14: a link takes its settings afresh from the map in use: it enters IDLE, or OFF when they are "no segments". -/
def State.takeSettings (l : LinkNo) (s : State) : State :=
  match drawSettings s.loader.inUse l with
  | some st => s.mapLink l fun k => { k with phase := .idle, settings := some st, replaced := false }
  | none => s.enterOff l

/-- R11: the map in use was replaced: a link in IDLE or OFF takes settings afresh, one in BURST does so when its burst
ends. -/
def State.linkReplaced (s : State) (l : LinkNo) : State :=
  match s.links[l].phase with
  | .burst => s.mapLink l fun k => { k with replaced := true }
  | .idle => s.takeSettings l
  | .off => s.takeSettings l

/-! ### The parser (R22, R23, R30 to R35) -/

/-- R23, R33: an uncorrectable header: counted, and the rest of the merged burst is discarded. -/
def State.loseHeader (l : LinkNo) (s : State) : State :=
  (s.count l .headersLost 1).mapLink l fun k => { k with parser := { Parser.start with discarding := true } }

/-- R31 to R34: the header code is applied to the four header bytes. -/
def State.parseHeader (l : LinkNo) (hdr : List Byte) (s : State) : State :=
  match decodeHeader (leNat (hdr.take 3)) (leNat (hdr.drop 3)) with
  | none => s.loseHeader l
  | some (h, fixed) =>
    if h.long && decide (Config.payloadMax < h.value.toNat) then s.loseHeader l
    else
      let t := if fixed then s.count l .headersFixed 1 else s
      if h.long then t.mapLink l fun k => { k with parser := { Parser.start with cur := some h } }
      else (t.mapLink l fun k => { k with parser := Parser.start }).completePacket l ⟨h, [], []⟩

/-- R30, R35: the parser takes one merged byte. The first byte of a packet clears the end-mark state (R24). -/
def State.parseByte (l : LinkNo) (b : Byte) (s : State) : State :=
  let p := s.links[l].parser
  if p.discarding then s
  else
    match p.cur with
    | none =>
      let hdr := p.hdr ++ [b]
      let t := s.mapLink l fun k => { k with parser := { p with hdr := hdr }, endMark := false }
      if hdr.length = 4 then t.parseHeader l hdr else t
    | some h =>
      let buf := p.buffer ++ [b]
      if buf.length = h.value.toNat + 2 then
        (s.mapLink l fun k => { k with parser := Parser.start }).completePacket l
          ⟨h, buf.take h.value.toNat, buf.drop h.value.toNat⟩
      else s.mapLink l fun k => { k with parser := { p with buffer := buf } }

/-! ### The merge (R16 to R20) -/

/-- R14: the lanes in use of a link. -/
def Link.inUse (k : Link) (n : LaneNo) : Bool :=
  match k.settings with
  | some st => decide (n.val < st.lanes)
  | none => false

/-- The lanes in use of a link in order. -/
def Link.lanesInUse (k : Link) : List LaneNo := (List.finRange 4).filter k.inUse

/-- One lane replaced. -/
def Link.setLane (k : Link) (n : LaneNo) (x : Lane) : Link := { k with lanes := k.lanes.set n x }

/-- The bytes held in all lanes in use. -/
def Link.heldCount (k : Link) : Nat := (k.lanesInUse.map fun n => k.lanes[n].held.length).sum

/-- R18: the lane whose turn it is can give no further byte: it has ended and holds none, or it is waiting while every lane
that opened has ended. -/
def Link.turnExhausted (k : Link) : Bool :=
  let x := k.lanes[k.turn]
  x.held.isEmpty
    && (decide (x.phase = .ended)
      || (decide (x.phase = .waiting) && k.lanesInUse.all fun n => decide (k.lanes[n].phase ≠ .opened)))

/-- R17: the lane after the one given, the last lane in use followed by lane 0. -/
def Link.nextTurn (k : Link) : LaneNo :=
  match k.settings with
  | some st => if k.turn.val + 1 < st.lanes then k.turn + 1 else 0
  | none => 0

/-- R18, R20, R21: the lanes once the merged burst has ended: waiting lanes count as ended, and nothing is held. -/
def Lane.afterMerge (x : Lane) : Lane :=
  { x with phase := if x.phase = .waiting then .ended else x.phase, held := [] }

/-- R22: the parser is part way through a packet. -/
def Parser.midPacket (p : Parser) : Bool := !p.discarding && (!p.hdr.isEmpty || p.cur.isSome)

/-- R24: burst-end is required and the end-mark test is not met. -/
def Link.missesEndMark (k : Link) : Bool :=
  match k.settings with
  | some st => st.burstEnd && (!k.endMark || k.parser.discarding)
  | none => false

/-- R18, R20, R22, R24: the merged burst ends: held bytes become excess, a packet in progress is truncated, and the end-mark
test is made. -/
def State.endMerge (l : LinkNo) (s : State) : State :=
  let k := s.links[l]
  let t := if 0 < k.heldCount then s.count l .excess k.heldCount else s
  let u := if k.parser.midPacket then t.count l .truncated 1 else t
  let v := if k.missesEndMark then u.count l .missingEndMarks 1 else u
  v.mapLink l fun k =>
    { k with
      mergeOpen := false
      lanes := vecOf fun n => k.lanes[n].afterMerge
      parser := { Parser.start with discarding := k.parser.discarding } }

/-- R17, R18: the merge step repeated for as long as it can. Each step takes one held byte. -/
def State.mergeLoop (l : LinkNo) : Nat → State → State
  | 0, s => s
  | fuel + 1, s =>
    let k := s.links[l]
    if k.mergeOpen then
      match k.lanes[k.turn].held with
      | b :: bs =>
        ((s.mapLink l fun k =>
            { k.setLane k.turn { k.lanes[k.turn] with held := bs } with merged := k.merged + 1, turn := k.nextTurn }).parseByte
          l b).mergeLoop l fuel
      | [] => if k.turnExhausted then s.endMerge l else s
    else s

/-- The merge of all that is held. -/
def State.merge (l : LinkNo) (s : State) : State := s.mergeLoop l (s.links[l].heldCount + 1)

/-- R21: the burst closes when every lane in use has ended: the link leaves BURST, and takes settings afresh when the map in
use was replaced during the burst. -/
def State.closeCheck (l : LinkNo) (s : State) : State :=
  let k := s.links[l]
  if k.phase = .burst ∧ (k.lanesInUse.all fun n => decide (k.lanes[n].phase = .ended)) = true then
    if k.replaced then s.takeSettings l else s.mapLink l fun k => { k with phase := .idle }
  else s

/-- R16: a burst opens at the start mark of a lane in use. -/
def Link.openBurst (k : Link) (n : LaneNo) : Link :=
  { k with
    phase := .burst
    replaced := false
    lanes := (Vector.replicate 4 Lane.start).set n ⟨.opened, false, []⟩
    turn := 0
    merged := 0
    mergeOpen := true
    parser := Parser.start
    endMark := false }

/-- R16: a lane in use becomes ended; the merge may then go to its end (R18) and the burst may close (R21). -/
def State.endLane (l : LinkNo) (n : LaneNo) (restarted : Bool) (s : State) : State :=
  ((s.mapLink l fun k => k.setLane n { k.lanes[n] with phase := .ended, restarted := restarted }).merge l).closeCheck l

/-- R14, R16: a start mark on a lane. DESIGN CHOICE (log 41): a lane that counts as ended because the merge ended while it was
waiting (R21) takes its first start mark as an ended lane takes another one, so its later bytes are excess. -/
def State.laneStart (l : LinkNo) (n : LaneNo) (s : State) : State :=
  let k := s.links[l]
  if !k.inUse n then s
  else
    match k.phase with
    | .off => s
    | .idle => s.mapLink l fun k => k.openBurst n
    | .burst =>
      match k.lanes[n].phase with
      | .waiting => s.mapLink l fun k => k.setLane n { k.lanes[n] with phase := .opened }
      | .opened => s.endLane l n true
      | .ended => s.mapLink l fun k => k.setLane n { k.lanes[n] with restarted := true }

/-- R14, R16: an end mark on a lane. -/
def State.laneEnd (l : LinkNo) (n : LaneNo) (s : State) : State :=
  let k := s.links[l]
  if !k.inUse n then s
  else
    match k.phase with
    | .off => s
    | .idle => s
    | .burst =>
      match k.lanes[n].phase with
      | .waiting => s
      | .opened => s.endLane l n false
      | .ended => s

/-- R14, R16, R17, R19, R20: a data byte on a lane. DESIGN CHOICE (log 44): at a skew overflow the byte that causes it and the bytes
then held are two changes of the excess counter, each with its mirror write. -/
def State.laneByte (l : LinkNo) (n : LaneNo) (b : Byte) (s : State) : State :=
  let k := s.links[l]
  if !k.inUse n then s
  else
    match k.phase with
    | .off => s
    | .idle => s
    | .burst =>
      match k.lanes[n].phase with
      | .waiting => s
      | .opened =>
        if !k.mergeOpen then s.count l .excess 1
        else if Config.laneLimit ≤ k.lanes[n].held.length then ((s.count l .excess 1).endMerge l).closeCheck l
        else
          ((s.mapLink l fun k => k.setLane n { k.lanes[n] with held := k.lanes[n].held ++ [b] }).merge l).closeCheck l
      | .ended => if k.lanes[n].restarted then s.count l .excess 1 else s

/-! ### Reset (R28) -/

/-- R28: a soft reset of one link, with the settings drawn from the map in use. No implicit close is made. -/
def State.softResetLink (s : State) (l : LinkNo) : State :=
  let st := drawSettings s.loader.inUse l
  let t := s.mapLink l fun _ =>
    { Link.start with phase := if st.isSome then .idle else .off, settings := st }
  (List.finRange 14).foldl (fun s (c : Fin 14) => s.queueMirror (0x100 + 0x40 * l.val + 4 * c.val) (leBytes 4 0)) t

end Sys2Proof.Machine
end

