-- ==== Sys2Proof/Machine/Loader.lean ====
section
/-! DEFINITION. The map loader: the map image and its checks, the flash wait, and the end of a load (chapter 1). -/

namespace Sys2Proof.Machine

/-! ### The map image (R3, R4, 12.4) -/

/-- The field of `n` bytes at a position of a run of bytes. -/
def fieldAt (bytes : List Byte) (off n : Nat) : Nat := leNat ((bytes.drop off).take n)

/-- R4, checks 1 to 3 over the 16 header bytes: the segment count when they pass. -/
def mapHeader (h : List Byte) : Option Nat :=
  if fieldAt h 0 4 = 0x50414D46 ∧ fieldAt h 4 2 = 1 ∧ 1 ≤ fieldAt h 6 2 ∧ fieldAt h 6 2 ≤ 64 then some (fieldAt h 6 2)
  else none

/-- The 64 bytes of entry s of the entry bytes. -/
def entryBytes (es : List Byte) (s : Nat) : List Byte := (es.drop (64 * s)).take 64

/-- R4, check 5, for the fields of a present entry, and for its burst-end byte (log 9). -/
def entryInRange (b : List Byte) : Bool :=
  decide (fieldAt b 1 1 ≤ 3) && decide (fieldAt b 2 1 ≤ 15) && decide (1 ≤ fieldAt b 3 1 ∧ fieldAt b 3 1 ≤ 4)
    && decide (fieldAt b 4 1 ≤ 1) && decide (fieldAt b 5 1 ≤ 32) && decide (fieldAt b 6 1 ≤ 64)
    && decide (1 ≤ fieldAt b 8 2 ∧ fieldAt b 8 2 ≤ 1024) && decide (1 ≤ fieldAt b 10 2 ∧ fieldAt b 10 2 ≤ 2048)
    && decide ((signed 64 (fieldAt b 32 8)).natAbs < 2 ^ 50) && decide ((signed 64 (fieldAt b 40 8)).natAbs < 2 ^ 50)

/-- R3: the entry's fields, read at the positions of 12.4. -/
def parseEntry (b : List Byte) : SegEntry :=
  { link := Fin.ofNat 4 (fieldAt b 1 1)
    stream := Fin.ofNat 16 (fieldAt b 2 1)
    lanes := fieldAt b 3 1
    burstEnd := fieldAt b 4 1 == 1
    prescan := fieldAt b 5 1
    image := fieldAt b 8 2
    overscan := fieldAt b 6 1
    rows := fieldAt b 10 2
    a := signed 32 (fieldAt b 16 4)
    b := signed 32 (fieldAt b 20 4)
    c := signed 32 (fieldAt b 24 4)
    d := signed 32 (fieldAt b 28 4)
    e := signed 64 (fieldAt b 32 8)
    f := signed 64 (fieldAt b 40 8) }

/-- R1, R3: the map that a count and entry bytes give: an entry is present when its present byte is 1. -/
def parseMap (count : Nat) (es : List Byte) : FocalMap :=
  { count := count
    entries := vecOf fun seg =>
      if seg.val < count ∧ fieldAt (entryBytes es seg) 0 1 = 1 then some (parseEntry (entryBytes es seg)) else none }

/-- R4, check 5: every present byte is 0 or 1, and every present entry is in range. -/
def rangesPass (count : Nat) (es : List Byte) : Bool :=
  (List.range count).all fun s =>
    decide (fieldAt (entryBytes es s) 0 1 ≤ 1)
      && (decide (fieldAt (entryBytes es s) 0 1 = 0) || entryInRange (entryBytes es s))

/-- The present entries of a map with their segment numbers, ascending. -/
def FocalMap.present (m : FocalMap) : List SegEntry := (List.finRange 64).filterMap fun seg => m.entries[seg]

/-- R4, check 6: every present entry's row length is at most 1120. -/
def FocalMap.rowsPass (m : FocalMap) : Bool := m.present.all fun e => decide (e.rowLen ≤ 1120)

/-- R4, check 7: no two present entries have the same link and the same stream. -/
def FocalMap.streamsPass (m : FocalMap) : Bool :=
  decide (m.present.Pairwise fun x y => ¬(x.link = y.link ∧ x.stream = y.stream))

/-- R4, check 8: present entries of one link have the same lanes and the same burst-end flag. -/
def FocalMap.linksPass (m : FocalMap) : Bool :=
  decide (m.present.Pairwise fun x y => x.link = y.link → x.lanes = y.lanes ∧ x.burstEnd = y.burstEnd)

/-- R4, checks 4 to 8, over the header and the entry bytes: the staged map when they pass. -/
def checkEntries (h es : List Byte) (count : Nat) : Option FocalMap :=
  let m := parseMap count es
  if crc16 es = fieldAt h 8 2 ∧ rangesPass count es = true ∧ m.rowsPass = true ∧ m.streamsPass = true ∧ m.linksPass = true then
    some m
  else none

/-- R5: the bytes that the flash's data read gives from a position. A flash that does not drive its output returns all
ones. -/
def flashBytes (flash : List Byte) (off n : Nat) : List Byte := (flash.drop off ++ List.replicate n 255).take n

/-- How a load ended: the staged map, or the status it failed with, and whether a read of it met a memory error. -/
inductive LoadEnd where
  | staged (m : FocalMap)
  | failed (st : Status)
  | memoryError
  deriving DecidableEq, Repr

/-- R5: a flash load's reading and checks. -/
def flashLoad (flash : List Byte) : LoadEnd :=
  let h := flashBytes flash 0 16
  match mapHeader h with
  | none => .failed .mapCheck
  | some count =>
    match checkEntries h (flashBytes flash 16 (64 * count)) count with
    | some m => .staged m
    | none => .failed .mapCheck

/-- R8: a board memory load's checks of the image, over board memory as its reads found it. -/
def State.memoryLoad (s : State) (off : Nat) : LoadEnd :=
  if !inGeneral off 16 then .failed .regionRange
  else if s.readErr .bankOrMap off 16 then .memoryError
  else
    let h := Memory.readBytes s.mem off 16
    match mapHeader h with
    | none => .failed .mapCheck
    | some count =>
      if !inGeneral off (16 + 64 * count) then .failed .regionRange
      else if s.readErr .bankOrMap (off + 16) (64 * count) then .memoryError
      else
        match checkEntries h (Memory.readBytes s.mem (off + 16) (64 * count)) count with
        | some m => .staged m
        | none => .failed .mapCheck

/-! ### Loads (R2, R6 to R10) -/

/-- R2, R7, R8: a load begins, and with it its reads of board memory if it makes any: LOADING is entered from the state held. -/
def State.beginLoad (ofOrder : Bool) (phase : LoadPhase) (s : State) : State :=
  let t : State := { s with loader := { s.loader with
      state := .loading, enteredFrom := s.loader.state, load := some ⟨ofOrder, phase⟩ } }
  match phase with
  | .memory _ => t.startReads
  | .busyWait _ => t
  | .dataRead => t

/-- R8: where a LOAD_MAP's load starts: in the flash busy wait, or reading the image in board memory. -/
def State.loadPhase (s : State) (image : Option Nat) : LoadPhase :=
  match image with
  | none => .busyWait s.timeBase
  | some off => .memory off

/-- R2: a load ends without a new map: the map in use stays and the state LOADING was entered from returns. -/
def State.dropLoad (s : State) : State :=
  { s with loader := { s.loader with state := s.loader.enteredFrom, load := none } }

/-- R2: the staged map becomes the map in use. -/
def State.installMap (m : FocalMap) (s : State) : State :=
  { s with loader := { s.loader with inUse := some m, state := .valid, load := none } }

/-- R11: every link receiver learns of the replacement. DESIGN CHOICE (log 34): LINK0 first and LINK3 last, and so the implicit
closes of links that enter OFF (R25). -/
def State.tellLinks (s : State) : State := (List.finRange 4).foldl State.linkReplaced s

/-- R9: the LOAD_MAP whose load has ended is handed to the walker. The power-on load has no order (R7). -/
def State.endLoadOrder (ofOrder : Bool) (st : Status) (s : State) : State :=
  match s.service with
  | some (.loadMap rec _ _) => if ofOrder then ({ s with service := none } : State).retire rec st [] else s
  | _ => s

/-- R9, R7, R11: the running load ends with the staged map. An implicit close that the replacement makes can end the ASSEMBLE in
flight in the same step: which of the two orders retires first is open (R168: 'taken in either order'), a free value (log 4). -/
def State.endStaged (ofOrder : Bool) (m : FocalMap) (s : State) : State :=
  let t := s.installMap m
  if ofOrder && s.assembly.isSome then
    let u : State := { t with freeTaken := t.freeTaken + 1 }
    if Config.serviceRetiresFirst s.freeTaken then (u.endLoadOrder true .ok).tellLinks
    else u.tellLinks.endLoadOrder true .ok
  else t.tellLinks.endLoadOrder ofOrder .ok

/-- R9, R7: the end of the running load with the outcome given. -/
def State.endLoad (ofOrder : Bool) (out : LoadEnd) (s : State) : State :=
  match out with
  | .staged m => s.endStaged ofOrder m
  | .failed st => s.dropLoad.endLoadOrder ofOrder st
  | .memoryError => (s.memError .bankAndMapRecords).dropLoad.endLoadOrder ofOrder .memoryFault

/-- R6: a flash status read completes. Bit 0 clear ends the busy wait and starts the data read; bit 0 set leads to the next
status read. A status that comes when no busy wait runs is discarded. -/
def State.flashStatus (status : Byte) (s : State) : State :=
  match s.loader.load with
  | some ⟨o, .busyWait _⟩ =>
    if status.getLsbD 0 then s else { s with loader := { s.loader with load := some ⟨o, .dataRead⟩ } }
  | _ => s

/-- R6: the flash busy wait expires: 50,000 µs from the poll start. -/
def State.flashTimeout (s : State) : State :=
  match s.loader.load with
  | some ⟨o, .busyWait start⟩ =>
    if start + Config.flashBusyLimit ≤ s.timeBase then s.endLoad o (.failed .flashTimeout) else s
  | _ => s

/-- R5, R8, R9: the running load has read all it reads; its checks settle its end. `flash` is what the flash's data read
gave, `early` the bytes of an image in board memory that were read before now (log 48). -/
def State.finishLoad (flash : List Byte) (early : List EarlyRead) (s : State) : State :=
  match s.loader.load with
  | some ⟨o, .dataRead⟩ => s.endLoad o (flashLoad flash)
  | some ⟨o, .memory off⟩ => s.endLoad o (({ s with mem := s.asRead off early } : State).memoryLoad off)
  | _ => s

/-- R7: a LOAD_MAP that waited behind the power-on load begins its own load. -/
def State.beginWaitingLoad (s : State) : State :=
  match s.service, s.loader.load with
  | some (.loadMap rec image false), none =>
    ({ s with service := some (.loadMap rec image true) } : State).beginLoad true (s.loadPhase image)
  | _, _ => s

/-- R8: take-up of a LOAD_MAP. -/
def State.takeLoadMap (off : Nat) (s : State) : State :=
  let source := Memory.readNat s.mem (off + 40) 1
  if source = 0 ∨ source = 1 then
    let image := if source = 0 then none else some (Memory.readNat s.mem (off + 56) 8)
    match s.loader.load with
    | none => ({ s with service := some (.loadMap off image true) } : State).beginLoad true (s.loadPhase image)
    | some _ => { s with service := some (.loadMap off image false) }
  else s.retire off .mapCheck []

end Sys2Proof.Machine
end

