-- ==== Sys2Proof/Machine/Banks.lean ====
section
/-! DEFINITION. The bank record, its checks, and the DEFINE_BANK order (chapter 5, R71 to R77). -/

namespace Sys2Proof.Machine

/-- R72, 12.3: the amplifier entry of a segment, as read: the bias mode byte, and the parameters. -/
structure RawAmp where
  mode : Nat
  skip : Nat
  n : Nat
  fixed : Nat
  gain : Nat
  sat : Nat
  lut : Nat
  flat : Nat
  bias : Nat
  deriving DecidableEq, Repr

/-- R72: the amplifier entry at an offset. -/
def readAmp (m : List Host.Cell) (off : Nat) : RawAmp :=
  { mode := Memory.readNat m off 1
    skip := Memory.readNat m (off + 1) 1
    n := Memory.readNat m (off + 2) 1
    fixed := Memory.readNat m (off + 4) 2
    gain := Memory.readNat m (off + 6) 2
    sat := Memory.readNat m (off + 8) 2
    lut := Memory.readNat m (off + 16) 8
    flat := Memory.readNat m (off + 24) 8
    bias := Memory.readNat m (off + 32) 8 }

/-- R72: the parameters an amplifier entry that passed its checks gives. -/
def RawAmp.amp (r : RawAmp) : Amp :=
  { mode := if r.mode = 0 then .overscan else if r.mode = 1 then .fixed else .plane
    fixed := r.fixed, skip := r.skip, n := r.n, gain := r.gain, sat := r.sat, lut := r.lut, flat := r.flat, bias := r.bias }

/-- R72: the defect entry at an offset. -/
def readDefect (m : List Host.Cell) (off : Nat) : Defect :=
  { seg := Memory.readNat m off 1
    firstCol := Memory.readNat m (off + 2) 2
    lastCol := Memory.readNat m (off + 4) 2
    firstRow := Memory.readNat m (off + 6) 2
    lastRow := Memory.readNat m (off + 8) 2 }

/-- R75, check 9, for one plane offset: absent, or in the general region whole (present segment) or at its begin. -/
def planePasses (off : Nat) (e : Option SegEntry) : Bool :=
  decide (off = 0) || match e with
    | some e => planeFits off e
    | none => inGeneral off 1

/-- R75, checks 4 to 9, for one amplifier entry and the map entry of its segment. -/
def RawAmp.passes (r : RawAmp) (e : Option SegEntry) : Bool :=
  decide (r.mode ≤ 2) && decide (1 ≤ r.gain) && decide (1 ≤ r.sat)
    && (decide (r.mode ≠ 0) || (decide (1 ≤ r.n ∧ r.n ≤ 64) && decide (r.skip + r.n ≤ match e with
      | some e => e.overscan
      | none => 64)))
    && (decide (r.mode ≠ 2) || decide (r.bias ≠ 0))
    && inGeneral r.lut 2048 && planePasses r.flat e && planePasses r.bias e

/-- R75, check 10, for one defect entry. -/
def Defect.passes (d : Defect) (map : Vector (Option SegEntry) 64) : Bool :=
  decide (d.firstCol ≤ d.lastCol) && decide (d.firstRow ≤ d.lastRow) && match idx? 64 d.seg with
    | some seg => match map[seg] with
      | some e => decide (d.lastCol < e.image) && decide (d.lastRow < e.rows)
      | none => true
    | none => false

/-- How a define ended: the staged bank, the failing status, or a memory error. -/
inductive DefineEnd where
  | staged (b : Bank)
  | failed (st : Status)
  | memoryError
  deriving DecidableEq, Repr

/-- The raw amplifier entries of a bank record (R72). -/
def readAmps (m : List Host.Cell) (off : Nat) : Vector RawAmp 64 := vecOf fun s => readAmp m (off + 16 + 48 * s.val)

/-- The defect entries of a bank record (R72). -/
def readDefects (m : List Host.Cell) (off count : Nat) : List Defect :=
  (List.range count).map fun j => readDefect m (off + 3088 + 12 * j)

/-- R74, R75: the checks of a bank record for bank k, over board memory as the define's reads found it, against the map kept at
take-up. -/
def State.checkBank (s : State) (k off : Nat) (map : Vector (Option SegEntry) 64) : DefineEnd :=
  if !inGeneral off 16 then .failed .regionRange
  else if s.readErr .bankOrMap off 16 then .memoryError
  else if ¬(Memory.readNat s.mem off 4 = 0x4B4E4142 ∧ Memory.readNat s.mem (off + 4) 1 = k
      ∧ Memory.readNat s.mem (off + 6) 2 ≤ 1024) then .failed .bankCheck
  else
    let c := Memory.readNat s.mem (off + 6) 2
    if !inGeneral off (3088 + 12 * c) then .failed .regionRange
    else if s.readErr .bankOrMap (off + 16) (3072 + 12 * c) then .memoryError
    else
      let amps := readAmps s.mem off
      let defects := readDefects s.mem off c
      if ((List.finRange 64).all fun seg => amps[seg].passes map[seg]) && defects.all (fun d => d.passes map) then
        .staged { amps := vecOf fun seg => amps[seg].amp, defects := defects }
      else .failed .bankCheck

/-- R73: the entry of a bank number from 0 to 7 becomes EMPTY, whatever it held. -/
def State.emptyBank (bankNo : Nat) (s : State) : State :=
  match idx? 8 bankNo with
  | none => s
  | some k => { s with banks := s.banks.set k none }

/-- R73: take-up of a DEFINE_BANK: the entry becomes EMPTY whatever it held. -/
def State.takeDefineBank (off bankNo : Nat) (s : State) : State :=
  match idx? 8 bankNo with
  | none => s.retire off .badBank []
  | some k =>
    let t : State := { s with banks := s.banks.set k none }
    match t.loader.inUse with
    | none => t.retire off .noMap []
    | some map =>
      ({ t with service := some (.defineBank off k (Memory.readNat s.mem (off + 56) 8) map.entries) } : State).startReads

/-- R74, R76: the define in flight ends with its checks; `early` lists the bytes of the record that were read before now (log 48). -/
def State.finishDefine (early : List EarlyRead) (s : State) : State :=
  match s.service with
  | some (.defineBank rec k off map) =>
    let t : State := { s with service := none }
    match ({ s with mem := s.asRead off early } : State).checkBank k off map with
    | .staged b => ({ t with banks := t.banks.set k (some b) } : State).retire rec .ok []
    | .failed st => t.retire rec st []
    | .memoryError => (t.memError .bankAndMapRecords).retire rec .memoryFault []
  | _ => s

end Sys2Proof.Machine
end

