-- ==== Sys2Proof/Machine/Fields.lean ====
section
/-! DEFINITION. The DEFINE_FIELD and CLEAR_FIELD orders (chapter 7, R107, R108, R122 to R124). -/

namespace Sys2Proof.Machine

/-! ### DEFINE_FIELD -/

/-- R107, check 3: every cell of the field is VACANT. -/
def Field.allVacant (f : Field) : Bool := f.cells.all fun c => decide (c.state = .vacant)

/-- R107, check 5: the range shares no byte with the region of any other DEFINED field. -/
def State.clearOfOthers (s : State) (k : Fin 4) (off n : Nat) : Bool :=
  (List.finRange 4).all fun i =>
    decide (i = k) || match s.fields[i] with
      | some f => !overlaps off n f.base f.regionBytes
      | none => true

/-- R107: both sizes 0, or both in 1..40. -/
def sizeFits (cols rows : Nat) : Bool :=
  decide (cols = 0 ∧ rows = 0) || decide (1 ≤ cols ∧ cols ≤ 40 ∧ 1 ≤ rows ∧ rows ≤ 40)

/-- R108: the field as newly defined, with one VACANT entry for each of its cells. -/
def newField (ou ov : Int) (cols rows base : Nat) : Field :=
  { ou := ou, ov := ov, cols := cols, rows := rows, base := base, cells := List.replicate (cols * rows) DirCell.vacant }

/-- R107: the take-up checks of a DEFINE_FIELD in the order of the table; the field entry's new content when they pass. -/
def State.checkDefine (s : State) (fieldNo cols rows : Nat) (ou ov : Int) (base : Nat) :
    Except Status (Fin 4 × Option Field) :=
  match idx? 4 fieldNo with
  | none => .error .badField
  | some k =>
    if !sizeFits cols rows then .error .badField
    else if (match s.fields[k] with
      | some f => f.allVacant
      | none => true) = false then .error .fieldBusy
    else if cols = 0 then .ok (k, none)
    else if ¬(base % 4096 = 0 ∧ inGeneral base (cols * rows * Config.cellBytes) = true) then .error .regionRange
    else if !s.clearOfOthers k base (cols * rows * Config.cellBytes) then .error .regionOverlap
    else .ok (k, some (newField ou ov cols rows base))

/-- R107, R108: a DEFINE_FIELD, checked and carried out as one event. -/
def State.takeDefineField (off fieldNo : Nat) (s : State) : State :=
  match s.checkDefine fieldNo (Memory.readNat s.mem (off + 41) 1) (Memory.readNat s.mem (off + 42) 1)
      (Memory.readInt s.mem (off + 44) 4) (Memory.readInt s.mem (off + 48) 4) (Memory.readNat s.mem (off + 56) 8) with
  | .error st => s.retire off st []
  | .ok (k, f) => (s.setField k f).retire off .ok []

/-! ### Rectangles (R122, R145) -/

/-- The rectangle parameters of a record at an offset (12.2). -/
def readRect (m : List Host.Cell) (off : Nat) : Rect :=
  { col := Memory.readNat m (off + 42) 2
    row := Memory.readNat m (off + 44) 2
    width := Memory.readNat m (off + 46) 2
    height := Memory.readNat m (off + 48) 2 }

/-- R122, check 2: the rectangle begins in the field and is not empty. -/
def Rect.passes (r : Rect) (f : Field) : Bool :=
  decide (0 < r.width) && decide (0 < r.height) && decide (r.col < f.cols) && decide (r.row < f.rows)

/-- R122: the rectangle cut at the field's edge. -/
def Rect.clip (r : Rect) (f : Field) : Rect :=
  { r with width := min r.width (f.cols - r.col), height := min r.height (f.rows - r.row) }

/-- The number of cells of a rectangle. -/
def Rect.count (r : Rect) : Nat := r.width * r.height

/-- R123, R146: the column and row of the k-th cell of a rectangle, in row order. -/
def Rect.cell (r : Rect) (k : Nat) : Nat × Nat := (r.col + k % r.width, r.row + k / r.width)

/-- The DEFINED field of a field number. -/
def State.fieldNo? (s : State) (n : Nat) : Option (Fin 4 × Field) :=
  match idx? 4 n with
  | some k => (s.fields[k]).map fun f => (k, f)
  | none => none

/-! ### CLEAR_FIELD -/

/-- R122: take-up of a CLEAR_FIELD. -/
def State.takeClear (off fieldNo : Nat) (s : State) : State :=
  match s.fieldNo? fieldNo with
  | none => s.retire off .badField []
  | some (k, f) =>
    let r := readRect s.mem off
    if r.passes f then { s with service := some (.clearField off k (r.clip f) 0) } else s.retire off .badRect []

/-- R123: the clear of the next cell of the CLEAR_FIELD in flight; after the last the order retires. -/
def State.clearNext (s : State) : State :=
  match s.service with
  | some (.clearField rec f r k) =>
    let c := r.cell k
    let cell := match s.fields[f] with
      | some fd => fd.cellNo c.1 c.2
      | none => 0
    let t := s.mapCell f cell fun _ => DirCell.vacant
    if k + 1 < r.count then { t with service := some (.clearField rec f r (k + 1)) }
    else ({ t with service := none } : State).retire rec .ok [k + 1]
  | _ => s

end Sys2Proof.Machine
end

