-- ==== Sys2Proof/Machine/Publish.lean ====
section
/-! DEFINITION. The FINALIZE order: take-up, the three kinds of event of a cell's publication, and its end (chapter 9). -/

namespace Sys2Proof.Machine

/-- R145, check 4: the range shares no byte with the accumulator region of any DEFINED field. -/
def State.clearOfFields (s : State) (off n : Nat) : Bool := !s.inSomeField off n

/-- R145: take-up of a FINALIZE. -/
def State.takeFinalize (off fieldNo : Nat) (s : State) : State :=
  match s.fieldNo? fieldNo with
  | none => s.retire off .badField []
  | some (k, f) =>
    let r := readRect s.mem off
    let base := Memory.readNat s.mem (off + 56) 8
    if !r.passes f then s.retire off .badRect []
    else
      let c := r.clip f
      if ¬(base % 4096 = 0 ∧ inGeneral base (c.count * Config.productBytes) = true) then s.retire off .regionRange []
      else if !s.clearOfFields base (c.count * Config.productBytes) then s.retire off .regionOverlap []
      else
        { s with service := some (.finalize
            { record := off, field := k, rect := c, base := base,
              reject := decide (Memory.readNat s.mem (off + 41) 1 ≠ 0), k := 0, phase := .opening, shown := .vacant,
              cellNoData := 0, cellRejected := 0, written := 0, noData := 0, rejected := 0, anySpoiled := false }) }

/-- R146: where the product of the cell being published begins. -/
def Finalize.product (o : Finalize) : Nat := o.base + o.k * Config.productBytes

/-- The number, in its field, of the cell being published. -/
def State.publishedCell (s : State) (o : Finalize) : Nat :=
  match s.fields[o.field] with
  | some fd => fd.cellNo (o.rect.cell o.k).1 (o.rect.cell o.k).2
  | none => 0

/-- R148, step 1: the opening: WRITING (1) into the product state field, and the per-cell counts start at 0. The rows of a
VACANT or SPOILED cell are written without reading (R149). -/
def State.openCell (s : State) : State :=
  match s.service with
  | some (.finalize o) =>
    match o.phase with
    | .opening =>
      let st := match s.cellAt o.field (s.publishedCell o) with
        | some d => d.state
        | none => .vacant
      { s with
        mem := Memory.writeBytes s.mem o.product (leBytes 4 1)
        service := some (.finalize { o with
          phase := .rows 0 (decide (st = .vacant ∨ st = .spoiled)), shown := st, cellNoData := 0, cellRejected := 0 }) }
    | _ => s
  | _ => s

/-- R149 to R151: what one sky pixel publishes. -/
structure Published where
  value : Int
  weight : Nat
  mask : Nat
  deriving DecidableEq, Repr

/-- R149: a pixel of a VACANT cell, or of a cell published as SPOILED. -/
def blankPixel (spoiled : Bool) : Published :=
  ⟨0, 0, if spoiled then addFlag MaskFlag.noData.value .spoiled else MaskFlag.noData.value⟩

/-- R151: the highest deposit is removed. -/
def AccRecord.rejects (r : AccRecord) (reject : Bool) : Bool := reject && decide (3 ≤ r.count)

/-- R150, R151: what a pixel publishes from its record. -/
def publishRecord (reject : Bool) (r : AccRecord) : Published :=
  if r.wsum = 0 then ⟨0, 0, addFlag r.mask .noData⟩
  else if r.rejects reject then
    ⟨roundDiv (r.fsum - r.hiValue * r.hiWeight) (r.wsum - r.hiWeight), r.wsum - r.hiWeight, addFlag r.mask .rejected⟩
  else ⟨roundDiv r.fsum r.wsum, r.wsum, r.mask⟩

/-- R147: the writes of one in-cell row of published pixels into the three planes of the product at an offset. -/
def writePlanes (product q : Nat) (px : List Published) (m : List Host.Cell) : List Host.Cell :=
  let m := Memory.writeBytes m (product + 4096 + q * 256 * 4) (px.flatMap fun p => leBytes 4 (stored 32 p.value))
  let m := Memory.writeBytes m (product + 266240 + q * 256 * 4) (px.flatMap fun p => leBytes 4 p.weight)
  Memory.writeBytes m (product + 528384 + q * 256 * 2) (px.flatMap fun p => leBytes 2 p.mask)

/-- The flag is in a mask. -/
def hasFlag (mask : Nat) (f : MaskFlag) : Bool := decide (mask &&& f.value ≠ 0)

/-- R148: after in-cell row q the next row, or after row 255 the closing. -/
def rowsAfter (q : Nat) (blank : Bool) : CellPhase := if q + 1 < 256 then .rows (q + 1) blank else .closing

/-- R148, R152: the order after an in-cell row that published `px`. -/
def Finalize.afterRow (o : Finalize) (q : Nat) (blank : Bool) (px : List Published) : Finalize :=
  { o with
    phase := rowsAfter q blank
    cellNoData := o.cellNoData + px.countP fun p => hasFlag p.mask .noData
    cellRejected := o.cellRejected + px.countP fun p => hasFlag p.mask .rejected }

/-- R118: where the records of in-cell row q of a cell begin, and the records of that row. -/
def Field.rowRecordsOff (f : Field) (cell q : Nat) : Nat := f.base + (cell * 65536 + q * 256) * 24

/-- R148, step 2: one in-cell row. A record read that meets a memory error spoils the cell, and all three planes are written
afresh as SPOILED (R152). -/
def State.publishRow (s : State) : State :=
  match s.service with
  | some (.finalize o) =>
    match o.phase with
    | .rows q blank =>
      match s.fields[o.field] with
      | none => s
      | some fd =>
        let cell := s.publishedCell o
        let off := fd.rowRecordsOff cell q
        if !blank && s.readErr .accumulator off (256 * 24) then
          { s.spoilCell o.field cell with
            service := some (.finalize { o with
              phase := .rows 0 true, shown := .spoiled, cellNoData := 0, cellRejected := 0 }) }
        else
          let px := (List.range 256).map fun p =>
            if blank then blankPixel (decide (o.shown = .spoiled))
            else publishRecord o.reject (readRecord s.mem (off + p * 24))
          { s with
            mem := writePlanes o.product q px s.mem
            service := some (.finalize (o.afterRow q blank px)) }
    | _ => s
  | _ => s

/-- 12.5, R147: the 4096 bytes of a product header. Bytes that carry no field are 0. -/
def headerBytes (o : Finalize) (fd : Field) (d : DirCell) (time : Nat) : List Byte :=
  let c := o.rect.cell o.k
  leBytes 4 2 ++ leBytes 1 o.field.val ++ leBytes 1 o.shown.code ++ leBytes 1 c.1 ++ leBytes 1 c.2
    ++ leBytes 1 (bit d.overflow + 2 * bit o.reject) ++ leBytes 1 d.exposures.length ++ leBytes 6 0
    ++ leBytes 8 (stored 64 (fd.ou + 256 * c.1)) ++ leBytes 8 (stored 64 (fd.ov + 256 * c.2))
    ++ leBytes 4 d.deposits ++ leBytes 4 o.cellNoData ++ leBytes 4 o.cellRejected ++ leBytes 4 0
    ++ leBytes 8 o.record ++ leBytes 8 time
    ++ ((d.exposures.map BitVec.toNat ++ List.replicate 8 0).take 8).flatMap (leBytes 2)
    ++ List.replicate 4016 0

/-- R153: the order once a cell's closing has been taken. -/
def Finalize.afterClosing (o : Finalize) : Finalize :=
  { o with
    k := o.k + 1
    phase := .opening
    written := satAdd o.written 1
    noData := satAdd o.noData o.cellNoData
    rejected := satAdd o.rejected o.cellRejected
    anySpoiled := o.anySpoiled || decide (o.shown = .spoiled) }

/-- R153: the results of a FINALIZE in slot order. -/
def Finalize.results (o : Finalize) : List Nat := [o.written, o.noData, o.rejected]

/-- R148, step 3, R121, R153: the closing: the whole header is written, the canvas takes the product-written event, and after
the last cell the order retires. -/
def State.closeCell (s : State) : State :=
  match s.service with
  | some (.finalize o) =>
    match o.phase with
    | .closing =>
      match s.fields[o.field] with
      | none => s
      | some fd =>
        let cell := s.publishedCell o
        let d := (fd.cells[cell]?).getD DirCell.vacant
        let t := ({ s with mem := Memory.writeBytes s.mem o.product (headerBytes o fd d s.timeBase) } : State).mapCell
          o.field cell (DirCell.productWritten o.product)
        let o' := o.afterClosing
        if o'.k < o.rect.count then { t with service := some (.finalize o') }
        else ({ t with service := none } : State).retire o.record (if o'.anySpoiled then .partial_ else .ok) o'.results
    | _ => s
  | _ => s

/-! ### ABORT and resets at the service unit (R10, R77, R124, R154) -/

/-- ABORT at the service unit: the order in flight ends and retires ABORTED with its results so far. -/
def State.abortService (s : State) : State :=
  match s.service with
  | none => s
  | some (.finalize o) => ({ s with service := none } : State).retire o.record .aborted o.results
  | some (.clearField rec _ _ k) => ({ s with service := none } : State).retire rec .aborted [k]
  | some (.defineBank rec _ _ _) => ({ s with service := none } : State).retire rec .aborted []
  | some (.loadMap rec _ begun) =>
    let t : State := { s with service := none }
    (if begun then t.dropLoad else t).retire rec .aborted []

/-- A bus reset or soft reset at the service unit: the order in flight is abandoned. -/
def State.dropService (s : State) : State :=
  match s.service with
  | some (.loadMap _ _ true) => ({ s with service := none } : State).dropLoad
  | _ => { s with service := none }

end Sys2Proof.Machine
end

