-- ==== Sys2Proof/Machine/Walk.lean ====
section
/-! DEFINITION. The order walker: holds, dispatch, the examination of the cursor, and what an order's leaving flight does
(chapter 10, R161 to R167). -/

namespace Sys2Proof.Machine

/-! ### The record at the cursor (12.2) -/

/-- What the walker reads of a POSTED record for the hold test (R164): kind, FENCE, and the field, bank and tag its kind
names. -/
structure OrderHead where
  kind : Nat
  fence : Bool
  field : Nat
  bank : Nat
  tag : Tag
  deriving DecidableEq, Repr

/-- R164: the hold test's reading of the record at an offset. The field of an ASSEMBLE lies in byte 42 and its bank in byte
43, those of the other kinds in byte 40. -/
def readHead (m : List Host.Cell) (off : Nat) : OrderHead :=
  let kind := Memory.readNat m (off + 4) 1
  { kind := kind
    fence := (Memory.readNat m (off + 5) 1).testBit 0
    field := if kind = 1 then Memory.readNat m (off + 42) 1 else Memory.readNat m (off + 40) 1
    bank := if kind = 1 then Memory.readNat m (off + 43) 1 else Memory.readNat m (off + 40) 1
    tag := BitVec.ofNat 16 (Memory.readNat m (off + 40) 2) }

/-- The field that the service order in flight names. -/
def ServiceOrder.field? : ServiceOrder → Option Nat
  | .finalize o => some o.field.val
  | .clearField _ f _ _ => some f.val
  | .defineBank _ _ _ _ => none
  | .loadMap _ _ _ => none

/-- R166: an order is in flight on the deposit unit. -/
def State.depositBusy (s : State) : Bool := s.assembly.isSome

/-- R166: an order is in flight on the service unit. -/
def State.serviceBusy (s : State) : Bool := s.service.isSome

/-- R166: any order is in flight. -/
def State.anyInFlight (s : State) : Bool := s.depositBusy || s.serviceBusy

/-- R166: the ASSEMBLE in flight satisfies a test. -/
def State.assemblyHas (s : State) (test : Assembly → Bool) : Bool :=
  match s.assembly with
  | some o => test o
  | none => false

/-- R166: the service order in flight names a field. -/
def State.serviceNames (s : State) (field : Nat) : Bool :=
  match s.service with
  | some o => decide (o.field? = some field)
  | none => false

/-- R166: the order at the cursor is held. -/
def State.held (s : State) (h : OrderHead) : Bool :=
  (h.fence && s.anyInFlight)
    || (if h.kind = 1 then s.depositBusy || s.serviceNames h.field else s.serviceBusy)
    || ((decide (h.kind = 2 ∨ h.kind = 3 ∨ h.kind = 4)) && s.assemblyHas fun o => decide (o.field.val = h.field))
    || (decide (h.kind = 5) && s.assemblyHas fun o => decide (o.bank.val = h.bank))
    || (decide (h.kind = 7) && s.depositBusy)
    || (decide (h.kind = 6) && s.assemblyHas fun o => decide (o.tag = h.tag))

/-! ### Dispatch (R167) -/

/-- R167: a unit's take-up read of the record met a memory error: the order fails with MEMORY_FAULT before the unit's checks.
DEDUCED (log 43): a DEFINE_BANK of bank k, whose number the hold test has read, leaves entry k EMPTY all the same (R73, 5.2). -/
def State.failUnread (off : Nat) (h : OrderHead) (s : State) : State :=
  let t := if h.kind = 5 then s.emptyBank h.bank else s
  (t.memError .orderRecords).retire off .memoryFault []

/-- R167: a taken order goes to its unit. A kind that is none of the seven fails with BAD_KIND. DESIGN CHOICE (log 45): the take-up
read of every kind covers the kind parameters, bytes 40 to 83 of the record. -/
def State.dispatch (off : Nat) (h : OrderHead) (s : State) : State :=
  if h.kind = 0 ∨ 7 < h.kind then s.retire off .badKind []
  else if s.readErr .takeUp (off + 40) 44 then s.failUnread off h
  else if h.kind = 1 then s.takeAssemble off h.tag h.field h.bank
  else if h.kind = 2 then s.takeFinalize off h.field
  else if h.kind = 3 then s.takeClear off h.field
  else if h.kind = 4 then s.takeDefineField off h.field
  else if h.kind = 5 then s.takeDefineBank off h.bank
  else if h.kind = 6 then s.takeDiscard off h.tag
  else s.takeLoadMap off

/-! ### The examination (R161, R163 to R165) -/

/-- R165: a chain fault: the walker enters HALTED with its cursor kept, and the fault record is written. -/
def State.chainFault (why : FaultReason) (off : Nat) (s : State) : State :=
  (s.setWalker { s.walker with state := .halted, pollTimer := none }).faultRecord why off

/-- R165: a record offset passes: a multiple of 128 whose 128 bytes lie in the general region. -/
def offsetPasses (off : Nat) : Bool := decide (off % 128 = 0) && inGeneral off 128

/-- R161: the poll timer starts at each examination, with the interval in force. -/
def State.startPoll (s : State) : State :=
  { s with walker := { s.walker with pollTimer := some (s.timeBase + s.port.poll.toNat) } }

/-- R163: the TAKEN write and the take time. -/
def State.markTaken (off : Nat) (s : State) : State :=
  { s with mem := Memory.writeBytes (Memory.writeBytes s.mem off (leBytes 4 2)) (off + 24) (leBytes 8 s.timeBase) }

/-- R164: the walker reads the next field of the record it last took. True: the cursor has moved, and the new record is
examined at once. -/
def State.followNext (s : State) : State × Bool :=
  let off := s.walker.cursor
  if s.readErr .nextField (off + 8) 8 then ((s.memError .orderRecords).chainFault .recordRead off, false)
  else
    let next := Memory.readNat s.mem (off + 8) 8
    if next = 0 then (s.setWalker { s.walker with parked := true }, false)
    else if offsetPasses next then (s.setWalker { s.walker with cursor := next, parked := false }, true)
    else (s.chainFault .chainLink next, false)

/-- R163: the examination of the record at the cursor, up to the following of its next field when it is taken. -/
def State.examineRecord (s : State) : State × Bool :=
  let off := s.walker.cursor
  if !offsetPasses off then (s.chainFault .chainLink off, false)
  else if s.readErr .record off 128 then ((s.memError .orderRecords).chainFault .recordRead off, false)
  else
    let word := Memory.readNat s.mem off 4
    if word = 0 then (s, false)
    else if word = 1 then
      let h := readHead s.mem off
      if s.held h then (s, false) else ((s.markTaken off).dispatch off h).followNext
    else (s.chainFault .chainState off, false)

/-- One examination (R161): of the record at the cursor, or of the next field alone when the walker is parked. -/
def State.examineOnce (s : State) : State × Bool :=
  let t := s.startPoll
  if t.walker.parked then t.followNext else t.examineRecord

/-- An examination with those it makes at once as the cursor moves (R164). Each further one follows an order taken, and a
taken record is POSTED no more, so the records of memory bound their number. -/
def State.examineLoop : Nat → State → State
  | 0, s => s
  | fuel + 1, s =>
    let r := s.examineOnce
    if r.2 then r.1.examineLoop fuel else r.1

/-- R161: an examination is made when the walker is RUNNING and RUN is set. -/
def State.examine (s : State) : State :=
  if s.walker.state = .running ∧ s.port.control.run = true then s.examineLoop (s.mem.length + 2) else s

/-! ### Leaving flight and RUN (R161, R162, R166) -/

/-- R162: the walker enters STOPPED: it keeps its cursor, and the poll timer does not run. -/
def State.stopWalker (s : State) : State := s.setWalker { s.walker with state := .stopped, pollTimer := none }

/-- R161, R162: what follows when orders have left flight between two states of one step: with RUN set a RUNNING walker makes
an examination; with RUN clear the walker enters STOPPED once no order is in flight. -/
def State.afterFlight (before after : State) : State :=
  if (before.depositBusy && !after.depositBusy) || (before.serviceBusy && !after.serviceBusy) then
    if after.port.control.run then after.examine
    else if after.anyInFlight || decide (after.walker.state = .stopped) then after
    else after.stopWalker
  else after

/-- One step of the part whose reads meet the memory errors given: the effect, then what the walker does when it made an order
leave flight (log 10: the walker's events stand at the end of the step). A load or define that read on through it may have read before
what it wrote (R8, R74). -/
def State.stepWith (errs : List MemErr) (effect : State → State) (s : State) : State :=
  let t : State := { s with errs := errs }
  (State.afterFlight t (effect t)).noteMemory t

/-- R162: RUN set from STOPPED: RUNNING, the cursor becomes CHAIN_START, not parked, and an examination is made at once. -/
def State.startWalker (s : State) : State :=
  (s.setWalker { s.walker with state := .running, cursor := s.port.chainStart.toNat, parked := false }).examine

/-- R159, R141, R154: ABORT at both units. Which order retires first is open (R168: 'taken in either order'), a free value
when both are in flight (log 4). -/
def State.abortAll (s : State) : State :=
  if s.depositBusy && s.serviceBusy then
    let t : State := { s with freeTaken := s.freeTaken + 1 }
    if Config.serviceRetiresFirst s.freeTaken then t.abortService.abortDeposit else t.abortDeposit.abortService
  else s.abortDeposit.abortService

end Sys2Proof.Machine
end

