-- ==== Sys2Proof/Machine/Operands.lean ====
section
/-! DEFINITION. The operand forms of a register access: whole registers and 32-bit halves, the CONTROL write, and the values
registers read as (chapter 10, R158 to R160). -/

namespace Sys2Proof.Machine

/-- The low half of a register write, when the write covers it (R158). -/
def lowHalf : RegWrite → Option (BitVec 32)
  | .whole v => some (v.extractLsb' 0 32)
  | .low v => some v
  | .high _ => none

/-- The high half of a register write, when the write covers it (R158). -/
def highHalf : RegWrite → Option (BitVec 32)
  | .whole v => some (v.extractLsb' 32 32)
  | .low _ => none
  | .high v => some v

/-- The causes in the low four bits of a half: FAULT bit 0, RECEIVE bit 1, MARK bit 2, QUIET bit 3. -/
def causesOf (v : BitVec 32) : Causes := ⟨v.getLsbD 0, v.getLsbD 1, v.getLsbD 2, v.getLsbD 3⟩

/-- The fields of a CONTROL write (register table of chapter 10). -/
structure ControlWrite where
  run : Bool
  abort : Bool
  softReset : Bool
  clearMode : Bool
  msgEn : Bool
  deriving DecidableEq, Repr

/-- The fields that the word of a CONTROL write gives. -/
def controlFields (w : ControlWord) : ControlWrite :=
  ⟨w.value.getLsbD 0, w.value.getLsbD 1, w.value.getLsbD 2, w.value.getLsbD 3, w.value.getLsbD 4⟩

/-- CHAIN_START after a write (bits 35:0; R158: a half not written keeps its bits). -/
def chainStartAfter (old : BitVec 36) (w : RegWrite) : BitVec 36 :=
  let lo := (lowHalf w).getD (old.extractLsb' 0 32)
  let hi := ((highHalf w).map fun v => v.extractLsb' 0 4).getD (old.extractLsb' 32 4)
  hi ++ lo

/-- POLL after a write (bits 15:0; R160: a value of 0 is kept as 1). -/
def pollAfter (old : BitVec 16) (w : RegWrite) : BitVec 16 :=
  match lowHalf w with
  | some v => if v.extractLsb' 0 16 = 0 then 1 else v.extractLsb' 0 16
  | none => old

/-- ALERT_CFG after a write: mark in bits 7:0, quiet in bits 31:16, enables in bits 35:32. -/
def alertCfgAfter (old : AlertCfg) (w : RegWrite) : AlertCfg :=
  { mark := match lowHalf w with
      | some v => v.extractLsb' 0 8
      | none => old.mark
    quiet := match lowHalf w with
      | some v => v.extractLsb' 16 16
      | none => old.quiet
    enables := match highHalf w with
      | some v => causesOf v
      | none => old.enables }

/-- The code of a map state in IDENT. -/
def MapState.code : MapState → Nat
  | .absent => 0
  | .valid => 1
  | .loading => 2

/-- What a register reads as, all 64 bits (register table of chapter 10). Bits outside the fields read as 0. -/
def State.regValue (s : State) : Reg → Nat
  | .ident => 0x1A5D + 0x2416 * 2 ^ 16 + 0x01 * 2 ^ 32 + s.loader.state.code * 2 ^ 40
  | .control => bit s.port.control.run + 8 * bit s.port.control.clearMode + 16 * bit s.port.control.msgEn
  | .chainStart => s.port.chainStart.toNat
  | .poll => s.port.poll.toNat
  | .nudge => 0
  | .alertCfg =>
    s.port.alertCfg.mark.toNat + s.port.alertCfg.quiet.toNat * 2 ^ 16 + s.port.alertCfg.enables.bits * 2 ^ 32
  | .alert => s.alert.pending.bits
  | .cause => s.alert.pending.highest + s.walker.state.code * 2 ^ 8 + s.walker.retired * 2 ^ 32

/-- The bytes of a register read: eight of the whole register, four of a half. -/
def partBytes (p : RegPart) (v : Nat) : List Byte :=
  match p with
  | .whole => leBytes 8 v
  | .low => leBytes 4 v
  | .high => leBytes 4 (v / 2 ^ 32)

/-- R176: the causes that a read of a part of ALERT returns. -/
def State.alertReturned (s : State) (p : RegPart) : Causes :=
  match p with
  | .whole => s.alert.pending
  | .low => s.alert.pending
  | .high => Causes.empty

end Sys2Proof.Machine
end

