-- ==== Sys2Proof/Machine/Resets.lean ====
section
/-! DEFINITION. The three resets (R7, R10, R27 to R29, R68 to R70, R91, R105, R125, R142, R155, R171, R178). -/

namespace Sys2Proof.Machine

/-- A sequence of writes queued for the progress block. -/
def State.queueAll (ws : List (Nat × List Byte)) (s : State) : State :=
  ws.foldl (fun s w => s.queueMirror w.1 w.2) s

/-- R171, R169: the walker at a bus reset or soft reset: STOPPED, cursor kept, and its fields written. DESIGN CHOICE (log 40): the
offset of a fault record that is none is 0. -/
def State.resetWalker (s : State) : State :=
  ({ s with walker := { Walker.start with cursor := s.walker.cursor } } : State).queueAll
    [(0x000, leBytes 4 0), (0x004, leBytes 1 0), (0x005, leBytes 1 0), (0x006, leBytes 1 0), (0x008, leBytes 8 0),
     (0x018, leBytes 8 0)]

/-- R178: the alert unit at a bus reset or soft reset: the memory error counts are kept and written. -/
def State.resetAlert (s : State) : State :=
  ({ s with alert := { AlertUnit.start with memErrors := s.alert.memErrors } } : State).queueAll
    ((List.finRange 6).map fun i => (0x028 + 4 * i.val, leBytes 4 s.alert.memErrors[i]))

/-- R171, R178: the registers at a bus reset or soft reset, with CLEAR_MODE and MSG_EN as given. The guard drop count is kept
(R170). -/
def State.resetPort (clearMode msgEn : Bool) (s : State) : State :=
  { s with port := { HostPort.start with
      control := ⟨false, clearMode, msgEn⟩, guardDrops := s.port.guardDrops } }

/-- R171: a bus reset. The links, the exposure table but for an unbinding, the tile pool, the bank table, the canvas and a
running power-on load stay as they are. -/
def State.busReset (s : State) : State :=
  (((s.dropDeposit.dropService).resetPort false false).resetWalker).resetAlert

/-- R69: the exposure table is emptied and every slot made FREE; no slot is freed under R66; the mirrors and segment reports
are written. -/
def State.emptyPool (s : State) : State :=
  ({ s with exposures := Vector.replicate 4 none, slots := Vector.replicate 128 none } : State).queueAll
    (((List.finRange 4).map fun p => (placeOff p, leBytes 1 0)) ++ [(0x024, leBytes 4 128)]
      ++ (List.finRange 64).map fun g => (reportOff g, leBytes 16 0))

/-- R159, R171: a soft reset. -/
def State.softReset (s : State) : State :=
  let t := ((({ s with deposit := .idle } : State).dropService).resetPort s.port.control.clearMode
    s.port.control.msgEn).resetWalker.resetAlert
  (List.finRange 4).foldl State.softResetLink t.emptyPool

/-- R171: power-on. Every block takes its power-on state and the power-on map load begins (R7). The queue of waiting commands
and the count of free values taken are the model's own and are kept. -/
def State.powerOn (s : State) : State := { State.reset with freeTaken := s.freeTaken, pending := s.pending }

end Sys2Proof.Machine
end

