-- ==== Sys2Proof/Machine/HostPort.lean ====
section
/-! DEFINITION. The host port: CONTROL and the other register writes, the memory aperture and its guard, the alert registers,
and the landing of mirror writes (chapters 10 and 11). -/

namespace Sys2Proof.Machine

/-! ### CONTROL (R159, R162) -/

/-- R162: what a CONTROL write does at a walker that was in the state given before it, once the fields are kept and an ABORT has
been taken. -/
def State.applyRun (was : WalkerState) (s : State) : State :=
  match was with
  | .stopped => if s.port.control.run then s.startWalker else s
  | _ =>
    if s.port.control.run then s
    else if s.anyInFlight || decide (s.walker.state = .stopped) then
      { s with walker := { s.walker with pollTimer := none } }
    else s.stopWalker

/-- R159: a CONTROL write. SOFT_RESET is performed alone. Otherwise RUN, CLEAR_MODE and MSG_EN are kept as written, ABORT ends
the orders in flight, and RUN acts on the walker (log 5). -/
def State.controlWrite (c : ControlWrite) (s : State) : State :=
  if c.softReset then s.softReset
  else
    let t : State := { s with port := { s.port with control := ⟨c.run, c.clearMode, c.msgEn⟩ } }
    let u := if c.abort then t.abortAll else t
    u.applyRun s.walker.state

/-! ### The other registers (R160, R161, R174 to R176) -/

/-- R160: a write to CHAIN_START. -/
def State.writeChainStart (w : RegWrite) (s : State) : State :=
  if s.walker.state = .stopped then { s with port := { s.port with chainStart := chainStartAfter s.port.chainStart w } }
  else s

/-- R160: a write to POLL. -/
def State.writePoll (w : RegWrite) (s : State) : State :=
  { s with port := { s.port with poll := pollAfter s.port.poll w } }

/-- R174, R175: a write to ALERT_CFG: the fields are kept, MARK is tested against the mark written, and a quiet interval written
as 0 stops the quiet timer. DESIGN CHOICE (log 38): the enables of the same write are in force for the message of a MARK it
raises. -/
def State.writeAlertCfg (w : RegWrite) (s : State) : State :=
  let t : State := { s with port := { s.port with alertCfg := alertCfgAfter s.port.alertCfg w } }
  match lowHalf w with
  | none => t
  | some _ =>
    let u := t.testMark
    if u.port.alertCfg.quiet = 0 then { u with alert := { u.alert with quietTimer := none } } else u

/-- R176: a write to ALERT: in CLEAR_MODE 0 an acknowledgment of the causes written as 1, when any is; ignored in CLEAR_MODE
1. -/
def State.writeAlert (w : RegWrite) (s : State) : State :=
  match lowHalf w with
  | none => s
  | some v =>
    if s.port.control.clearMode || !(causesOf v).any then s else s.acknowledge (causesOf v)

/-- R176: a read of ALERT: it returns the pending set, and in CLEAR_MODE 1 it acknowledges every cause it returned. -/
def State.readAlert (p : RegPart) (s : State) : State :=
  let t : State := { s with readData := partBytes p (s.regValue .alert) }
  if s.port.control.clearMode && (s.alertReturned p).any then t.acknowledge (s.alertReturned p) else t

/-- R158: a read of a register. A read of any register but ALERT has no effect beyond the data returned. -/
def State.readRegister (r : Reg) (p : RegPart) (s : State) : State :=
  match r with
  | .alert => s.readAlert p
  | .ident => { s with readData := partBytes p (s.regValue .ident) }
  | .control => { s with readData := partBytes p (s.regValue .control) }
  | .chainStart => { s with readData := partBytes p (s.regValue .chainStart) }
  | .poll => { s with readData := partBytes p (s.regValue .poll) }
  | .nudge => { s with readData := partBytes p (s.regValue .nudge) }
  | .alertCfg => { s with readData := partBytes p (s.regValue .alertCfg) }
  | .cause => { s with readData := partBytes p (s.regValue .cause) }

/-- R175: expiry of the quiet timer. It happens only when the timer runs and the time base has reached its expiry time. -/
def State.quietExpiry (s : State) : State :=
  match s.alert.quietTimer with
  | some t =>
    if t ≤ s.timeBase then
      let u : State := { s with alert := { s.alert with quietTimer := none } }
      if 1 ≤ s.alert.ackCount then u.raise .quiet else u
    else s
  | none => s

/-- R161: expiry of the poll timer. It happens only when the timer runs and the time base has reached its expiry time. -/
def State.pollExpiry (s : State) : State :=
  match s.walker.pollTimer with
  | some t => if t ≤ s.timeBase then s.examine else s
  | none => s

/-! ### The memory aperture (R157, R170) -/

/-- R170: the range touches a guarded range: the progress block, the tile pool, the region above it, or the accumulator region of
a DEFINED field. -/
def State.guarded (s : State) (off n : Nat) : Bool :=
  overlaps off n 0 Config.generalBase || overlaps off n Config.poolBase (Config.memSize - Config.poolBase)
    || s.inSomeField off n

/-- R170: a dropped host write is counted and raises FAULT. -/
def State.dropWrite (s : State) : State :=
  let n := satAdd s.port.guardDrops 1
  let t : State := { s with port := { s.port with guardDrops := n } }
  (t.mirrorIf (decide (n ≠ s.port.guardDrops)) 0x020 4 n).raise .fault

/-- R170: a host write request lands whole or is dropped whole. Reads that a load or a define has made already do not see it (R8,
R74). -/
def State.hostStore (off : Nat) (bytes : List Byte) (s : State) : State :=
  if s.guarded off bytes.length then s.dropWrite
  else ({ s with mem := Memory.writeBytes s.mem off bytes } : State).noteMemory s

/-- R78: the host writes that land while the reads for one row are under way, one after the other. -/
def State.landRowWrites : List RowWrite → State → State
  | [], s => s
  | w :: ws, s => (s.hostStore w.off.toNat w.bytes).landRowWrites ws

/-- R78: the row's views of board memory: before each write, with the entries read by then. -/
def State.rowViews : List RowWrite → State → List RowView
  | [], _ => []
  | w :: ws, s => ⟨s.mem, w.before⟩ :: (s.hostStore w.off.toNat w.bytes).rowViews ws

/-- R78, R132: the deposit unit's next row deposit event, with what its reads meet. DESIGN CHOICE (log 46): the host writes that land
while they are under way are an operand of the event, and land where it serves no row too. -/
def State.rowStep (reads : RowReads) (s : State) : State :=
  (s.landRowWrites reads.during).stepWith reads.errs (State.rowEvent (s.rowViews reads.during))

/-- R157: the byte of a host read at an offset: zero above the tile pool; a byte that meets an uncorrectable memory error is
returned 'as read', a free value (log 3), and so is one beyond the aperture (log 23). -/
def State.hostByte (s : State) (a : Nat) : Byte :=
  if Config.memSize ≤ a then Config.beyondAperture s.freeTaken a
  else if Config.poolEnd ≤ a then 0
  else if s.readErr .host a 1 then Config.dataAsRead s.freeTaken a
  else Memory.read s.mem a

/-- The bytes of a host read from an offset. -/
def State.hostBytes (s : State) (off : Nat) : Nat → List Byte
  | 0 => []
  | n + 1 => s.hostByte off :: s.hostBytes (off + 1) n

/-- R157: a host read takes free values: it meets a memory error (log 3) or runs beyond the aperture (log 23). -/
def State.takesFree (s : State) (off n : Nat) : Bool := s.readErr .host off n || decide (Config.memSize < off + n)

/-- R157: a host read through the aperture is never refused. One that meets a memory error is counted. -/
def State.hostLoad (off n : Nat) (s : State) : State :=
  let t : State := { s with
    readData := s.hostBytes off n
    freeTaken := s.freeTaken + bit (s.takesFree off n) }
  if s.readErr .host off n then t.memError .hostReads else t

/-! ### Mirror writes (R26, R48, R66, R169) -/

/-- An offset of the segment reports (12.6). -/
def isReportOff (off : Nat) : Bool := decide (0x200 ≤ off ∧ off < 0x600)

/-- R66, R169: the first waiting write of a field may land, before or after writes of other fields; a write of the free count
lands after the segment reports written before it. The list without the write, and the write. -/
def takeMirror (off : Nat) : List MirrorWrite → Option (MirrorWrite × List MirrorWrite)
  | [] => none
  | w :: ws =>
    if w.off = off then some (w, ws)
    else if off = 0x024 ∧ isReportOff w.off = true then none
    else (takeMirror off ws).map fun r => (r.1, w :: r.2)

/-- R169: the oldest waiting write of the field at an offset of the progress block lands. -/
def State.landMirror (off : Nat) (s : State) : State :=
  match takeMirror off s.mirror with
  | some (w, ws) => { s with mem := Memory.writeBytes s.mem w.off w.bytes, mirror := ws }
  | none => s

end Sys2Proof.Machine
end

