-- ==== Sys2Proof/Machine/CmdHost.lean ====
section
/-! DEFINITION. The meanings of the other register accesses, the memory aperture and the mirror writes (R157 to R161, R169,
R170, R174 to R176). -/

namespace Sys2Proof.Machine

/-- CHAIN_START (R160). -/
def execChainStart (w : RegWrite) (s : State) : Host.Outcome State Fault Refusal := .next (s.writeChainStart w)

/-- POLL (R160). -/
def execPoll (w : RegWrite) (s : State) : Host.Outcome State Fault Refusal := .next (s.writePoll w)

/-- NUDGE (R161): any write, whole or half, makes an examination of a RUNNING walker with RUN set. -/
def execNudge (_w : RegWrite) (errs : List MemErr) (s : State) : Host.Outcome State Fault Refusal :=
  .next (s.stepWith errs State.examine)

/-- ALERT_CFG (R174, R175). -/
def execAlertCfg (w : RegWrite) (s : State) : Host.Outcome State Fault Refusal := .next (s.writeAlertCfg w)

/-- ALERT_WRITE (R176). -/
def execAlertWrite (w : RegWrite) (s : State) : Host.Outcome State Fault Refusal := .next (s.writeAlert w)

/-- ALERT_READ (R176). -/
def execAlertRead (p : RegPart) (s : State) : Host.Outcome State Fault Refusal := .next (s.readAlert p)

/-- REGISTER_WRITE (R158): the write is ignored. -/
def execRegisterWrite (_w : IdleWrite) (s : State) : Host.Outcome State Fault Refusal := .next s

/-- HOST_WRITE (R157, R170). A request that runs beyond the aperture touches its last byte, which is guarded, and so is
dropped whole. -/
def execHostWrite (off : BitVec 34) (bytes : List Byte) (s : State) : Host.Outcome State Fault Refusal :=
  .next (s.hostStore off.toNat bytes)

/-- HOST_READ (R157, R158): through the aperture, or of a register. -/
def execHostRead (what : HostReadOf) (errs : List MemErr) (s : State) : Host.Outcome State Fault Refusal :=
  match what with
  | .aperture off len => .next (s.stepWith errs (State.hostLoad off.toNat len))
  | .register r p => .next (s.stepWith errs (State.readRegister r p))

/-- MIRROR_WRITE_LANDS (R26, R48, R66, R169). -/
def execMirrorWriteLands (off : BitVec 12) (s : State) : Host.Outcome State Fault Refusal :=
  .next (s.landMirror off.toNat)

/-- QUIET_TIMER_EXPIRY (R175). -/
def execQuietTimerExpiry (s : State) : Host.Outcome State Fault Refusal := .next s.quietExpiry

/-- POLL_TIMER_EXPIRY (R161). -/
def execPollTimerExpiry (errs : List MemErr) (s : State) : Host.Outcome State Fault Refusal :=
  .next (s.stepWith errs State.pollExpiry)

end Sys2Proof.Machine
end

