-- ==== Sys2Proof/Machine/CmdLink.lean ====
section
/-! DEFINITION. The meanings of the camera link commands: lane marks and bytes, and completed packets (chapters 2 and 3). An
ASSEMBLE that such an event ends leaves flight, so each runs under `State.stepWith` (R161, R166). -/

namespace Sys2Proof.Machine

/-- LANE_START_MARK (R14, R16, R20). -/
def execLaneStartMark (l : LinkNo) (k : LaneNo) (errs : List MemErr) (s : State) : Host.Outcome State Fault Refusal :=
  .next (s.stepWith errs (State.laneStart l k))

/-- LANE_END_MARK (R16, R18, R21). -/
def execLaneEndMark (l : LinkNo) (k : LaneNo) (errs : List MemErr) (s : State) : Host.Outcome State Fault Refusal :=
  .next (s.stepWith errs (State.laneEnd l k))

/-- LANE_DATA_BYTE (R16 to R20, R22 to R24, R30 to R38). -/
def execLaneDataByte (l : LinkNo) (k : LaneNo) (b : Byte) (errs : List MemErr) (s : State) :
    Host.Outcome State Fault Refusal :=
  .next (s.stepWith errs (State.laneByte l k b))

/-- EXPOSURE_OPEN (R40, R49 to R52): kind 1, its stream field ignored. -/
def execExposureOpen (l : LinkNo) (tag : Tag) (errs : List MemErr) (s : State) : Host.Outcome State Fault Refusal :=
  .next (s.stepWith errs (State.packetArrives l ⟨0, 1, tag⟩ []))

/-- EXPOSURE_CLOSE (R40, R52 to R54): kind 2, its stream field ignored. -/
def execExposureClose (l : LinkNo) (tag : Tag) (errs : List MemErr) (s : State) : Host.Outcome State Fault Refusal :=
  .next (s.stepWith errs (State.packetArrives l ⟨0, 2, tag⟩ []))

/-- SEGMENT_BEGIN (R41, R59 to R61): kind 3, its header value the expected row count. -/
def execSegmentBegin (l : LinkNo) (t : StreamNo) (count : BitVec 16) (errs : List MemErr) (s : State) :
    Host.Outcome State Fault Refusal :=
  .next (s.stepWith errs (State.packetArrives l ⟨t, 3, count⟩ []))

/-- The payload of a ROW packet: the row index and the samples, each low byte first (chapter 3, section 3.6). -/
def rowPayload (index : BitVec 16) (samples : List (BitVec 16)) : List Byte :=
  leBytes 2 index.toNat ++ samples.flatMap fun x => leBytes 2 x.toNat

/-- ROW (R38, R44, R45, R62): kind 8, its header value the payload length. -/
def execRow (l : LinkNo) (t : StreamNo) (index : BitVec 16) (samples : List (BitVec 16)) (s : State) :
    Host.Outcome State Fault Refusal :=
  .next (s.packetArrives l ⟨t, 8, BitVec.ofNat 16 (rowPayload index samples).length⟩ (rowPayload index samples))

/-- SEGMENT_END (R42, R64): kind 4, its header value the rows sent. -/
def execSegmentEnd (l : LinkNo) (t : StreamNo) (sent : BitVec 16) (errs : List MemErr) (s : State) :
    Host.Outcome State Fault Refusal :=
  .next (s.stepWith errs (State.packetArrives l ⟨t, 4, sent⟩ []))

/-- BURST_END (R24, R38, R43): kind 5, its stream field and header value ignored. -/
def execBurstEnd (l : LinkNo) (s : State) : Host.Outcome State Fault Refusal :=
  .next (s.packetArrives l ⟨0, 5, 0⟩ [])

end Sys2Proof.Machine
end

