-- ==== Sys2Proof/Machine/CmdReset.lean ====
section
/-! DEFINITION. The meanings of the reset commands and of the CONTROL writes (R159, R162, R171, R176, R177). A CONTROL row's
word is read with the bits that make it that row (`Instr.wf`), the rest of its fields as written (log 5). -/

namespace Sys2Proof.Machine

/-- POWER_ON (R171). -/
def execPowerOn (s : State) : Host.Outcome State Fault Refusal := .next s.powerOn

/-- BUS_RESET (R171). -/
def execBusReset (s : State) : Host.Outcome State Fault Refusal := .next s.busReset

/-- SOFT_RESET (R159): a CONTROL write with SOFT_RESET set; every other field of the write is ignored. -/
def execSoftReset (w : ControlWord) (s : State) : Host.Outcome State Fault Refusal :=
  .next (s.controlWrite { controlFields w with softReset := true })

/-- RUN_SET (R159, R162): a CONTROL write with RUN set. -/
def execRunSet (w : ControlWord) (errs : List MemErr) (s : State) : Host.Outcome State Fault Refusal :=
  .next (s.stepWith errs (State.controlWrite { controlFields w with run := true, softReset := false }))

/-- RUN_CLEAR (R159, R162): a CONTROL write with RUN clear. -/
def execRunClear (w : ControlWord) (errs : List MemErr) (s : State) : Host.Outcome State Fault Refusal :=
  .next (s.stepWith errs (State.controlWrite { controlFields w with run := false, softReset := false }))

/-- ABORT (R159): a CONTROL write with ABORT set. -/
def execAbort (w : ControlWord) (errs : List MemErr) (s : State) : Host.Outcome State Fault Refusal :=
  .next (s.stepWith errs (State.controlWrite { controlFields w with abort := true, softReset := false }))

/-- CLEAR_MODE (R159, R176): a CONTROL write, CLEAR_MODE as its bit 3 says. -/
def execClearMode (w : ControlWord) (errs : List MemErr) (s : State) : Host.Outcome State Fault Refusal :=
  .next (s.stepWith errs (State.controlWrite { controlFields w with softReset := false }))

/-- MSG_EN (R159, R177): a CONTROL write, MSG_EN as its bit 4 says. -/
def execMsgEn (w : ControlWord) (errs : List MemErr) (s : State) : Host.Outcome State Fault Refusal :=
  .next (s.stepWith errs (State.controlWrite { controlFields w with softReset := false }))

end Sys2Proof.Machine
end

