-- ==== Sys2Proof/Machine/CmdService.lean ====
section
/-! DEFINITION. The meanings of the events of the map loader, the deposit unit and the service unit (chapters 1, 5, 7, 8 and
9). A command whose event the part is not ready for leaves the state as it is (log 12). -/

namespace Sys2Proof.Machine

/-- FLASH_STATUS_READ (R6). -/
def execFlashStatusRead (status : Byte) (s : State) : Host.Outcome State Fault Refusal := .next (s.flashStatus status)

/-- FLASH_BUSY_TIMEOUT (R6, R7, R9). -/
def execFlashBusyTimeout (errs : List MemErr) (s : State) : Host.Outcome State Fault Refusal :=
  .next (s.stepWith errs State.flashTimeout)

/-- MAP_LOAD_END (R2 to R5, R7 to R9, R11). -/
def execMapLoadEnd (flash : List Byte) (reads : MemReads) (s : State) : Host.Outcome State Fault Refusal :=
  .next (s.stepWith reads.errs (State.finishLoad flash reads.early))

/-- LOAD_MAP_BEGIN (R7). -/
def execLoadMapBegin (s : State) : Host.Outcome State Fault Refusal := .next s.beginWaitingLoad

/-- ROW_DEPOSIT (R78 to R90, R98 to R102, R110 to R120, R132 to R135). -/
def execRowDeposit (reads : RowReads) (s : State) : Host.Outcome State Fault Refusal :=
  .next (s.rowStep reads)

/-- DEADLINE_EXPIRY (R130, R137). -/
def execDeadlineExpiry (errs : List MemErr) (s : State) : Host.Outcome State Fault Refusal :=
  .next (s.stepWith errs State.deadline)

/-- FINALIZE_CELL_OPENING (R148, step 1). -/
def execFinalizeCellOpening (s : State) : Host.Outcome State Fault Refusal := .next s.openCell

/-- FINALIZE_CELL_ROW (R148, step 2, R149 to R152). -/
def execFinalizeCellRow (errs : List MemErr) (s : State) : Host.Outcome State Fault Refusal :=
  .next (s.stepWith errs State.publishRow)

/-- FINALIZE_CELL_CLOSING (R121, R147, R148, step 3, R153). -/
def execFinalizeCellClosing (errs : List MemErr) (s : State) : Host.Outcome State Fault Refusal :=
  .next (s.stepWith errs State.closeCell)

/-- CELL_CLEAR (R123). -/
def execCellClear (errs : List MemErr) (s : State) : Host.Outcome State Fault Refusal :=
  .next (s.stepWith errs State.clearNext)

/-- DEFINE_BANK_END (R74 to R76). -/
def execDefineBankEnd (reads : MemReads) (s : State) : Host.Outcome State Fault Refusal :=
  .next (s.stepWith reads.errs (State.finishDefine reads.early))

end Sys2Proof.Machine
end

