-- ==== Sys2Proof/Machine/Dispatch.lean ====
section
/-! DEFINITION. One arm per command: its meaning. -/

namespace Sys2Proof.Machine

/-- What a command does to everything but the queue of waiting commands. -/
def exec (i : Instr) (s : State) : Host.Outcome State Fault Refusal :=
  match i with
  | .powerOn => Sys2Proof.Machine.execPowerOn s
  | .busReset => Sys2Proof.Machine.execBusReset s
  | .softReset w => Sys2Proof.Machine.execSoftReset w s
  | .runSet w errs => Sys2Proof.Machine.execRunSet w errs s
  | .runClear w errs => Sys2Proof.Machine.execRunClear w errs s
  | .abort w errs => Sys2Proof.Machine.execAbort w errs s
  | .clearMode w errs => Sys2Proof.Machine.execClearMode w errs s
  | .msgEn w errs => Sys2Proof.Machine.execMsgEn w errs s
  | .chainStart w => Sys2Proof.Machine.execChainStart w s
  | .poll w => Sys2Proof.Machine.execPoll w s
  | .nudge w errs => Sys2Proof.Machine.execNudge w errs s
  | .alertCfg w => Sys2Proof.Machine.execAlertCfg w s
  | .alertWrite w => Sys2Proof.Machine.execAlertWrite w s
  | .alertRead p => Sys2Proof.Machine.execAlertRead p s
  | .registerWrite w => Sys2Proof.Machine.execRegisterWrite w s
  | .hostWrite off bytes => Sys2Proof.Machine.execHostWrite off bytes s
  | .hostRead what errs => Sys2Proof.Machine.execHostRead what errs s
  | .laneStartMark l k errs => Sys2Proof.Machine.execLaneStartMark l k errs s
  | .laneEndMark l k errs => Sys2Proof.Machine.execLaneEndMark l k errs s
  | .exposureOpen l tag errs => Sys2Proof.Machine.execExposureOpen l tag errs s
  | .exposureClose l tag errs => Sys2Proof.Machine.execExposureClose l tag errs s
  | .segmentBegin l t count errs => Sys2Proof.Machine.execSegmentBegin l t count errs s
  | .row l t index samples => Sys2Proof.Machine.execRow l t index samples s
  | .segmentEnd l t sent errs => Sys2Proof.Machine.execSegmentEnd l t sent errs s
  | .burstEnd l => Sys2Proof.Machine.execBurstEnd l s
  | .flashStatusRead status => Sys2Proof.Machine.execFlashStatusRead status s
  | .flashBusyTimeout errs => Sys2Proof.Machine.execFlashBusyTimeout errs s
  | .mapLoadEnd flash reads => Sys2Proof.Machine.execMapLoadEnd flash reads s
  | .loadMapBegin => Sys2Proof.Machine.execLoadMapBegin s
  | .pollTimerExpiry errs => Sys2Proof.Machine.execPollTimerExpiry errs s
  | .rowDeposit reads => Sys2Proof.Machine.execRowDeposit reads s
  | .deadlineExpiry errs => Sys2Proof.Machine.execDeadlineExpiry errs s
  | .finalizeCellOpening => Sys2Proof.Machine.execFinalizeCellOpening s
  | .finalizeCellRow errs => Sys2Proof.Machine.execFinalizeCellRow errs s
  | .finalizeCellClosing errs => Sys2Proof.Machine.execFinalizeCellClosing errs s
  | .cellClear errs => Sys2Proof.Machine.execCellClear errs s
  | .defineBankEnd reads => Sys2Proof.Machine.execDefineBankEnd reads s
  | .quietTimerExpiry => Sys2Proof.Machine.execQuietTimerExpiry s
  | .laneDataByte l k b errs => Sys2Proof.Machine.execLaneDataByte l k b errs s
  | .mirrorWriteLands off => Sys2Proof.Machine.execMirrorWriteLands off s

end Sys2Proof.Machine
end

