-- ==== Sys2Proof/Safety.lean ====
section
/-! DEFINITION. What a good state is, in the terms the claims use: one predicate per block, each a fact the manual's own rules
state of every state, and `Completes`, the step that answers a next state. -/

namespace Sys2Proof.Machine

/-! ### Outcomes -/

/-- A command answers the next state `t`. -/
def Completes (c : Instr) (s t : State) : Prop := exec c s = .next t

/-- The parts of the state, one for each field. -/
inductive Part where
  | timeBase
  | mem
  | mirror
  | loader
  | links
  | exposures
  | slots
  | banks
  | fields
  | deposit
  | service
  | walker
  | alert
  | port
  | readData
  | messages
  | errs
  | past
  | freeTaken
  | pending
  deriving DecidableEq, Repr

/-- Two states agree in a part. -/
def State.sameAt (s t : State) : Part → Prop
  | .timeBase => t.timeBase = s.timeBase
  | .mem => t.mem = s.mem
  | .mirror => t.mirror = s.mirror
  | .loader => t.loader = s.loader
  | .links => t.links = s.links
  | .exposures => t.exposures = s.exposures
  | .slots => t.slots = s.slots
  | .banks => t.banks = s.banks
  | .fields => t.fields = s.fields
  | .deposit => t.deposit = s.deposit
  | .service => t.service = s.service
  | .walker => t.walker = s.walker
  | .alert => t.alert = s.alert
  | .port => t.port = s.port
  | .readData => t.readData = s.readData
  | .messages => t.messages = s.messages
  | .errs => t.errs = s.errs
  | .past => t.past = s.past
  | .freeTaken => t.freeTaken = s.freeTaken
  | .pending => t.pending = s.pending

/-- The frame of a change: the second state differs from the first in the listed parts alone. -/
def Touches (ps : List Part) (s t : State) : Prop := ∀ p, p ∉ ps → s.sameAt t p

/-- One step keeps a predicate. -/
def StepKeeps (P : State → Prop) : Prop := ∀ s t : State, P s → step s = .next t → P t

/-! ### What the claims speak of -/

/-- R166: no order is in flight. -/
def State.NoOrder (s : State) : Prop := s.deposit = .idle ∧ s.service = none

/-- R161: the walker makes examinations: it is RUNNING and RUN is set. -/
def State.Examines (s : State) : Prop := s.walker.state = .running ∧ s.port.control.run = true

/-- R162: the walker is HALTED with RUN set: orders in flight still retire, and no examination follows. -/
def State.Halted (s : State) : Prop := s.walker.state = .halted ∧ s.port.control.run = true

/-- The record offset of an order of the service unit. -/
def ServiceOrder.record : ServiceOrder → Nat
  | .finalize o => o.record
  | .clearField rec _ _ _ => rec
  | .defineBank rec _ _ _ => rec
  | .loadMap rec _ _ => rec

/-- R10, R77, R124, R154: the results that an order of the service unit retires with at an ABORT. -/
def ServiceOrder.resultsSoFar : ServiceOrder → List Nat
  | .finalize o => [o.written, o.noData, o.rejected]
  | .clearField _ _ _ k => [k]
  | .defineBank _ _ _ _ => []
  | .loadMap _ _ _ => []

/-- R168, 12.2: the order record at an offset shows a retirement: the state word DONE (3) or FAILED (4), the status, the retire
time, and the eleven result slots, those the order does not give as 0. -/
def Memory.recordShows (m : List Host.Cell) (off : Nat) (st : Status) (results : List Nat) (time : Nat) : Prop :=
  Memory.readNat m off 4 = (if st.code < 16 then 3 else 4) ∧ Memory.readNat m (off + 6) 2 = st.code
    ∧ Memory.readNat m (off + 32) 8 = time % 2 ^ 64
    ∧ ∀ i < 11, Memory.readNat m (off + 84 + 4 * i) 4 = (results.getD i 0) % 2 ^ 32

/-- Two memories read the same at every offset outside `n` bytes from `off`. -/
def Memory.sameOutside (m m' : List Host.Cell) (off n : Nat) : Prop :=
  ∀ a, a < off ∨ off + n ≤ a → Memory.read m' a = Memory.read m a

/-- R162, R168: the record at an offset is still TAKEN, and the walker is HALTED, so that no examination follows its retirement. -/
def State.StillTaken (s : State) (rec : Nat) : Prop :=
  s.Halted ∧ rec + 128 ≤ Config.memSize ∧ Memory.readNat s.mem rec 4 = 2

/-- R168: the walker after the retirement of the order whose record lies at an offset, before any examination that follows. -/
def State.retiredWalker (s : State) (rec : Nat) : Walker :=
  { s.walker with retired := (s.walker.retired + 1) % 2 ^ 32, lastRetired := rec }

/-- R168, R174: between two states the order whose record lies at an offset retires with a status and results, and the walker then is as
given: the record shows them, no other byte of memory changes, and the acknowledgment count gains 1. -/
def State.RetiresAnd (s t : State) (rec : Nat) (st : Status) (results : List Nat) (walker : Walker) : Prop :=
  Memory.recordShows t.mem rec st results s.timeBase ∧ Memory.sameOutside s.mem t.mem rec 128 ∧ t.walker = walker
    ∧ t.alert.ackCount = min (s.alert.ackCount + 1) 4294967295

/-- R168, R174: between two states the order whose record lies at an offset retires with a status and results, and the walker does
nothing further. -/
def State.Retires (s t : State) (rec : Nat) (st : Status) (results : List Nat) : Prop :=
  s.RetiresAnd t rec st results (s.retiredWalker rec)

/-- R161, R163, R164: an examination after the retirement of the order whose record lies at `rec` finds nothing to take: the walker is
parked and the next field is still 0, or the record at its cursor, another one, is FREE. -/
def State.WaitsBeside (s : State) (rec : Nat) : Prop :=
  let c := s.walker.cursor
  (s.walker.parked = true ∧ Memory.readNat s.mem (c + 8) 8 = 0 ∧ (c = rec ∨ c + 128 ≤ rec ∨ rec + 128 ≤ c))
    ∨ (s.walker.parked = false ∧ offsetPasses c = true ∧ Memory.readNat s.mem c 4 = 0 ∧ (c + 128 ≤ rec ∨ rec + 128 ≤ c))

/-! ### Take-up (R161, R163, R164, R167) -/

/-- R161, R163, R164: the walker examines, not parked, a POSTED order of a kind at a record offset that passes; the order is not held, and
its next field is 0. -/
def State.Presents (s : State) (kind : Nat) : Prop :=
  s.Examines ∧ s.walker.parked = false ∧ offsetPasses s.walker.cursor = true ∧ Memory.readNat s.mem s.walker.cursor 4 = 1
    ∧ Memory.readNat s.mem (s.walker.cursor + 4) 1 = kind ∧ s.held (readHead s.mem s.walker.cursor) = false
    ∧ Memory.readNat s.mem (s.walker.cursor + 8) 8 = 0

/-- R161, R164: the walker parked on the order at its cursor, the poll timer started by the examination. -/
def State.parkedWalker (s : State) : Walker :=
  { s.walker with parked := true, pollTimer := some (s.timeBase + s.port.poll.toNat) }

/-- R8, R74: what a step that changed board memory leaves of the contents it had since the reads under way began. Where the same order reads
on, board memory as it stood is kept; where none reads on, nothing of them changes. -/
def State.KeepsPast (s t : State) : Prop :=
  (s.reading.isSome = true → t.reading = s.reading → t.past = s.past ++ [s.mem]) ∧ (t.reading = none → t.past = s.past)

/-- R161, R163, R164, R166: a NUDGE takes the order at the cursor into flight. The record shows TAKEN and the take time, no other byte of
memory changes, and the walker is parked on it; beside these the step changes the parts listed alone. -/
def State.TakesInto (s t : State) (ps : List Part) : Prop :=
  (∀ w : RegWrite, exec (.nudge w []) s = .next t) ∧ Touches (.mem :: .past :: .walker :: .mirror :: .errs :: ps) s t ∧ s.KeepsPast t
    ∧ Memory.readNat t.mem s.walker.cursor 4 = 2 ∧ Memory.readNat t.mem (s.walker.cursor + 24) 8 = s.timeBase % 2 ^ 64
    ∧ (∀ a, a < s.walker.cursor ∨ s.walker.cursor + 4 ≤ a → a < s.walker.cursor + 24 ∨ s.walker.cursor + 32 ≤ a →
        Memory.read t.mem a = Memory.read s.mem a)
    ∧ t.walker = s.parkedWalker

/-- R161, R163, R164, R167, R168: a NUDGE takes the order at the cursor and retires it in the same examination, with a status and results.
The record shows them and the take time, no byte outside it changes, the walker is parked on it with one retirement more, and the alert
unit is told of it; beside these the step changes the parts listed alone. -/
def State.TakesAndRetires (s t : State) (st : Status) (results : List Nat) (ps : List Part) : Prop :=
  (∀ w : RegWrite, exec (.nudge w []) s = .next t)
    ∧ Touches (.mem :: .past :: .walker :: .mirror :: .alert :: .messages :: .errs :: ps) s t ∧ s.KeepsPast t
    ∧ Memory.recordShows t.mem s.walker.cursor st results s.timeBase
    ∧ Memory.readNat t.mem (s.walker.cursor + 24) 8 = s.timeBase % 2 ^ 64
    ∧ Memory.sameOutside s.mem t.mem s.walker.cursor 128
    ∧ t.walker = { s.parkedWalker with retired := (s.walker.retired + 1) % 2 ^ 32, lastRetired := s.walker.cursor }
    ∧ t.alert = s.alertRetirement.alert ∧ t.messages = s.alertRetirement.messages

/-- R167, R168: a failed take-up: the order at the cursor retires with the status, no results, and nothing but its record changes. -/
def State.FailsTakeUp (s : State) (st : Status) : Prop := ∃ t, s.TakesAndRetires t st [] []

/-- R107, R145, R170: two runs of bytes share a byte. -/
def Shares (a n b m : Nat) : Prop := ∃ x, (a ≤ x ∧ x < a + n) ∧ b ≤ x ∧ x < b + m

/-! ### The deposit unit (R132, R133) -/

/-- R132: the row served next from a slot: the lowest index in rows stored at or above the deposit cursor. -/
def Slot.Next (sl : Slot) (r : Nat) : Prop := r ∈ sl.rows ∧ sl.cursor ≤ r ∧ ∀ q ∈ sl.rows, sl.cursor ≤ q → r ≤ q

/-- R133, R139: the results once a COMPLETE slot's deposit has finished. -/
def Results.finished (q : Results) (sl : Slot) : Results :=
  { q with
    deposited := min (q.deposited + 1) 4294967295
    rowsMissing := min (q.rowsMissing + (sl.expected - sl.rows.length)) 4294967295 }

/-- R55, R66: between two states a slot of T is freed with a reason and its segment settled: the slot is FREE, the entry at a place has the
outcome and one slot less, and the segment's report waits for the progress block. -/
def State.SettlesAndFrees (s t : State) (n : SlotNo) (sl : Slot) (why : FreeReason) (out : SegOutcome) (p : Fin 4) (e : ExpEntry) :
    Prop :=
  t.slots = s.slots.set n none
    ∧ t.exposures = s.exposures.set p (some { e with outcomes := e.outcomes.set sl.seg out, held := e.held - 1 })
    ∧ ∃ w ∈ t.mirror, w.off = 0x200 + 16 * sl.seg.val ∧ w.bytes = reportBytes why sl

/-! ### Accumulator records (R114, R180) -/

/-- R114: the ranges of a record's fields, for shares of calibrated values: the sum of weights is at most 65280 for each share counted, the
weighted sum at most 2^28 - 1 in magnitude for each unit of weight. -/
def AccRecord.InRange (r : AccRecord) : Prop :=
  r.count ≤ 65535 ∧ r.wsum ≤ 65280 * r.count ∧ r.fsum.natAbs ≤ 268435455 * r.wsum ∧ r.hiValue.natAbs ≤ 268435455
    ∧ r.hiWeight ≤ 65280 ∧ r.mask < 16

/-! ### Links -/

/-- A link receiver with one counter (R26) one higher, unless it stands at its maximum. -/
def Link.counted (k : Link) (c : LinkCounter) : Link :=
  { k with counters := k.counters.set c.idx (min (k.counters[c.idx] + 1) 4294967295) }

/-! ### Board memory -/

/-- Board memory is in its canonical form. -/
def State.MemoryOk (s : State) : Prop := Memory.wf s.mem

/-! ### Link receivers (R13, R14, R19, R25, R35, R52) -/

/-- R13, R19, R35: what a link holds stays within the manual's bounds: at most 1024 bytes in a lane, at most 3 header bytes, a
packet buffer shorter than the payload and footer it waits for, and a payload of at most 4096 bytes. -/
def Link.bounded (k : Link) : Prop :=
  (∀ n : LaneNo, k.lanes[n].held.length ≤ Config.laneLimit) ∧ k.parser.hdr.length ≤ 3
    ∧ (∀ h, k.parser.cur = some h →
        h.long = true ∧ h.value.toNat ≤ Config.payloadMax ∧ k.parser.buffer.length < h.value.toNat + 2)
    ∧ ∀ c : Fin 14, k.counters[c] ≤ Config.counterMax

/-- R14, R25, R52: OFF is the state without segments and names no exposure, and a link never names a current exposure and a
refused one together. -/
def Link.named (k : Link) : Prop :=
  (k.phase = .off ↔ k.settings = none) ∧ (k.phase = .off → k.current = none ∧ k.refused = none)
    ∧ (k.current = none ∨ k.refused = none)

/-- Every link receiver is good. -/
def State.LinksOk (s : State) : Prop := ∀ l : LinkNo, s.links[l].bounded ∧ s.links[l].named

/-! ### The map loader (R1, R2, R4) -/

/-- R1, R4 check 5: the fields of a present entry lie in their ranges. -/
def SegEntry.inRange (e : SegEntry) : Prop :=
  (1 ≤ e.lanes ∧ e.lanes ≤ 4) ∧ e.prescan ≤ 32 ∧ (1 ≤ e.image ∧ e.image ≤ 1024) ∧ e.overscan ≤ 64
    ∧ (1 ≤ e.rows ∧ e.rows ≤ 2048) ∧ e.e.natAbs < 2 ^ 50 ∧ e.f.natAbs < 2 ^ 50

/-- R4: a map that has passed every check over its entries. -/
def FocalMap.Checked (m : FocalMap) : Prop :=
  (1 ≤ m.count ∧ m.count ≤ 64)
    ∧ (∀ (i : SegNo) (e : SegEntry), m.entries[i] = some e → i.val < m.count ∧ e.inRange ∧ e.rowLen ≤ 1120)
    ∧ (∀ (i j : SegNo) (d e : SegEntry), m.entries[i] = some d → m.entries[j] = some e →
        (d.link = e.link ∧ d.stream = e.stream → i = j)
          ∧ (d.link = e.link → d.lanes = e.lanes ∧ d.burstEnd = e.burstEnd))

/-- R3, 12.4: the entry bytes of a map image have the map's entries in their fields: the entry of segment s at 64 × s. An entry that is not
present lies beyond the segment count or has the present byte 0. -/
def FocalMap.StoredIn (m : FocalMap) (es : List Byte) : Prop :=
  ∀ seg : SegNo, let x := 64 * seg.val
    match m.entries[seg] with
    | none => m.count ≤ seg.val ∨ fieldAt es x 1 = 0
    | some e => seg.val < m.count ∧ fieldAt es x 1 = 1 ∧ fieldAt es (x + 1) 1 = e.link.val ∧ fieldAt es (x + 2) 1 = e.stream.val
      ∧ fieldAt es (x + 3) 1 = e.lanes ∧ fieldAt es (x + 4) 1 = (if e.burstEnd then 1 else 0)
      ∧ fieldAt es (x + 5) 1 = e.prescan ∧ fieldAt es (x + 6) 1 = e.overscan ∧ fieldAt es (x + 8) 2 = e.image
      ∧ fieldAt es (x + 10) 2 = e.rows ∧ signed 32 (fieldAt es (x + 16) 4) = e.a ∧ signed 32 (fieldAt es (x + 20) 4) = e.b
      ∧ signed 32 (fieldAt es (x + 24) 4) = e.c ∧ signed 32 (fieldAt es (x + 28) 4) = e.d
      ∧ signed 64 (fieldAt es (x + 32) 8) = e.e ∧ signed 64 (fieldAt es (x + 40) 8) = e.f

/-- R3, R4: a header and the entry bytes after it pass the eight checks, and the map is what they hold. -/
def FocalMap.Passes (m : FocalMap) (h es : List Byte) : Prop :=
  fieldAt h 0 4 = 0x50414D46 ∧ fieldAt h 4 2 = 1 ∧ fieldAt h 6 2 = m.count ∧ crc16 es = fieldAt h 8 2 ∧ m.Checked ∧ m.StoredIn es

/-- A LOAD_MAP is in flight, its own load begun or not. -/
def State.loadMapBegun (s : State) (begun : Bool) : Prop :=
  ∃ rec image, s.service = some (.loadMap rec image begun)

/-- R2: a load runs in LOADING and in no other state; a map is in use exactly in VALID and in a LOADING entered from it; the
running load of an order belongs to the LOAD_MAP in flight; and a map in use satisfies every check. -/
def State.LoaderOk (s : State) : Prop :=
  (s.loader.state = .loading ↔ s.loader.load.isSome = true)
    ∧ (s.loader.state = .absent → s.loader.inUse = none) ∧ (s.loader.state = .valid → s.loader.inUse.isSome = true)
    ∧ (s.loader.state = .loading →
        (s.loader.enteredFrom = .absent ∧ s.loader.inUse = none)
          ∨ (s.loader.enteredFrom = .valid ∧ s.loader.inUse.isSome = true))
    ∧ (s.loadMapBegun true ↔ ∃ p, s.loader.load = some ⟨true, p⟩)
    ∧ (∀ m, s.loader.inUse = some m → m.Checked)

/-! ### The bank table (R71, R72, R75) -/

/-- R72, 12.3: the record at an offset has the bank's parameters in its fields: the amplifier entry of each segment at 16 + 48 × segment,
and defect entry j at 3088 + 12 × j. -/
def Bank.StoredAt (b : Bank) (m : List Host.Cell) (off : Nat) : Prop :=
  (∀ seg : SegNo, let a := b.amps[seg]; let x := off + 16 + 48 * seg.val
    Memory.readNat m x 1 = (match a.mode with
      | .overscan => 0
      | .fixed => 1
      | .plane => 2)
      ∧ Memory.readNat m (x + 1) 1 = a.skip ∧ Memory.readNat m (x + 2) 1 = a.n ∧ Memory.readNat m (x + 4) 2 = a.fixed
      ∧ Memory.readNat m (x + 6) 2 = a.gain ∧ Memory.readNat m (x + 8) 2 = a.sat ∧ Memory.readNat m (x + 16) 8 = a.lut
      ∧ Memory.readNat m (x + 24) 8 = a.flat ∧ Memory.readNat m (x + 32) 8 = a.bias)
  ∧ ∀ (j : Nat) (d : Defect), b.defects[j]? = some d → let x := off + 3088 + 12 * j
    Memory.readNat m x 1 = d.seg ∧ Memory.readNat m (x + 2) 2 = d.firstCol ∧ Memory.readNat m (x + 4) 2 = d.lastCol
      ∧ Memory.readNat m (x + 6) 2 = d.firstRow ∧ Memory.readNat m (x + 8) 2 = d.lastRow

/-- R75, checks 5 to 9, for an amplifier against the map entry of its segment (`none`: not present). -/
def Amp.Fits (a : Amp) (x : Option SegEntry) : Prop :=
  let plane (off : Nat) : Prop := off = 0 ∨ (Config.generalBase ≤ off ∧ off + (match x with
    | some e => e.image * e.rows * 2
    | none => 1) ≤ Config.poolBase)
  (1 ≤ a.gain ∧ 1 ≤ a.sat)
    ∧ (a.mode = .overscan → (1 ≤ a.n ∧ a.n ≤ 64) ∧ a.skip + a.n ≤ match x with
      | some e => e.overscan
      | none => 64)
    ∧ (a.mode = .plane → a.bias ≠ 0) ∧ (Config.generalBase ≤ a.lut ∧ a.lut + 2048 ≤ Config.poolBase)
    ∧ plane a.flat ∧ plane a.bias

/-- R75, check 10, for a defect entry against a map. -/
def Defect.Fits (d : Defect) (map : Vector (Option SegEntry) 64) : Prop :=
  d.seg < 64 ∧ d.firstCol ≤ d.lastCol ∧ d.firstRow ≤ d.lastRow
    ∧ ∀ (seg : SegNo) (e : SegEntry), seg.val = d.seg → map[seg] = some e → d.lastCol < e.image ∧ d.lastRow < e.rows

/-- R71, R75: what every VALID bank satisfies, whatever map it was checked against: amplifiers that fit an absent segment, and at most 1024
defects in range. -/
def Bank.Ok (b : Bank) : Prop :=
  (∀ seg : SegNo, b.amps[seg].Fits none) ∧ b.defects.length ≤ 1024
    ∧ ∀ d ∈ b.defects, d.seg < 64 ∧ d.firstCol ≤ d.lastCol ∧ d.firstRow ≤ d.lastRow

/-- R73, R75, R76: every VALID entry of the bank table is good, and the map that a define in flight keeps is in range. -/
def State.BanksOk (s : State) : Prop :=
  (∀ (k : Fin 8) (b : Bank), s.banks[k] = some b → b.Ok)
    ∧ ∀ (rec off : Nat) (k : Fin 8) (map : Vector (Option SegEntry) 64), s.service = some (.defineBank rec k off map) →
      ∀ (seg : SegNo) (e : SegEntry), map[seg] = some e → e.inRange

/-! ### The exposure table and the tile pool (R47, R56, R58, R62) -/

/-- The tag of the entry of a place. -/
def State.tagAt (s : State) (p : Fin 4) : Option Tag := (s.exposures[p]).map ExpEntry.tag

/-- R47: the number of slots that name a tag and are not FREE. -/
def State.slotsNaming (s : State) (tag : Tag) : Nat :=
  s.slots.toList.countP fun x => match x with
    | some sl => decide (sl.tag = tag)
    | none => false

/-- R47, R56: the tags of the entries present are distinct; slots held counts the slots that name the tag; no entry is DISCARDED,
and one that is ASSEMBLED still holds a slot. -/
def State.TableOk (s : State) : Prop :=
  (∀ (p q : Fin 4) (d e : ExpEntry), s.exposures[p] = some d → s.exposures[q] = some e → d.tag = e.tag → p = q)
    ∧ ∀ (p : Fin 4) (e : ExpEntry), s.exposures[p] = some e →
        e.held = s.slotsNaming e.tag ∧ e.state ≠ .discarded ∧ (e.state = .assembled → 0 < e.held)

/-- R56, R58, R62: a slot that is not FREE names an exposure whose entry is present; its rows stored ascend without duplicates below
its expected rows; and no exposure and segment hold more than one slot that is FILLING or COMPLETE. -/
def State.SlotsOk (s : State) : Prop :=
  (∀ (n : SlotNo) (sl : Slot), s.slots[n] = some sl →
      (s.entryOf sl.tag).isSome = true ∧ sl.rows.Pairwise (· < ·) ∧ ∀ r ∈ sl.rows, r < sl.expected)
    ∧ ∀ (m n : SlotNo) (x y : Slot), s.slots[m] = some x → s.slots[n] = some y →
        x.tag = y.tag → x.seg = y.seg → x.state ≠ .late → y.state ≠ .late → m = n

/-- The exposure table and the tile pool agree with each other. -/
def State.PoolOk (s : State) : Prop := s.TableOk ∧ s.SlotsOk

/-! ### The sky canvas (R105 to R109, R117, R121) -/

/-- R109, R117, R121: a cell lists at most 8 exposure tags, none twice, and a VACANT cell has no last product offset. -/
def DirCell.Ok (d : DirCell) : Prop :=
  d.exposures.length ≤ 8 ∧ d.exposures.Nodup ∧ (d.state = .vacant → d.last = none) ∧ d.deposits ≤ Config.counterMax

/-- R105 to R109: a DEFINED field has 1..40 columns and rows, its region lies in the general region from a multiple of 4096, and it
has one good directory entry for each of its cells. -/
def Field.Ok (f : Field) : Prop :=
  (1 ≤ f.cols ∧ f.cols ≤ 40) ∧ (1 ≤ f.rows ∧ f.rows ≤ 40) ∧ f.base % 4096 = 0
    ∧ (Config.generalBase ≤ f.base ∧ f.base + f.regionBytes ≤ Config.poolBase)
    ∧ f.cells.length = f.cols * f.rows ∧ ∀ d ∈ f.cells, d.Ok

/-- R108: every DEFINED field is good, and the regions of two fields share no byte. -/
def State.FieldsOk (s : State) : Prop :=
  (∀ (i : Fin 4) (f : Field), s.fields[i] = some f → f.Ok)
    ∧ ∀ (i j : Fin 4) (f g : Field), s.fields[i] = some f → s.fields[j] = some g → i ≠ j →
        f.base + f.regionBytes ≤ g.base ∨ g.base + g.regionBytes ≤ f.base

/-! ### Orders in flight (R166) -/

/-- R166: no order of the service unit naming a field is in flight together with an ASSEMBLE into that field. -/
def State.OrdersOk (s : State) : Prop :=
  ∀ (o : Assembly) (x : ServiceOrder), s.assembly = some o → s.service = some x → x.field? ≠ some o.field.val

/-- R157, R165: every order in flight has its record in the general region or above, and so has the product region of a FINALIZE
(R145). -/
def State.PlacesOk (s : State) : Prop :=
  (∀ o, s.assembly = some o → Config.generalBase ≤ o.record)
    ∧ (∀ x, s.service = some x → Config.generalBase ≤ x.record)
    ∧ ∀ o, s.service = some (.finalize o) → Config.generalBase ≤ o.base

/-! ### The walker and the alert unit (R161, R162, R168, R172) -/

/-- R161, R168: the poll timer does not run in STOPPED or HALTED, and the retired count is a 32-bit count. -/
def State.WalkerOk (s : State) : Prop :=
  (s.walker.state ≠ .running → s.walker.pollTimer = none) ∧ s.walker.retired < 4294967296

/-- R172: the acknowledgment count and the memory error counts stop at their maximum. -/
def State.AlertOk (s : State) : Prop :=
  s.alert.ackCount ≤ Config.counterMax ∧ (∀ i : Fin 6, s.alert.memErrors[i] ≤ Config.counterMax)
    ∧ s.port.guardDrops ≤ Config.counterMax

/-- Every block is good. -/
def State.Ok (s : State) : Prop :=
  s.MemoryOk ∧ s.LinksOk ∧ s.LoaderOk ∧ s.BanksOk ∧ s.PoolOk ∧ s.FieldsOk ∧ s.OrdersOk ∧ s.PlacesOk ∧ s.WalkerOk
    ∧ s.AlertOk

end Sys2Proof.Machine
end

