-- ==== Sys2Proof/Certificates/Slice0/Obligations.lean ====
section
/-! DEFINITION. The statements for the provers, from the numbered rules of the manual: first the part and its resets, then the host
port, the alerts, the walker, the camera links, the exposures, the maps, the pixels, the canvas, the units, and last the invariants
that every step keeps. -/

open Sys2Proof Sys2Proof.Machine

/-! ### The part -/

/-- The model's own (log 11): a step runs the command at the front of the queue with the queue's rest, and on an empty queue counts one
microsecond. -/
def Obligations.StepRunsTheFrontCommand : Prop :=
  (∀ (c : Instr) (rest : List Instr) (s : State),
    step { s with pending := c :: rest } = exec c { s with pending := rest })
  ∧ ∀ s : State, step { s with pending := [] }
      = .next { s with pending := [], timeBase := min (s.timeBase + 1) (2 ^ 64 - 1) }

/-- The power-on state of every block: R7, R27, R68, R91, R105, R142, R155, R171, R178. POWER_ON puts every block into it from any state;
the queue and the count of free values taken are the model's own (log 29), and the offset 0 of a fault record that is none is the model's
choice (log 40). -/
def Obligations.PowerOnState : Prop :=
  (∀ s : State, exec .powerOn s = .next { State.reset with freeTaken := s.freeTaken, pending := s.pending })
  ∧ State.reset.loader = ⟨none, .loading, .absent, some ⟨false, .busyWait 0⟩⟩
  ∧ (∀ l : LinkNo, State.reset.links[l].phase = .off ∧ State.reset.links[l].settings = none
      ∧ State.reset.links[l].current = none ∧ State.reset.links[l].refused = none
      ∧ ∀ c : Fin 14, State.reset.links[l].counters[c] = 0)
  ∧ (∀ p : Fin 4, State.reset.exposures[p] = none) ∧ (∀ n : SlotNo, State.reset.slots[n] = none)
  ∧ (∀ b : Fin 8, State.reset.banks[b] = none) ∧ (∀ f : Fin 4, State.reset.fields[f] = none)
  ∧ State.reset.deposit = .idle ∧ State.reset.service = none
  ∧ State.reset.walker = ⟨.stopped, 0, false, none, 0, 0, .none, 0⟩
  ∧ State.reset.alert.pending = ⟨false, false, false, false⟩ ∧ State.reset.alert.ackCount = 0
  ∧ State.reset.alert.quietTimer = none ∧ (∀ i : Fin 6, State.reset.alert.memErrors[i] = 0)
  ∧ State.reset.port = ⟨⟨false, false, false⟩, 0, 100, ⟨0, 0, ⟨true, true, true, true⟩⟩, 0⟩
  ∧ Memory.readNat State.reset.mem 0x024 4 = 128 ∧ State.reset.timeBase = 0 ∧ State.reset.pending = []

/-- R10, R29, R70, R77, R91, R124, R125, R142, R155, R170, R171, R178: what a bus reset sets and what it leaves. The offset 0 of a fault
record that is none is the model's choice (log 40). -/
def Obligations.BusResetSetsAndLeaves : Prop :=
  ∀ s : State, ∃ t, exec .busReset s = .next t
    ∧ Touches [.exposures, .mirror, .deposit, .loader, .service, .port, .walker, .alert] s t
    ∧ t.deposit = .idle ∧ t.service = none
    ∧ t.port =
        { control := ⟨false, false, false⟩, chainStart := 0, poll := 100,
          alertCfg := ⟨0, 0, ⟨true, true, true, true⟩⟩, guardDrops := s.port.guardDrops }
    ∧ t.walker = ⟨.stopped, s.walker.cursor, false, none, 0, 0, .none, 0⟩
    ∧ t.alert = ⟨⟨false, false, false, false⟩, 0, none, s.alert.memErrors⟩
    ∧ t.loader = (match s.service with
        | some (.loadMap _ _ true) => { s.loader with state := s.loader.enteredFrom, load := none }
        | _ => s.loader)
    ∧ (∀ (o : Assembly) (p : Fin 4) (e : ExpEntry), s.deposit = .serving o → s.placeOf o.tag = some p →
        s.exposures[p] = some e →
        t.exposures = s.exposures.set p
          (some { e with state := if e.closedBy = e.openedBy then .closed else .opened }))
    ∧ ((∀ o, s.deposit ≠ .serving o) → t.exposures = s.exposures)

/-- R10, R28, R69, R91, R125, R142, R159, R171, R178: what a soft reset sets and what it leaves, whatever else the write carries. Held bytes
and a packet in progress are dropped. The offset 0 of a fault record that is none is the model's choice (log 40), and so are the phases of
the lanes of a link without a burst, of which no clause speaks (log 6). -/
def Obligations.SoftResetSetsAndLeaves : Prop :=
  ∀ (w : ControlWord) (s : State), ∃ t, exec (.softReset w) s = .next t
    ∧ Touches [.links, .exposures, .slots, .mirror, .deposit, .loader, .service, .port, .walker, .alert] s t
    ∧ t.deposit = .idle ∧ t.service = none
    ∧ t.port =
        { control := ⟨false, s.port.control.clearMode, s.port.control.msgEn⟩, chainStart := 0, poll := 100,
          alertCfg := ⟨0, 0, ⟨true, true, true, true⟩⟩, guardDrops := s.port.guardDrops }
    ∧ t.walker = ⟨.stopped, s.walker.cursor, false, none, 0, 0, .none, 0⟩
    ∧ t.alert = ⟨⟨false, false, false, false⟩, 0, none, s.alert.memErrors⟩
    ∧ t.loader = (match s.service with
        | some (.loadMap _ _ true) => { s.loader with state := s.loader.enteredFrom, load := none }
        | _ => s.loader)
    ∧ (∀ p : Fin 4, t.exposures[p] = none) ∧ (∀ n : SlotNo, t.slots[n] = none)
    ∧ ∀ l : LinkNo, t.links[l].settings = drawSettings s.loader.inUse l
        ∧ t.links[l].phase = (if drawSettings s.loader.inUse l = none then .off else .idle)
        ∧ t.links[l].current = none ∧ t.links[l].refused = none ∧ (∀ c : Fin 14, t.links[l].counters[c] = 0)
        ∧ (∀ n : LaneNo, t.links[l].lanes[n].held = []) ∧ t.links[l].parser.hdr = [] ∧ t.links[l].parser.cur = none

/-! ### CONTROL -/

/-- R159, R162: every CONTROL write that is not a soft reset keeps RUN, CLEAR_MODE and MSG_EN as written, and changes nothing else at the
host port, whatever orders it ends or starts. A write that leaves RUN as the walker stands (0 when STOPPED, 1 when RUNNING or HALTED)
and carries no ABORT, or carries it while no order is in flight, changes those fields alone. A write of the low half, which holds every
field, acts as the whole write with the other half 0 (R158). -/
def Obligations.ControlWriteKeepsItsFields : Prop :=
  ∀ (w : ControlWord) (errs : List MemErr) (s : State), let v := w.value
    (∃ t, exec (.runSet w errs) s = .next t
      ∧ t.port = { s.port with control := ⟨true, v.getLsbD 3, v.getLsbD 4⟩ })
    ∧ (∃ t, exec (.runClear w errs) s = .next t
      ∧ t.port = { s.port with control := ⟨false, v.getLsbD 3, v.getLsbD 4⟩ })
    ∧ (∃ t, exec (.abort w errs) s = .next t
      ∧ t.port = { s.port with control := ⟨v.getLsbD 0, v.getLsbD 3, v.getLsbD 4⟩ })
    ∧ (∃ t, exec (.clearMode w errs) s = .next t
      ∧ t.port = { s.port with control := ⟨v.getLsbD 0, v.getLsbD 3, v.getLsbD 4⟩ })
    ∧ (∃ t, exec (.msgEn w errs) s = .next t
      ∧ t.port = { s.port with control := ⟨v.getLsbD 0, v.getLsbD 3, v.getLsbD 4⟩ })
    ∧ (v.getLsbD 0 = decide (s.walker.state ≠ .stopped) →
      let t : State := { s with
        errs := errs, port := { s.port with control := ⟨v.getLsbD 0, v.getLsbD 3, v.getLsbD 4⟩ } }
      (v.getLsbD 1 = false → exec (.clearMode w errs) s = .next t ∧ exec (.msgEn w errs) s = .next t)
      ∧ (s.NoOrder → exec (.abort w errs) s = .next t))
    ∧ ∀ x : BitVec 32, let full : ControlWord := .whole (x.setWidth 64)
      exec (.softReset (.low x)) s = exec (.softReset full) s ∧ exec (.runSet (.low x) errs) s = exec (.runSet full errs) s
        ∧ exec (.runClear (.low x) errs) s = exec (.runClear full errs) s ∧ exec (.abort (.low x) errs) s = exec (.abort full errs) s
        ∧ exec (.clearMode (.low x) errs) s = exec (.clearMode full errs) s ∧ exec (.msgEn (.low x) errs) s = exec (.msgEn full errs) s

/-- R160, R161, R162, R163, R165: RUN in each walker state. Set in STOPPED, it loads the cursor and makes an examination at once: on a FREE
record the walker stands RUNNING there with its poll timer started; on an offset that fails the checks (CHAIN_START left at 0) it is
HALTED. Written as 1 while RUNNING or HALTED it changes no walker state and does not reload the cursor. Cleared, it stops the walker when
no order is in flight, and otherwise leaves its state with the poll timer not running (the model's reading, log 25); cleared while STOPPED
it changes the kept fields alone. -/
def Obligations.RunWrittenInEachWalkerState : Prop :=
  ∀ (w : ControlWord) (errs : List MemErr) (s : State), let v := w.value
    v.getLsbD 1 = false →
    let kept (run : Bool) : HostPort := { s.port with control := ⟨run, v.getLsbD 3, v.getLsbD 4⟩ }
    (s.walker.state = .stopped → offsetPasses s.port.chainStart.toNat = true →
      Memory.readNat s.mem s.port.chainStart.toNat 4 = 0 →
      ∃ t, exec (.runSet w []) s = .next t
        ∧ Touches [.walker, .port, .mirror, .errs] s t ∧ t.port = kept true
        ∧ t.walker = { s.walker with
            state := .running, cursor := s.port.chainStart.toNat, parked := false,
            pollTimer := some (s.timeBase + s.port.poll.toNat) })
    ∧ (s.walker.state = .stopped → offsetPasses s.port.chainStart.toNat = false →
      ∃ t, exec (.runSet w []) s = .next t
        ∧ Touches [.walker, .port, .mirror, .errs, .alert, .messages] s t ∧ t.port = kept true
        ∧ t.walker = { s.walker with
            state := .halted, cursor := s.port.chainStart.toNat, parked := false, pollTimer := none,
            faultReason := .chainLink, faultOffset := s.port.chainStart.toNat }
        ∧ t.alert.pending = { s.alert.pending with fault := true })
    ∧ (s.walker.state ≠ .stopped → exec (.runSet w errs) s = .next { s with errs := errs, port := kept true })
    ∧ (s.walker.state = .stopped → exec (.runClear w errs) s = .next { s with errs := errs, port := kept false })
    ∧ (s.walker.state ≠ .stopped → ¬ s.NoOrder →
      exec (.runClear w errs) s
        = .next { s with errs := errs, port := kept false, walker := { s.walker with pollTimer := none } })
    ∧ (s.walker.state ≠ .stopped → s.NoOrder →
      ∃ t, exec (.runClear w errs) s = .next t ∧ Touches [.walker, .port, .mirror, .errs] s t ∧ t.port = kept false
        ∧ t.walker = { s.walker with state := .stopped, pollTimer := none })

/-- R141, R162, R168: ABORT with an ASSEMBLE in flight alone, RUN cleared by the same write. The order retires DONE with status ABORTED
and its results so far (all 0 in WAITING), a bound entry becomes CLOSED or OPEN, the deposit unit is IDLE and the walker STOPPED. -/
def Obligations.AbortEndsTheAssembleInFlight : Prop :=
  ∀ (w : ControlWord) (s : State) (o : Assembly), s.assembly = some o → s.service = none → w.value.getLsbD 0 = false →
    s.walker.state ≠ .stopped → o.record + 128 ≤ Config.memSize → Memory.readNat s.mem o.record 4 = 2 →
    ∃ t, exec (.abort w []) s = .next t
      ∧ Touches [.mem, .exposures, .mirror, .deposit, .walker, .alert, .messages, .port, .errs] s t
      ∧ t.deposit = .idle ∧ t.walker.state = .stopped ∧ t.walker.retired = (s.walker.retired + 1) % 2 ^ 32
      ∧ t.walker.lastRetired = o.record ∧ Memory.sameOutside s.mem t.mem o.record 128
      ∧ Memory.recordShows t.mem o.record .aborted (if s.deposit = .serving o then o.results.toList else []) s.timeBase
      ∧ (s.deposit = .waiting o → t.exposures = s.exposures)
      ∧ ∀ (p : Fin 4) (e : ExpEntry), s.deposit = .serving o → s.placeOf o.tag = some p → s.exposures[p] = some e →
          t.exposures = s.exposures.set p
            (some { e with state := if e.closedBy = e.openedBy then .closed else .opened })

/-- R10, R77, R124, R154, R162, R168: ABORT with a service order in flight alone, RUN cleared by the same write. The order retires DONE
with status ABORTED and its results so far; a LOAD_MAP whose load runs gives the map state back; banks, fields and cells stay. -/
def Obligations.AbortEndsTheServiceOrder : Prop :=
  ∀ (w : ControlWord) (s : State) (x : ServiceOrder), s.service = some x → s.deposit = .idle → w.value.getLsbD 0 = false →
    s.walker.state ≠ .stopped → x.record + 128 ≤ Config.memSize → Memory.readNat s.mem x.record 4 = 2 →
    ∃ t, exec (.abort w []) s = .next t
      ∧ Touches [.mem, .mirror, .loader, .service, .walker, .alert, .messages, .port, .errs] s t
      ∧ t.service = none ∧ t.walker.state = .stopped ∧ t.walker.retired = (s.walker.retired + 1) % 2 ^ 32
      ∧ t.walker.lastRetired = x.record ∧ Memory.sameOutside s.mem t.mem x.record 128
      ∧ Memory.recordShows t.mem x.record .aborted x.resultsSoFar s.timeBase
      ∧ t.loader = (match x with
          | .loadMap _ _ true => { s.loader with state := s.loader.enteredFrom, load := none }
          | _ => s.loader)

/-! ### The other registers and the aperture -/

/-- R158, R160: CHAIN_START is kept while the walker is STOPPED, whole or by halves, and ignored otherwise; POLL keeps bits 15:0 with 0
kept as 1, and a write to its high half changes nothing. A write to IDENT or CAUSE, or to a half of unused bits, changes nothing; a read of
a register other than ALERT returns its fields, eight bytes or the four of a half, and changes nothing else. An access to the high half of
ALERT, which has no field, writes nothing, returns zeros and acknowledges nothing (the model's reading, log 24). The register window takes
each register at its offset, whole or by either half, as the command of that register, and no other access. A register read as a HOST_READ
is the model's choice (log 17), and so is the row that a CONTROL write of the window is: SOFT_RESET, ABORT, RUN_SET or RUN_CLEAR, the first
that its fields make it, also where it changes CLEAR_MODE or MSG_EN alone (log 5). -/
def Obligations.RegisterReadsAndWrites : Prop :=
  ∀ (s : State) (idle : IdleWrite) (p : RegPart) (errs : List MemErr),
    let bytes (v : Nat) : List Byte := match p with
      | .whole => leBytes 8 v
      | .low => leBytes 4 (v % 2 ^ 32)
      | .high => leBytes 4 (v / 2 ^ 32)
    let answers (r : Reg) (v : Nat) : Prop :=
      exec (.hostRead (.register r p) errs) s = .next { s with errs := errs, readData := bytes v }
    (s.walker.state = .stopped → ∀ (v : BitVec 64) (w : BitVec 32),
      exec (.chainStart (.whole v)) s = .next { s with port := { s.port with chainStart := v.setWidth 36 } }
      ∧ exec (.chainStart (.low w)) s
        = .next { s with port := { s.port with chainStart := (s.port.chainStart.extractLsb' 32 4) ++ w } }
      ∧ exec (.chainStart (.high w)) s
        = .next { s with port := { s.port with
            chainStart := (w.setWidth 4) ++ (s.port.chainStart.setWidth 32 : BitVec 32) } })
      ∧ (s.walker.state ≠ .stopped → ∀ w : RegWrite, exec (.chainStart w) s = .next s)
      ∧ (∀ (v : BitVec 64) (w : BitVec 32),
        exec (.poll (.whole v)) s
          = .next { s with port := { s.port with poll := if v.setWidth 16 = 0#16 then 1 else v.setWidth 16 } }
        ∧ exec (.poll (.low w)) s
          = .next { s with port := { s.port with poll := if w.setWidth 16 = 0#16 then 1 else w.setWidth 16 } }
        ∧ exec (.poll (.high w)) s = .next s)
      ∧ exec (.registerWrite idle) s = .next s
      ∧ (∀ v : BitVec 32, exec (.alertWrite (.high v)) s = .next s)
      ∧ exec (.alertRead .high) s = .next { s with readData := [0, 0, 0, 0] }
      ∧ answers .ident (0x1A5D + 0x2416 * 2 ^ 16 + 1 * 2 ^ 32 + (match s.loader.state with
        | .absent => 0
        | .valid => 1
        | .loading => 2) * 2 ^ 40)
      ∧ answers .control ((if s.port.control.run then 1 else 0) + (if s.port.control.clearMode then 8 else 0)
        + (if s.port.control.msgEn then 16 else 0))
      ∧ answers .chainStart s.port.chainStart.toNat ∧ answers .poll s.port.poll.toNat ∧ answers .nudge 0
      ∧ answers .alertCfg (s.port.alertCfg.mark.toNat + s.port.alertCfg.quiet.toNat * 2 ^ 16
        + (if s.port.alertCfg.enables.fault then 2 ^ 32 else 0) + (if s.port.alertCfg.enables.receive then 2 ^ 33 else 0)
        + (if s.port.alertCfg.enables.mark then 2 ^ 34 else 0) + (if s.port.alertCfg.enables.quiet then 2 ^ 35 else 0))
      ∧ answers .cause ((if s.alert.pending.fault then 1 else if s.alert.pending.receive then 2
        else if s.alert.pending.mark then 3 else if s.alert.pending.quiet then 4 else 0)
        + (match s.walker.state with
          | .stopped => 0
          | .running => 1
          | .halted => 2) * 2 ^ 8 + s.walker.retired * 2 ^ 32)
      ∧ (∀ x ∈ [(Reg.ident, 0x00), (.control, 0x08), (.chainStart, 0x10), (.poll, 0x18), (.nudge, 0x20), (.alertCfg, 0x28),
          (.alert, 0x30), (.cause, 0x38)],
        windowPart x.2 8 = some (x.1, .whole) ∧ windowPart x.2 4 = some (x.1, .low) ∧ windowPart (x.2 + 4) 4 = some (x.1, .high))
      ∧ (∀ off len : Nat, (len = 8 ∧ off % 8 = 0 ∧ off < 64 ∨ len = 4 ∧ off % 4 = 0 ∧ off < 64) ∨ windowPart off len = none)
      ∧ (∀ (off len : Nat) (r : Reg) (q : RegPart), windowPart off len = some (r, q) →
        windowRead off len errs = some (if r = .alert then .alertRead q else .hostRead (.register r q) errs))
      ∧ ∀ (v : BitVec 64) (h : BitVec 32),
        windowWrite 0x00 8 v errs = some (.registerWrite (.ident (.whole v)))
        ∧ windowWrite 0x00 4 (h.setWidth 64) errs = some (.registerWrite (.ident (.low h)))
        ∧ windowWrite 0x04 4 (h.setWidth 64) errs = some (.registerWrite (.ident (.high h)))
        ∧ windowWrite 0x08 8 v errs = some (if v.getLsbD 2 then .softReset (.whole v) else if v.getLsbD 1 then .abort (.whole v) errs
          else if v.getLsbD 0 then .runSet (.whole v) errs else .runClear (.whole v) errs)
        ∧ windowWrite 0x08 4 (h.setWidth 64) errs = some (if h.getLsbD 2 then .softReset (.low h)
          else if h.getLsbD 1 then .abort (.low h) errs else if h.getLsbD 0 then .runSet (.low h) errs else .runClear (.low h) errs)
        ∧ windowWrite 0x0C 4 (h.setWidth 64) errs = some (.registerWrite (.controlHigh h))
        ∧ windowWrite 0x10 8 v errs = some (.chainStart (.whole v))
        ∧ windowWrite 0x10 4 (h.setWidth 64) errs = some (.chainStart (.low h))
        ∧ windowWrite 0x14 4 (h.setWidth 64) errs = some (.chainStart (.high h))
        ∧ windowWrite 0x18 8 v errs = some (.poll (.whole v)) ∧ windowWrite 0x18 4 (h.setWidth 64) errs = some (.poll (.low h))
        ∧ windowWrite 0x1C 4 (h.setWidth 64) errs = some (.registerWrite (.pollHigh h))
        ∧ windowWrite 0x20 8 v errs = some (.nudge (.whole v) errs)
        ∧ windowWrite 0x20 4 (h.setWidth 64) errs = some (.nudge (.low h) errs)
        ∧ windowWrite 0x24 4 (h.setWidth 64) errs = some (.nudge (.high h) errs)
        ∧ windowWrite 0x28 8 v errs = some (.alertCfg (.whole v))
        ∧ windowWrite 0x28 4 (h.setWidth 64) errs = some (.alertCfg (.low h))
        ∧ windowWrite 0x2C 4 (h.setWidth 64) errs = some (.alertCfg (.high h))
        ∧ windowWrite 0x30 8 v errs = some (.alertWrite (.whole v))
        ∧ windowWrite 0x30 4 (h.setWidth 64) errs = some (.alertWrite (.low h))
        ∧ windowWrite 0x34 4 (h.setWidth 64) errs = some (.registerWrite (.alertHigh h))
        ∧ windowWrite 0x38 8 v errs = some (.registerWrite (.cause (.whole v)))
        ∧ windowWrite 0x38 4 (h.setWidth 64) errs = some (.registerWrite (.cause (.low h)))
        ∧ windowWrite 0x3C 4 (h.setWidth 64) errs = some (.registerWrite (.cause (.high h)))

/-- R157, R170, R173: host accesses through the aperture. A write request that touches any byte of the progress block, of the tile pool or
above it, or of the region of a DEFINED field is dropped whole, counted, and raises FAULT; any other lands whole and changes nothing else;
while a DEFINE_BANK or a begun load of an image in board memory is in flight, board memory as it stood is kept for the reads already made
(R8, R74; the form is the model's choice, log 48). A read is never refused. It returns each byte as memory holds it, 0 above the tile pool.
One that meets memory errors adds 1 to the count of host reads, however many it meets (the model's reading, log 16), and raises FAULT; the
bytes that met one are free values (log 3), and so are those of a read beyond the aperture (log 23). -/
def Obligations.HostAccessThroughTheAperture : Prop :=
  ∀ (off : BitVec 34) (bytes : List Byte) (len : Nat) (errs : List MemErr) (s : State),
    let guarded : Prop := ∃ a, off.toNat ≤ a ∧ a < off.toNat + bytes.length
      ∧ (a < 0x1000 ∨ 0x3D8000000 ≤ a ∨ ∃ (f : Fin 4) (fd : Field), s.fields[f] = some fd ∧ fd.base ≤ a
          ∧ a < fd.base + fd.cols * fd.rows * 1572864)
    let met (a n : Nat) : Prop := ∃ e ∈ errs, e.by_ = .host ∧ a ≤ e.at_ ∧ e.at_ < a + n
    let reads : Bool := match s.service with
      | some (.defineBank _ _ _ _) => true
      | some (.loadMap _ (some _) true) => true
      | _ => false
    (guarded → ∃ t, exec (.hostWrite off bytes) s = .next t
      ∧ Touches [.port, .mirror, .alert, .messages] s t
      ∧ t.port = { s.port with guardDrops := min (s.port.guardDrops + 1) 4294967295 }
      ∧ t.alert.pending = { s.alert.pending with fault := true })
    ∧ (¬ guarded → ∃ t, exec (.hostWrite off bytes) s = .next t
      ∧ Touches [.mem, .past] s t ∧ Memory.sameOutside s.mem t.mem off.toNat bytes.length
      ∧ t.past = (if reads ∧ t.mem ≠ s.mem then s.past ++ [s.mem] else s.past)
      ∧ ∀ (i : Nat) (b : Byte), bytes[i]? = some b → Memory.read t.mem (off.toNat + i) = b)
    ∧ ∃ t, exec (.hostRead (.aperture off len) errs) s = .next t
      ∧ t.readData.length = len
      ∧ (∀ i < len, off.toNat + i < 2 ^ 34 → ¬ met (off.toNat + i) 1 → t.readData[i]?
          = some (if 0x3FB000000 ≤ off.toNat + i then 0 else Memory.read s.mem (off.toNat + i)))
      ∧ (¬ met off.toNat len → Touches [.errs, .readData, .freeTaken] s t
        ∧ (off.toNat + len ≤ 2 ^ 34 → t.freeTaken = s.freeTaken))
      ∧ (met off.toNat len → Touches [.errs, .readData, .freeTaken, .alert, .mirror, .messages] s t
        ∧ t.alert.pending = { s.alert.pending with fault := true }
        ∧ t.alert.memErrors = s.alert.memErrors.set 5 (min (s.alert.memErrors[5] + 1) 4294967295))

/-- R66, R169: MIRROR_WRITE_LANDS lands the oldest waiting write of the field named, before or after writes of other fields; the write of
the free count waits for the segment reports queued before it; with no such write waiting nothing changes. -/
def Obligations.MirrorWritesLandFieldByField : Prop :=
  ∀ (off : BitVec 12) (s : State),
    (∀ (pre post : List MirrorWrite) (w : MirrorWrite), s.mirror = pre ++ w :: post → w.off = off.toNat →
      (∀ x ∈ pre, x.off ≠ off.toNat) → (off = 0x024 → ∀ x ∈ pre, ¬ (0x200 ≤ x.off ∧ x.off < 0x600)) →
      exec (.mirrorWriteLands off) s
        = .next { s with mem := Memory.writeBytes s.mem off.toNat w.bytes, mirror := pre ++ post })
    ∧ ((∀ x ∈ s.mirror, x.off ≠ off.toNat) → exec (.mirrorWriteLands off) s = .next s)
    ∧ (∀ (pre post : List MirrorWrite) (r : MirrorWrite), off = 0x024 → s.mirror = pre ++ r :: post →
      (0x200 ≤ r.off ∧ r.off < 0x600) → (∀ x ∈ pre, x.off ≠ 0x024) → exec (.mirrorWriteLands off) s = .next s)

/-! ### Alerts -/

/-- R176, R177: a write to ALERT. In CLEAR_MODE 0 the causes written as 1 leave the pending set, MARK or QUIET among them sets the
acknowledgment count to 0, and a message is sent again when an enabled cause stays pending and MSG_EN is set. A write of no cause, and
any write in CLEAR_MODE 1, changes nothing. A read returns the pending set. In CLEAR_MODE 0 it changes nothing else; in CLEAR_MODE 1 a
read that returns the set empties it, and sets the count to 0 when it returned MARK or QUIET; no message is sent. A write that changes
CLEAR_MODE changes nothing at the alert unit. -/
def Obligations.AlertAcknowledgments : Prop :=
  ∀ (v : BitVec 32) (s : State),
    let bits : Nat := (if s.alert.pending.fault then 1 else 0) + (if s.alert.pending.receive then 2 else 0)
      + (if s.alert.pending.mark then 4 else 0) + (if s.alert.pending.quiet then 8 else 0)
    let u : AlertUnit := { s.alert with
      pending := ⟨false, false, false, false⟩,
      ackCount := if s.alert.pending.mark || s.alert.pending.quiet then 0 else s.alert.ackCount }
    let left : Causes := ⟨s.alert.pending.fault && !v.getLsbD 0, s.alert.pending.receive && !v.getLsbD 1,
      s.alert.pending.mark && !v.getLsbD 2, s.alert.pending.quiet && !v.getLsbD 3⟩
    let again : Bool := s.port.control.msgEn
      && (left.fault && s.port.alertCfg.enables.fault || left.receive && s.port.alertCfg.enables.receive
        || left.mark && s.port.alertCfg.enables.mark || left.quiet && s.port.alertCfg.enables.quiet)
    (s.port.control.clearMode = true ∨ v.setWidth 4 = 0#4 → exec (.alertWrite (.low v)) s = .next s)
    ∧ (s.port.control.clearMode = false → v.setWidth 4 ≠ 0#4 → exec (.alertWrite (.low v)) s = .next { s with
        alert := { s.alert with
          pending := left, ackCount := if v.getLsbD 2 || v.getLsbD 3 then 0 else s.alert.ackCount },
        messages := if again then s.messages + 1 else s.messages })
    ∧ (∀ w : BitVec 64, exec (.alertWrite (.whole w)) s = exec (.alertWrite (.low (w.setWidth 32))) s)
    ∧ (s.port.control.clearMode = false →
      exec (.alertRead .whole) s = .next { s with readData := leBytes 8 bits }
      ∧ exec (.alertRead .low) s = .next { s with readData := leBytes 4 bits })
    ∧ (s.port.control.clearMode = true →
      exec (.alertRead .whole) s = .next { s with readData := leBytes 8 bits, alert := u }
      ∧ exec (.alertRead .low) s = .next { s with readData := leBytes 4 bits, alert := u })
    ∧ ∀ (x : ControlWord) (errs : List MemErr), let c := x.value
      c.getLsbD 0 = decide (s.walker.state ≠ .stopped) → c.getLsbD 1 = false →
      exec (.clearMode x errs) s = .next { s with
        errs := errs, port := { s.port with control := ⟨c.getLsbD 0, c.getLsbD 3, c.getLsbD 4⟩ } }

/-- R174, R175, R177: a write of ALERT_CFG, whole or by halves, keeps the fields it covers; when it covers the mark, MARK is raised if the
mark is above 0 and at or below the count; when it covers the quiet interval and writes 0, the quiet timer stops; else the timer keeps the
expiry it had. The message of a MARK so raised goes by the enables in force after the write (the model's choice for a whole write, log 38;
a half write acts on its half's fields alone, log 24). QUIET_TIMER_EXPIRY: a timer that has reached its expiry stops, and raises QUIET when
the count is at least 1. -/
def Obligations.AlertCfgWriteAndQuietExpiry : Prop :=
  ∀ s : State,
    let writes (w : RegWrite) (low : BitVec 32) (enables : Causes) : Prop := ∃ t, exec (.alertCfg w) s = .next t
      ∧ Touches [.port, .alert, .messages] s t
      ∧ t.port = { s.port with alertCfg := ⟨low.setWidth 8, low.extractLsb' 16 16, enables⟩ }
      ∧ t.alert = { s.alert with
          pending := if 0 < (low.setWidth 8).toNat ∧ (low.setWidth 8).toNat ≤ s.alert.ackCount
            then { s.alert.pending with mark := true } else s.alert.pending,
          quietTimer := if low.extractLsb' 16 16 = 0#16 then none else s.alert.quietTimer }
      ∧ t.messages = if (0 < (low.setWidth 8).toNat ∧ (low.setWidth 8).toNat ≤ s.alert.ackCount)
          ∧ s.port.control.msgEn = true ∧ enables.mark = true ∧ s.alert.pending = ⟨false, false, false, false⟩
        then s.messages + 1 else s.messages
    (∀ v : BitVec 64, writes (.whole v) (v.setWidth 32) ⟨v.getLsbD 32, v.getLsbD 33, v.getLsbD 34, v.getLsbD 35⟩)
    ∧ (∀ w : BitVec 32, writes (.low w) w s.port.alertCfg.enables)
    ∧ (∀ w : BitVec 32, exec (.alertCfg (.high w)) s = .next { s with port := { s.port with
        alertCfg := { s.port.alertCfg with enables := ⟨w.getLsbD 0, w.getLsbD 1, w.getLsbD 2, w.getLsbD 3⟩ } } })
    ∧ (∀ q, s.alert.quietTimer = some q → q ≤ s.timeBase → ∃ t, exec .quietTimerExpiry s = .next t
      ∧ Touches [.alert, .messages] s t
      ∧ t.alert = { s.alert with
          quietTimer := none,
          pending := if 1 ≤ s.alert.ackCount then { s.alert.pending with quiet := true } else s.alert.pending })
    ∧ ((∀ q, s.alert.quietTimer = some q → s.timeBase < q) → exec .quietTimerExpiry s = .next s)

/-- R172, R174, R175, R177: raising a cause adds it to the pending set, and sends a message exactly when the cause was not pending, the
set was empty, the cause is enabled and MSG_EN is set. A reported retirement adds 1 to the acknowledgment count, raises MARK when the
mark is above 0 and reached, and starts the quiet timer afresh, or stops it when the interval is 0. -/
def Obligations.RaiseAndRetirementAtTheAlertUnit : Prop :=
  ∀ s : State,
    (∀ c : Cause, s.raise c = { s with
      alert := { s.alert with pending := match c with
        | .fault => { s.alert.pending with fault := true }
        | .receive => { s.alert.pending with receive := true }
        | .mark => { s.alert.pending with mark := true }
        | .quiet => { s.alert.pending with quiet := true } },
      messages := if s.port.control.msgEn ∧ s.port.alertCfg.enables.has c ∧ s.alert.pending = ⟨false, false, false, false⟩
        then s.messages + 1 else s.messages })
    ∧ Touches [.alert, .messages] s s.alertRetirement
    ∧ s.alertRetirement.alert = (let n := min (s.alert.ackCount + 1) 4294967295
      { s.alert with
        ackCount := n
        pending := if 0 < s.port.alertCfg.mark.toNat ∧ s.port.alertCfg.mark.toNat ≤ n
          then { s.alert.pending with mark := true } else s.alert.pending
        quietTimer := if s.port.alertCfg.quiet = 0#16 then none
          else some (s.timeBase + s.port.alertCfg.quiet.toNat * 10) })

/-! ### The order walker -/

/-- R168, R174, R175: a retirement. A record still TAKEN shows results, status, retire time and DONE or FAILED, with the rest of the record
and of memory unchanged, the retired count gains 1, and the alert unit is told of one retirement; a record not TAKEN is left alone, with
ORPHANED and FAULT; a reread that meets memory errors leaves it alone too, with RECORD_READ, FAULT and one error counted, however many the
read meets (the model's reading, log 16). -/
def Obligations.RetirementOfAnOrder : Prop :=
  ∀ (s : State) (off : Nat) (st : Status) (rs : List Nat), off + 128 ≤ Config.memSize →
    let t := s.retire off st rs
    (s.readErr .reread off 4 = false → Memory.readNat s.mem off 4 = 2 →
      Touches [.mem, .walker, .mirror, .alert, .messages] s t
      ∧ Memory.recordShows t.mem off st rs s.timeBase
      ∧ (∀ a, a < off ∨ (off + 4 ≤ a ∧ a < off + 6) ∨ (off + 8 ≤ a ∧ a < off + 32) ∨ (off + 40 ≤ a ∧ a < off + 84)
          ∨ off + 128 ≤ a → Memory.read t.mem a = Memory.read s.mem a)
      ∧ t.walker = { s.walker with retired := (s.walker.retired + 1) % 2 ^ 32, lastRetired := off }
      ∧ t.alert = s.alertRetirement.alert ∧ t.messages = s.alertRetirement.messages)
    ∧ (s.readErr .reread off 4 = false → Memory.readNat s.mem off 4 ≠ 2 →
      Touches [.walker, .mirror, .alert, .messages] s t
      ∧ t.walker = { s.walker with faultReason := .orphaned, faultOffset := off }
      ∧ t.alert = { s.alert with pending := { s.alert.pending with fault := true } })
    ∧ (s.readErr .reread off 4 = true →
      Touches [.walker, .mirror, .alert, .messages] s t
      ∧ t.walker = { s.walker with faultReason := .recordRead, faultOffset := off }
      ∧ t.alert = { s.alert with
          pending := { s.alert.pending with fault := true },
          memErrors := s.alert.memErrors.set 3 (min (s.alert.memErrors[3] + 1) 4294967295) })

/-- R161, R163, R164, R166: NUDGE and an expiry of the poll timer make an examination of a RUNNING walker with RUN set. Over a FREE
record, over a POSTED record that is held, and for a parked walker whose next field is still 0, it starts the poll timer and changes
nothing else. A walker that makes no examination, and a timer not yet expired, are left as they are. A POSTED order is held exactly as
R166's table says of the numbers the hold test reads of the record; a kind that is none of the seven is held as any other kind is (the
model's reading, log 21). -/
def Obligations.ExaminationThatTakesNothing : Prop :=
  ∀ (s : State) (w : RegWrite) (errs : List MemErr) (off : Nat) (h : OrderHead),
    let t : State := { s with
      errs := [], walker := { s.walker with pollTimer := some (s.timeBase + s.port.poll.toNat) } }
    let kind := Memory.readNat s.mem (off + 4) 1
    let serviceNames (n : Nat) : Prop :=
      (∃ o, s.service = some (.finalize o) ∧ o.field.val = n)
        ∨ ∃ rec f r k, s.service = some (.clearField rec f r k) ∧ f.val = n
    (s.Examines →
      ((s.walker.parked = false ∧ offsetPasses s.walker.cursor = true
          ∧ (Memory.readNat s.mem s.walker.cursor 4 = 0
            ∨ Memory.readNat s.mem s.walker.cursor 4 = 1 ∧ s.held (readHead s.mem s.walker.cursor) = true))
        ∨ (s.walker.parked = true ∧ Memory.readNat s.mem (s.walker.cursor + 8) 8 = 0)) →
      exec (.nudge w []) s = .next t
      ∧ ∀ q, s.walker.pollTimer = some q → q ≤ s.timeBase → exec (.pollTimerExpiry []) s = .next t)
    ∧ (¬ s.Examines → exec (.nudge w errs) s = .next { s with errs := errs })
    ∧ ((∀ q, s.walker.pollTimer = some q → s.timeBase < q) →
      exec (.pollTimerExpiry errs) s = .next { s with errs := errs })
    ∧ (readHead s.mem off).kind = kind
    ∧ ((readHead s.mem off).fence = true ↔ Memory.readNat s.mem (off + 5) 1 % 2 = 1)
    ∧ (readHead s.mem off).field = Memory.readNat s.mem (off + if kind = 1 then 42 else 40) 1
    ∧ (readHead s.mem off).bank = Memory.readNat s.mem (off + if kind = 1 then 43 else 40) 1
    ∧ (readHead s.mem off).tag.toNat = Memory.readNat s.mem (off + 40) 2
    ∧ (s.held h = true ↔
      (h.kind = 1 ∧ s.deposit ≠ .idle) ∨ (h.kind ≠ 1 ∧ s.service ≠ none) ∨ (h.kind = 1 ∧ serviceNames h.field)
        ∨ ((h.kind = 2 ∨ h.kind = 3 ∨ h.kind = 4) ∧ ∃ o, s.assembly = some o ∧ o.field.val = h.field)
        ∨ (h.kind = 5 ∧ ∃ o, s.assembly = some o ∧ o.bank.val = h.bank)
        ∨ (h.kind = 7 ∧ s.deposit ≠ .idle)
        ∨ (h.kind = 6 ∧ ∃ o, s.assembly = some o ∧ o.tag = h.tag)
        ∨ (h.fence = true ∧ ¬ s.NoOrder))

/-- R164, R165: the chain faults of an examination. The walker enters HALTED with its cursor kept, the fault record takes the reason and
the offset concerned, FAULT is raised, and the poll timer does not run. That the offset of a next-field read that meets an error is the
record's, the cursor, is the model's reading (log 22), and so is that one read counts one error (log 16). -/
def Obligations.ChainFaultsHaltTheWalker : Prop :=
  ∀ (s : State) (w : RegWrite) (errs : List MemErr), s.Examines →
    let c := s.walker.cursor
    let met (by_ : ReadBy) (a n : Nat) : Prop := ∃ e ∈ errs, e.by_ = by_ ∧ a ≤ e.at_ ∧ e.at_ < a + n
    let halts (why : FaultReason) (off : Nat) : Prop := ∃ t, exec (.nudge w errs) s = .next t
      ∧ Touches [.walker, .mirror, .alert, .messages, .errs] s t
      ∧ t.walker = { s.walker with state := .halted, pollTimer := none, faultReason := why, faultOffset := off }
      ∧ t.alert.pending = { s.alert.pending with fault := true }
      ∧ t.alert.memErrors = (if why = .recordRead
          then s.alert.memErrors.set 3 (min (s.alert.memErrors[3] + 1) 4294967295) else s.alert.memErrors)
    (s.walker.parked = false → offsetPasses c = false → halts .chainLink c)
    ∧ (s.walker.parked = false → offsetPasses c = true → met .record c 128 → halts .recordRead c)
    ∧ (s.walker.parked = false → offsetPasses c = true → ¬ met .record c 128 → 2 ≤ Memory.readNat s.mem c 4 →
        halts .chainState c)
    ∧ (s.walker.parked = true → met .nextField (c + 8) 8 → halts .recordRead c)
    ∧ (s.walker.parked = true → ¬ met .nextField (c + 8) 8 → Memory.readNat s.mem (c + 8) 8 ≠ 0 →
        offsetPasses (Memory.readNat s.mem (c + 8) 8) = false → halts .chainLink (Memory.readNat s.mem (c + 8) 8))

/-- R163, R164, R167, R168, R173: an order that fails before its unit's checks. One of an unknown kind retires FAILED with BAD_KIND in the
examination that takes it; one of the seven kinds whose take-up read, of bytes 40 to 83 of the record for every kind (the model's choice,
log 45), meets memory errors retires FAILED with MEMORY_FAULT, one error counted
under order records, however many the read meets (the model's reading, log 16), and FAULT raised. Nothing outside the record changes in
memory, and the walker is parked on it. A DEFINE_BANK of bank k that fails so leaves entry k EMPTY (the model's reading, log 43). -/
def Obligations.UnknownKindAndUnreadableOrderFail : Prop :=
  ∀ (s : State) (kind : Nat), s.Presents kind →
    let c := s.walker.cursor
    ((kind = 0 ∨ 7 < kind) → s.FailsTakeUp .badKind)
    ∧ ∀ (w : RegWrite) (errs : List MemErr), 1 ≤ kind → kind ≤ 7 → (∀ e ∈ errs, e.by_ = .takeUp) →
      (∃ e ∈ errs, c + 40 ≤ e.at_ ∧ e.at_ < c + 84) →
      ∃ t, exec (.nudge w errs) s = .next t
        ∧ Touches (.mem :: .past :: .walker :: .mirror :: .alert :: .messages :: .errs :: if kind = 5 then [.banks] else []) s t
        ∧ s.KeepsPast t
        ∧ (∀ k : Fin 8, kind = 5 → Memory.readNat s.mem (c + 40) 1 = k.val → t.banks = s.banks.set k none)
        ∧ (7 < Memory.readNat s.mem (c + 40) 1 → t.banks = s.banks)
        ∧ Memory.recordShows t.mem c .memoryFault [] s.timeBase
        ∧ Memory.readNat t.mem (c + 24) 8 = s.timeBase % 2 ^ 64 ∧ Memory.sameOutside s.mem t.mem c 128
        ∧ t.walker = { s.parkedWalker with retired := (s.walker.retired + 1) % 2 ^ 32, lastRetired := c }
        ∧ t.alert.pending.fault = true ∧ t.alert.ackCount = min (s.alert.ackCount + 1) 4294967295
        ∧ t.alert.memErrors = s.alert.memErrors.set 3 (min (s.alert.memErrors[3] + 1) 4294967295)

/-- R106, R107, R108, R163, R164, R167, R168: a POSTED DEFINE_FIELD makes its checks in their order and fails with the status of the first
that fails, nothing but its record changed; one that passes them undefines the field (0 by 0) or defines it with every cell VACANT, and
retires DONE with status OK. That the order is carried out and retired within the examination that takes it is the model's reading (log 20,
spec/95_what_each_step_holds.md). -/
def Obligations.DefineFieldOrderRunsWhole : Prop :=
  ∀ s : State, s.Presents 4 →
    let c := s.walker.cursor
    let number := Memory.readNat s.mem (c + 40) 1
    let cols := Memory.readNat s.mem (c + 41) 1
    let rows := Memory.readNat s.mem (c + 42) 1
    let base := Memory.readNat s.mem (c + 56) 8
    let size := cols * rows * 1572864
    let sized : Prop := (cols = 0 ∧ rows = 0) ∨ ((1 ≤ cols ∧ cols ≤ 40) ∧ 1 ≤ rows ∧ rows ≤ 40)
    let fits : Prop := base % 4096 = 0 ∧ 0x1000 ≤ base ∧ base + size ≤ 0x3D8000000
    (3 < number → s.FailsTakeUp .badField)
    ∧ ∀ f : Fin 4, number = f.val →
      let vacant : Prop := ∀ g, s.fields[f] = some g → ∀ d ∈ g.cells, d.state = .vacant
      let apart : Prop := ∀ (i : Fin 4) (g : Field), i ≠ f → s.fields[i] = some g →
        ¬ Shares base size g.base (g.cols * g.rows * 1572864)
      let carriedOut (x : Option Field) : Prop := ∃ t, s.TakesAndRetires t .ok [] [.fields] ∧ t.fields = s.fields.set f x
      (¬ sized → s.FailsTakeUp .badField)
      ∧ (sized → ¬ vacant → s.FailsTakeUp .fieldBusy)
      ∧ (sized → vacant → cols = 0 → carriedOut none)
      ∧ (sized → vacant → 0 < cols → ¬ fits → s.FailsTakeUp .regionRange)
      ∧ (sized → vacant → 0 < cols → fits → ¬ apart → s.FailsTakeUp .regionOverlap)
      ∧ (sized → vacant → 0 < cols → fits → apart → carriedOut (some
          { ou := Memory.readInt s.mem (c + 44) 4, ov := Memory.readInt s.mem (c + 48) 4, cols := cols, rows := rows,
            base := base, cells := List.replicate (cols * rows) ⟨.vacant, 0, [], false, none⟩ }))

/-- R92, R94, R95, R127, R128, R129: a POSTED ASSEMBLE makes its checks in their order and fails with the status of the first that fails,
nothing but its record changed. One that passes them is held as the record, the field and the map say: in WAITING when no entry for its tag
exists, and otherwise bound to the entry, which becomes ASSEMBLING. At binding every slot found here agrees with the map copy and has a row
ready or is not COMPLETE, and no segment is settled: the unit is SERVING, and in TILE_COMPLETE the lowest segment with a COMPLETE slot is
current. A CLOSED entry without slots has every UNSETTLED segment settled MISSING, and the order ends at once, EMPTY, with its entry
removed. -/
def Obligations.AssembleTakeUp : Prop :=
  ∀ s : State, s.Presents 1 →
    let c := s.walker.cursor
    let tag : Tag := BitVec.ofNat 16 (Memory.readNat s.mem (c + 40) 2)
    let weight := Memory.readNat s.mem (c + 45) 1
    let deadline := min (Memory.readNat s.mem (c + 48) 4) 600000
    let cp := Memory.readInt s.mem (c + 52) 4
    let sp := Memory.readInt s.mem (c + 56) 4
    let pu := Memory.readInt s.mem (c + 64) 8
    let pv := Memory.readInt s.mem (c + 72) 8
    ((∀ f : Fin 4, Memory.readNat s.mem (c + 42) 1 = f.val → s.fields[f] = none) → s.FailsTakeUp .badField)
    ∧ ∀ (f : Fin 4) (fd : Field), Memory.readNat s.mem (c + 42) 1 = f.val → s.fields[f] = some fd →
      ((∀ b : Fin 8, Memory.readNat s.mem (c + 43) 1 = b.val → s.banks[b] = none) → s.FailsTakeUp .badBank)
      ∧ ∀ (b : Fin 8) (bank : Bank), Memory.readNat s.mem (c + 43) 1 = b.val → s.banks[b] = some bank →
        (s.loader.inUse = none → s.FailsTakeUp .noMap)
        ∧ ∀ m : FocalMap, s.loader.inUse = some m →
          let placed (e : SegEntry) : Placement :=
            { A := roundDiv (cp * e.a - sp * e.c) (2 ^ 30), B := roundDiv (cp * e.b - sp * e.d) (2 ^ 30),
              Dc := roundDiv (sp * e.a + cp * e.c) (2 ^ 30), E := roundDiv (sp * e.b + cp * e.d) (2 ^ 30),
              Cu := roundDiv (cp * e.e - sp * e.f) (2 ^ 30) + pu - fd.ou * 2 ^ 30,
              Cv := roundDiv (sp * e.e + cp * e.f) (2 ^ 30) + pv - fd.ov * 2 ^ 30 }
          let inGeneralRegion (off n : Nat) : Prop := 0x1000 ≤ off ∧ off + n ≤ 0x3D8000000
          let geometry : Prop := ∀ (seg : SegNo) (e : SegEntry), m.entries[seg] = some e →
            let a := bank.amps[seg]
            (a.mode = .overscan → a.skip + a.n ≤ e.overscan)
              ∧ (a.flat ≠ 0 → inGeneralRegion a.flat (e.image * e.rows * 2))
              ∧ (a.mode = .plane → inGeneralRegion a.bias (e.image * e.rows * 2))
              ∧ ∀ d ∈ bank.defects, d.seg = seg.val → d.lastCol < e.image ∧ d.lastRow < e.rows
          let range : Prop := (pu.natAbs < 2 ^ 61 ∧ pv.natAbs < 2 ^ 61)
            ∧ ∀ (seg : SegNo) (e : SegEntry), m.entries[seg] = some e →
              ((placed e).A.natAbs < 2 ^ 31 ∧ (placed e).B.natAbs < 2 ^ 31)
                ∧ (placed e).Dc.natAbs < 2 ^ 31 ∧ (placed e).E.natAbs < 2 ^ 31
          let holds (o : Assembly) (current : Option SegNo) : Prop :=
            (∀ seg : SegNo, o.place[seg] = (m.entries[seg]).map placed)
              ∧ o = { record := c, tag := tag, field := f, bank := b,
                      tileComplete := decide (Memory.readNat s.mem (c + 44) 1 = 1),
                      weight := if weight = 0 then 1 else weight, map := m.entries, place := o.place, ou := fd.ou, ov := fd.ov,
                      width := 256 * fd.cols, height := 256 * fd.rows, deadline := deadline,
                      expiry := if deadline = 0 then none else some (s.timeBase + deadline * 1000),
                      deadlinePassed := false, turn := 0, current := current, draining := [],
                      results := ⟨0, 0, 0, 0, 0, 0, 0, 0, 0, 0, 0⟩, made := false }
          (¬ geometry → s.FailsTakeUp .bankGeometry)
          ∧ (geometry → ¬ range → s.FailsTakeUp .placementRange)
          ∧ (geometry → range → s.placeOf tag = none →
            ∃ t o, s.TakesInto t [.deposit] ∧ holds o none ∧ t.deposit = .waiting o)
          ∧ ∀ (p : Fin 4) (x : ExpEntry), geometry → range → s.placeOf tag = some p → s.exposures[p] = some x →
            let awaited (seg : SegNo) : Prop := (m.entries[seg]).isSome = true ∧ x.outcomes[seg] = .unsettled
            let tile (seg : SegNo) : Prop := awaited seg ∧ s.slotIn tag seg [.complete] ≠ none
            (x.state = .assembled → s.FailsTakeUp .alreadyAssembled)
            ∧ ((x.state = .opened ∨ x.state = .closed) → (∃ seg, awaited seg) →
              (x.state = .closed → ∀ seg, awaited seg → s.slotOf tag seg ≠ none) →
              (∀ (n : SlotNo) (sl : Slot) (e : SegEntry), s.slots[n] = some sl → sl.tag = tag → awaited sl.seg →
                m.entries[sl.seg] = some e → (sl.rowLen = e.rowLen ∧ sl.mapRows = e.rows)
                  ∧ (sl.state = .complete → ∃ q ∈ sl.rows, sl.cursor ≤ q)) →
              ∃ t o current, s.TakesInto t [.deposit, .exposures] ∧ holds o current ∧ t.deposit = .serving o
                ∧ t.exposures = s.exposures.set p (some { x with state := .assembling })
                ∧ (current = none ↔ Memory.readNat s.mem (c + 44) 1 ≠ 1 ∨ ∀ seg, ¬ tile seg)
                ∧ ∀ seg, current = some seg → tile seg ∧ ∀ g < seg, ¬ tile g)
            ∧ (x.state = .closed → x.held = 0 → (∀ (n : SlotNo) (sl : Slot), s.slots[n] = some sl → sl.tag ≠ tag) →
              ∃ t, s.TakesAndRetires t .empty
                  [0, (List.finRange 64).countP fun seg => (m.entries[seg]).isSome && decide (x.outcomes[seg] = .unsettled)]
                  [.exposures]
                ∧ t.exposures = s.exposures.set p none)

/-- R56, R66, R67, R163, R164, R167, R168: a POSTED DISCARD_EXPOSURE of T. Without an entry for T it fails with UNKNOWN_EXPOSURE. Otherwise,
with the table and the pool agreeing, every slot naming T is FREE with its report waiting, the entry is gone, every link whose current
exposure was T has T as its refused marker, and the order retires OK with the number of slots freed. That it is carried out and retired
within the examination that takes it is the model's reading (log 20); the order in which slots are freed and the removal of an ASSEMBLED
entry at its last freed slot are the model's choices (log 35, 36) and show in no clause. -/
def Obligations.DiscardExposureOrder : Prop :=
  ∀ s : State, s.Presents 6 →
    let tag : Tag := BitVec.ofNat 16 (Memory.readNat s.mem (s.walker.cursor + 40) 2)
    (s.placeOf tag = none → s.FailsTakeUp .unknownExposure)
    ∧ ∀ (p : Fin 4) (e : ExpEntry), s.PoolOk → s.placeOf tag = some p → s.exposures[p] = some e →
      ∃ t, s.TakesAndRetires t .ok [s.slotsNaming tag] [.links, .exposures, .slots]
        ∧ t.exposures = s.exposures.set p none
        ∧ (∀ (n : SlotNo), t.slots[n] = none ∨ ∃ sl, t.slots[n] = some sl ∧ sl.tag ≠ tag)
        ∧ (∀ (n : SlotNo) (sl : Slot), s.slots[n] = some sl →
          if sl.tag = tag then ∃ w ∈ t.mirror, w.off = 0x200 + 16 * sl.seg.val ∧ w.bytes = reportBytes .discard sl
          else t.slots[n] = some sl)
        ∧ ∀ l : LinkNo, t.links[l] = if s.links[l].current = some tag
            then { s.links[l] with current := none, refused := some tag } else s.links[l]

/-! ### The camera links -/

/-- R14, R16: lane events that meet a link in OFF, or a lane that is not in use, are ignored; bytes and end marks that meet a link in IDLE
are ignored too; nothing is counted. The first start mark on a lane in use of an IDLE link opens the burst: that lane open, every other
waiting, nothing held, the turn at lane 0, 0 bytes merged, the parser at the start of a packet, the end-mark state false. In BURST a start
mark opens a waiting lane. -/
def Obligations.StartMarksAndIgnoredLaneEvents : Prop :=
  ∀ (l : LinkNo) (n : LaneNo) (b : Byte) (errs : List MemErr) (s : State),
    ((s.links[l].phase = .off ∨ ∀ st, s.links[l].settings = some st → st.lanes ≤ n.val) →
      exec (.laneStartMark l n errs) s = .next { s with errs := errs }
      ∧ exec (.laneEndMark l n errs) s = .next { s with errs := errs }
      ∧ exec (.laneDataByte l n b errs) s = .next { s with errs := errs })
    ∧ (s.links[l].phase = .idle →
      exec (.laneEndMark l n errs) s = .next { s with errs := errs }
      ∧ exec (.laneDataByte l n b errs) s = .next { s with errs := errs })
    ∧ ∀ st : LinkSettings, s.links[l].settings = some st → n.val < st.lanes →
      (s.links[l].phase = .idle → ∃ k : Link,
        exec (.laneStartMark l n errs) s = .next { s with errs := errs, links := s.links.set l k }
        ∧ k = { s.links[l] with
            phase := .burst, replaced := false, lanes := k.lanes, turn := 0, merged := 0, mergeOpen := true,
            parser := ⟨[], none, [], false⟩, endMark := false }
        ∧ ∀ m : LaneNo, k.lanes[m].phase = (if m = n then .opened else .waiting) ∧ k.lanes[m].held = [])
      ∧ (s.links[l].phase = .burst → s.links[l].lanes[n].phase = .waiting →
        exec (.laneStartMark l n errs) s = .next { s with
          errs := errs,
          links := s.links.set l { s.links[l] with
            lanes := s.links[l].lanes.set n { s.links[l].lanes[n] with phase := .opened } } })

/-- R11, R16, R18, R20 to R22, R24, R25, R54: the end mark of the open lane whose turn it is, with nothing held in it, ends the merged
burst: every byte held in another lane is excess, a packet in progress is counted truncated, and a missing end mark is counted when
burst-end is required. When every lane in use has then ended (a link of one lane), the burst closes: the link is IDLE again, or, when the
map was replaced during the burst, takes its settings from the map in use (with no order SERVING here): IDLE with them, or OFF, where its
current exposure is closed as by an EXPOSURE_CLOSE and it names none. While another lane is open, the link stays in BURST. -/
def Obligations.EndMarkEndsTheMergedBurst : Prop :=
  ∀ (l : LinkNo) (n : LaneNo) (errs : List MemErr) (st : LinkSettings) (s : State),
    let k := s.links[l]
    let held := ((List.finRange 4).map fun m => if m.val < st.lanes then k.lanes[m].held.length else 0).sum
    let truncates : Prop := k.parser.discarding = false ∧ (k.parser.hdr ≠ [] ∨ k.parser.cur ≠ none)
    let closes : Prop := ∀ m : LaneNo, m.val < st.lanes → m ≠ n → k.lanes[m].phase ≠ .opened
    let off : Prop := (closes ∧ k.replaced = true) ∧ drawSettings s.loader.inUse l = none
    let misses : Prop := st.burstEnd = true ∧ (k.endMark = false ∨ k.parser.discarding = true)
    k.settings = some st → n.val < st.lanes → k.phase = .burst → (k.replaced = false ∨ ∀ o, s.deposit ≠ .serving o) → k.turn = n →
    k.mergeOpen = true →
    k.lanes[n].phase = .opened → k.lanes[n].held = [] →
    ∃ t, exec (.laneEndMark l n errs) s = .next t ∧ Touches [.links, .exposures, .slots, .mirror, .errs] s t
      ∧ (¬ off ∨ k.current = none → Touches [.links, .mirror, .errs] s t)
      ∧ (∀ m : LinkNo, m ≠ l → t.links[m] = s.links[m])
      ∧ t.links[l].mergeOpen = false ∧ t.links[l].lanes[n].phase = .ended
      ∧ (∀ m : LaneNo, t.links[l].lanes[m].held = [])
      ∧ (∀ m : LaneNo, m ≠ n → t.links[l].lanes[m].phase
          = if k.lanes[m].phase = .waiting then .ended else k.lanes[m].phase)
      ∧ (¬ off → t.links[l].current = k.current ∧ t.links[l].refused = k.refused)
      ∧ (¬ closes → t.links[l].phase = .burst ∧ t.links[l].settings = k.settings ∧ t.links[l].replaced = k.replaced)
      ∧ (closes → k.replaced = false → t.links[l].phase = .idle ∧ t.links[l].settings = k.settings)
      ∧ (closes → k.replaced = true → ∀ x, drawSettings s.loader.inUse l = some x →
        t.links[l].phase = .idle ∧ t.links[l].settings = some x)
      ∧ (off → (t.links[l].phase = .off ∧ t.links[l].settings = none) ∧ t.links[l].current = none ∧ t.links[l].refused = none
        ∧ ∀ c, k.current = some c → k.refused ≠ some c → ∃ u, exec (.exposureClose l c errs) s = .next u
          ∧ t.exposures = u.exposures ∧ t.slots = u.slots)
      ∧ (let was := k.counters
        (held = 0 → t.links[l].counters[LinkCounter.excess.idx] = was[LinkCounter.excess.idx])
        ∧ (0 < held → t.links[l].counters[LinkCounter.excess.idx] = min (was[LinkCounter.excess.idx] + held) 4294967295)
        ∧ (truncates → t.links[l].counters[LinkCounter.truncated.idx] = min (was[LinkCounter.truncated.idx] + 1) 4294967295)
        ∧ (¬ truncates → t.links[l].counters[LinkCounter.truncated.idx] = was[LinkCounter.truncated.idx])
        ∧ (misses → t.links[l].counters[LinkCounter.missingEndMarks.idx]
            = min (was[LinkCounter.missingEndMarks.idx] + 1) 4294967295)
        ∧ (¬ misses → t.links[l].counters[LinkCounter.missingEndMarks.idx] = was[LinkCounter.missingEndMarks.idx])
        ∧ ∀ i : Fin 14, i ≠ LinkCounter.excess.idx → i ≠ LinkCounter.truncated.idx → i ≠ LinkCounter.missingEndMarks.idx →
            t.links[l].counters[i] = was[i])

/-- R16 to R20, R23, R24, R30, R33 to R35, R38: a byte on an open lane. On a one-lane link it is merged at once. As one of the first three
bytes of a header it joins the header and clears the end-mark state; as the fourth it settles the header: a lost one, or a long one of more
than 4096 payload bytes, is counted and the rest of the burst discarded; a corrected one is counted; a long one begins its payload; a short
one completes, shown here for BURST_END and for a stream that is not enabled. In a payload it joins the packet buffer, and the last byte of
the footer completes the packet, shown here for a ROW of a wrong CRC and for a stream that is not enabled. On a link of several lanes a byte
out of turn is held, a byte at the turn passes the turn on, and the next lane's held byte then follows it. After the merged burst has ended
a byte is excess. On a lane that already holds 1024 bytes it ends the merged burst, and it and every held byte are excess. -/
def Obligations.LaneDataByteMergedOrExcess : Prop :=
  ∀ (l : LinkNo) (n : LaneNo) (b : Byte) (errs : List MemErr) (st : LinkSettings) (s : State),
    let k := s.links[l]
    let plain : Prop := st.lanes = 1 ∧ k.turn = 0 ∧ k.mergeOpen = true ∧ k.lanes[n].held = [] ∧ k.parser.discarding = false
    let becomes (k' : Link) : Prop := ∃ t, exec (.laneDataByte l n b errs) s = .next t
      ∧ Touches [.links, .mirror, .errs] s t ∧ t.links = s.links.set l k'
    let enabled (h : Header) : Prop := st.streams[h.stream] ≠ none
    let merged : Link := { k with merged := k.merged + 1 }
    let start (endMark : Bool) : Link := { merged with endMark := endMark, parser := ⟨[], none, [], false⟩ }
    let lost : Link := ({ start false with parser := ⟨[], none, [], true⟩ } : Link).counted .headersLost
    let fixed (f : Bool) (k' : Link) : Link := if f = true then k'.counted .headersFixed else k'
    let next : LaneNo := if n.val + 1 < st.lanes then n + 1 else 0
    k.settings = some st → n.val < st.lanes → k.phase = .burst → k.lanes[n].phase = .opened →
    (plain → k.parser.cur = none → k.parser.hdr.length < 3 →
      becomes { merged with endMark := false, parser := { k.parser with hdr := k.parser.hdr ++ [b] } })
    ∧ (plain → k.parser.cur = none → k.parser.hdr.length = 3 →
      let read := decodeHeader (leNat k.parser.hdr) b.toNat
      (read = none → becomes lost)
      ∧ ∀ (h : Header) (f : Bool), read = some (h, f) →
        (8 ≤ h.kind.val → 4096 < h.value.toNat → becomes lost)
        ∧ (8 ≤ h.kind.val → h.value.toNat ≤ 4096 →
          becomes (fixed f { start false with parser := ⟨[], some h, [], false⟩ }))
        ∧ (h.kind = 5 → becomes (fixed f (start true)))
        ∧ (h.kind.val < 8 → h.kind ≠ 1 → h.kind ≠ 2 → h.kind ≠ 5 → ¬ enabled h →
          becomes ((fixed f (start false)).counted .filtered)))
    ∧ (∀ h, plain → k.parser.cur = some h →
      let buffer := k.parser.buffer ++ [b]
      (buffer.length < h.value.toNat + 2 → becomes { merged with parser := { k.parser with buffer := buffer } })
      ∧ (buffer.length = h.value.toNat + 2 →
        (8 ≤ h.kind.val → ¬ enabled h → becomes ((start false).counted .filtered))
        ∧ (h.kind = 8 → enabled h → crc16 (buffer.take h.value.toNat) ≠ leNat (buffer.drop h.value.toNat) →
          becomes ((start false).counted .crcFailures))))
    ∧ (k.mergeOpen = true → k.turn ≠ n → k.lanes[k.turn].held = [] → k.lanes[k.turn].phase ≠ .ended →
      k.lanes[n].held.length < 1024 →
      becomes { k with lanes := k.lanes.set n { k.lanes[n] with held := k.lanes[n].held ++ [b] } })
    ∧ (k.mergeOpen = true → k.turn = n → next ≠ n → k.lanes[n].held = [] → k.lanes[next].phase ≠ .ended →
      k.parser.discarding = false → k.parser.cur = none →
      (k.parser.hdr.length < 3 → k.lanes[next].held = [] →
        becomes { merged with
          turn := next, endMark := false, parser := { k.parser with hdr := k.parser.hdr ++ [b] } })
      ∧ ∀ x, k.parser.hdr.length < 2 → st.lanes = 2 → k.lanes[next].held = [x] →
        becomes { k with
          merged := k.merged + 2, endMark := false, lanes := k.lanes.set next { k.lanes[next] with held := [] },
          parser := { k.parser with hdr := k.parser.hdr ++ [b, x] } })
    ∧ (k.mergeOpen = false → becomes (k.counted .excess))
    ∧ (k.mergeOpen = true → 1024 ≤ k.lanes[n].held.length →
      ∃ t, exec (.laneDataByte l n b errs) s = .next t ∧ t.links[l].mergeOpen = false
        ∧ t.links[l].counters[LinkCounter.excess.idx]
            = min (k.counters[LinkCounter.excess.idx] + 1
              + ((List.finRange 4).map fun m =>
                  if m.val < st.lanes then k.lanes[m].held.length else 0).sum) 4294967295)

/-- R31, R32, R33: the header code. A header whose check byte carries the parity of its data bytes is clean, whatever bits 7:6 of the check
byte are; one flipped bit, of the data or of the parity, is corrected; two flipped bits are uncorrectable. -/
def Obligations.HeaderCodeCorrectsOneAndDetectsTwo : Prop :=
  ∀ d : BitVec 24,
    let p := headerParity d.toNat
    let flipD (x : Nat) (i : Fin 24) : Nat := x ^^^ 2 ^ i.val
    let flipP (x : Nat) (j : Fin 6) : Nat := x ^^^ 2 ^ j.val
    p < 64
    ∧ (∀ c : Nat, c % 64 = p → decodeHeader d.toNat c = some (headerOf d.toNat, false))
    ∧ (∀ i : Fin 24, decodeHeader (flipD d.toNat i) p = some (headerOf d.toNat, true))
    ∧ (∀ j : Fin 6, decodeHeader d.toNat (flipP p j) = some (headerOf d.toNat, true))
    ∧ (∀ i j : Fin 24, i ≠ j → decodeHeader (flipD (flipD d.toNat i) j) p = none)
    ∧ (∀ i j : Fin 6, i ≠ j → decodeHeader d.toNat (flipP (flipP p i) j) = none)
    ∧ ∀ (i : Fin 24) (j : Fin 6), decodeHeader (flipD d.toNat i) (flipP p j) = none

/-- From R36: two payloads of one length that differ in a single bit have different CRCs, the CRC fits its 16-bit footer, and a payload
followed by its own CRC has the CRC 0. -/
def Obligations.PayloadCrcDetectsASingleBit : Prop :=
  ∀ (p : List Byte) (i : Nat) (b : Byte) (j : Fin 8), p[i]? = some b →
    crc16 (p.set i (b ^^^ (1#8 <<< j.val))) ≠ crc16 p ∧ crc16 p < 65536 ∧ crc16 (p ++ leBytes 2 (crc16 p)) = 0

/-- R14, R24, R37, R38, R43, R52: the fates of a packet that depend on no exposure. A link in OFF takes none. On any other link a packet of
a stream that is not enabled is counted filtered, a ROW of the wrong payload length is a length error, a SEGMENT_BEGIN, SEGMENT_END or
good ROW under a refused marker is counted refused, and all of these clear the end-mark state and change nothing else; a BURST_END sets
it, and does nothing else. -/
def Obligations.PacketFatesOutsideTheTable : Prop :=
  ∀ (l : LinkNo) (x : StreamNo) (tag : Tag) (v : BitVec 16) (samples : List (BitVec 16)) (errs : List MemErr) (s : State),
    let k := s.links[l]
    let unmarked : Link := { k with endMark := false }
    let enabled (g : StreamEntry) : Prop := ∃ st, k.settings = some st ∧ st.streams[x] = some g
    (k.phase = .off →
      exec (.exposureOpen l tag errs) s = .next { s with errs := errs }
      ∧ exec (.exposureClose l tag errs) s = .next { s with errs := errs }
      ∧ exec (.segmentBegin l x v errs) s = .next { s with errs := errs }
      ∧ exec (.segmentEnd l x v errs) s = .next { s with errs := errs }
      ∧ exec (.row l x v samples) s = .next s ∧ exec (.burstEnd l) s = .next s)
    ∧ (k.phase ≠ .off → (∀ g, ¬ enabled g) →
      ∀ c ∈ [Instr.segmentBegin l x v errs, .segmentEnd l x v errs, .row l x v samples], ∃ t, exec c s = .next t
        ∧ Touches [.links, .mirror, .errs] s t ∧ t.links = s.links.set l (unmarked.counted .filtered))
    ∧ (k.phase ≠ .off → ∀ g, enabled g → samples.length ≠ g.rowLen →
      ∃ t, exec (.row l x v samples) s = .next t
        ∧ Touches [.links, .mirror] s t ∧ t.links = s.links.set l (unmarked.counted .lengthErrors))
    ∧ (k.phase ≠ .off → ∀ g, enabled g → samples.length = g.rowLen → k.refused ≠ none →
      ∀ c ∈ [Instr.segmentBegin l x v errs, .segmentEnd l x v errs, .row l x v samples], ∃ t, exec c s = .next t
        ∧ Touches [.links, .mirror, .errs] s t ∧ t.links = s.links.set l (unmarked.counted .refused))
    ∧ (k.phase ≠ .off → exec (.burstEnd l) s = .next { s with links := s.links.set l { k with endMark := true } })

/-! ### The exposure table and the tile pool -/

/-- R49, R51, R54, R55, R129, R130: an EXPOSURE_OPEN of a tag without an entry, on a link without a current exposure and without that tag as
its refused marker. With a free place, the lowest takes a new entry, OPEN, opened by the link, every segment UNSETTLED, and the tag becomes
the link's current exposure; an ASSEMBLE that WAITS for the tag binds to it at once: the entry is ASSEMBLING and the unit SERVING. With no
free place, the open is refused: the tag becomes the refused marker, it is counted, and RECEIVE is raised. An open of any tag on a link with
another current exposure closes that one first, as an EXPOSURE_CLOSE of it on the link does (with no order SERVING here). -/
def Obligations.ExposureOpenOfANewTag : Prop :=
  ∀ (l : LinkNo) (tag : Tag) (errs : List MemErr) (s : State),
    let k := s.links[l]
    k.phase ≠ .off →
    (k.current = none → k.refused ≠ some tag → (∀ (p : Fin 4) (e : ExpEntry), s.exposures[p] = some e → e.tag ≠ tag) →
      (∀ p : Fin 4, s.exposures[p] = none → (∀ q : Fin 4, q < p → s.exposures[q] ≠ none) →
        let made (state : ExpState) : Vector (Option ExpEntry) 4 := s.exposures.set p
          (some ⟨tag, state, BitVec.ofNat 4 (2 ^ l.val), 0, 0, Vector.replicate 64 .unsettled⟩)
        let named : Vector Link 4 := s.links.set l { k with current := some tag, refused := none, endMark := false }
        ((∀ o, s.deposit = .waiting o → o.tag ≠ tag) →
          ∃ t, exec (.exposureOpen l tag errs) s = .next t
            ∧ Touches [.links, .exposures, .mirror, .errs] s t ∧ t.exposures = made .opened ∧ t.links = named)
        ∧ ∀ o, s.deposit = .waiting o → o.tag = tag → (∃ seg : SegNo, o.map[seg] ≠ none) →
          (∀ (n : SlotNo) (sl : Slot), s.slots[n] = some sl → sl.tag ≠ tag) →
          ∃ t, exec (.exposureOpen l tag errs) s = .next t
            ∧ Touches [.links, .exposures, .deposit, .mirror, .errs] s t ∧ t.exposures = made .assembling ∧ t.links = named
            ∧ t.deposit = .serving { o with turn := 0, current := none })
      ∧ ((∀ p : Fin 4, s.exposures[p] ≠ none) →
        ∃ t, exec (.exposureOpen l tag errs) s = .next t
          ∧ Touches [.links, .mirror, .alert, .messages, .errs] s t
          ∧ t.links = s.links.set l
              (({ k with current := none, refused := some tag, endMark := false } : Link).counted .refused)
          ∧ t.alert = { s.alert with pending := { s.alert.pending with receive := true } }))
    ∧ ∀ c, k.current = some c → c ≠ tag → k.refused ≠ some c → (∀ o, s.deposit ≠ .serving o) →
      ∃ t, exec (.exposureClose l c errs) s = .next t ∧ exec (.exposureOpen l tag errs) s = exec (.exposureOpen l tag errs) t

/-- R49, R50, R52: an EXPOSURE_OPEN of a tag that has an entry, on a link without a current exposure and without that tag as its refused
marker: an entry still arriving for the link takes the link into its opened set; any other makes the open a duplicate. An open of the
refused marker's own tag is counted and changes nothing else. -/
def Obligations.ExposureOpenOfAKnownTag : Prop :=
  ∀ (l : LinkNo) (tag : Tag) (errs : List MemErr) (s : State),
    let k := s.links[l]
    k.phase ≠ .off → k.current = none →
    (k.refused = some tag → ∃ t, exec (.exposureOpen l tag errs) s = .next t
      ∧ Touches [.links, .mirror, .errs] s t
      ∧ t.links = s.links.set l (({ k with endMark := false } : Link).counted .refused))
    ∧ (k.refused ≠ some tag → ∀ (p : Fin 4) (e : ExpEntry), s.placeOf tag = some p → s.exposures[p] = some e →
      let arriving : Prop :=
        (e.state = .opened ∨ e.state = .assembling ∧ e.closedBy ≠ e.openedBy) ∧ e.closedBy.getLsbD l.val = false
      (arriving → ∃ t, exec (.exposureOpen l tag errs) s = .next t
        ∧ Touches [.links, .exposures, .mirror, .errs] s t
        ∧ t.exposures = s.exposures.set p
            (some { e with openedBy := e.openedBy ||| BitVec.ofNat 4 (2 ^ l.val) })
        ∧ t.links = s.links.set l { k with current := some tag, refused := none, endMark := false })
      ∧ (¬ arriving → ∃ t, exec (.exposureOpen l tag errs) s = .next t
        ∧ Touches [.links, .mirror, .alert, .messages, .errs] s t
        ∧ t.links = s.links.set l
            (({ k with current := none, refused := some tag, endMark := false } : Link).counted .duplicateExposure)
        ∧ t.alert = { s.alert with pending := { s.alert.pending with receive := true } }))

/-- R52, R53, R54: an EXPOSURE_CLOSE. Of the link's current exposure, with no ASSEMBLE in flight and no LATE slot of the link: each FILLING
slot of the tag and the link becomes COMPLETE with its unterminated flag set, the link joins the closed set, an OPEN entry whose closed
set then equals its opened set becomes CLOSED, and the link has no current exposure. Of the refused marker's tag: it is counted and the
marker becomes absent. Of any other tag: nothing but the end-mark state changes. -/
def Obligations.ExposureCloseOnALink : Prop :=
  ∀ (l : LinkNo) (tag : Tag) (errs : List MemErr) (s : State),
    let k := s.links[l]
    k.phase ≠ .off →
    (k.refused = some tag → ∃ t, exec (.exposureClose l tag errs) s = .next t
      ∧ Touches [.links, .mirror, .errs] s t
      ∧ t.links = s.links.set l { ({ k with endMark := false } : Link).counted .refused with refused := none })
    ∧ (k.refused ≠ some tag → k.current ≠ some tag →
      exec (.exposureClose l tag errs) s
        = .next { s with errs := errs, links := s.links.set l { k with endMark := false } })
    ∧ (k.refused ≠ some tag → k.current = some tag → s.deposit = .idle →
      (∀ (n : SlotNo) (sl : Slot), s.slots[n] = some sl → sl.tag = tag → sl.link = l → sl.state ≠ .late) →
      ∀ (p : Fin 4) (e : ExpEntry), s.placeOf tag = some p → s.exposures[p] = some e →
      ∃ t, exec (.exposureClose l tag errs) s = .next t
        ∧ Touches [.links, .exposures, .slots, .mirror, .errs] s t
        ∧ t.links = s.links.set l { k with current := none, endMark := false }
        ∧ t.exposures = s.exposures.set p (some { e with
            closedBy := e.closedBy ||| BitVec.ofNat 4 (2 ^ l.val),
            state := if e.state = .opened ∧ e.closedBy ||| BitVec.ofNat 4 (2 ^ l.val) = e.openedBy
              then .closed else e.state })
        ∧ ∀ n : SlotNo, t.slots[n] = (s.slots[n]).map fun sl =>
            if sl.tag = tag ∧ sl.link = l ∧ sl.state = .filling
              then { sl with state := .complete, unterminated := true } else sl)

/-- R59, R60, R61: a SEGMENT_BEGIN of an enabled stream under a current exposure whose entry is OPEN or CLOSED and has the segment
UNSETTLED. The lowest FREE slot is taken, FILLING, with the map's geometry and the expected rows (the map rows for 0 or for more than
those), and slots held gains 1; with no FREE slot it is counted and RECEIVE is raised. Where a FILLING or COMPLETE slot already stands,
the segment restarts: the new slot carries the old deposit cursor and is marked restarted. A segment already settled is refused. -/
def Obligations.SegmentBeginTakesASlot : Prop :=
  ∀ (l : LinkNo) (x : StreamNo) (v : BitVec 16) (errs : List MemErr) (s : State) (st : LinkSettings) (g : StreamEntry)
    (tag : Tag) (p : Fin 4) (e : ExpEntry),
    let k := s.links[l]
    let unmarked : Link := { k with endMark := false }
    let new : Slot :=
      { state := .filling, tag := tag, seg := g.seg, link := l, prescan := g.prescan, image := g.image,
        overscan := g.overscan, rowLen := g.rowLen, mapRows := g.rows,
        expected := if v.toNat = 0 ∨ g.rows < v.toNat then g.rows else v.toNat,
        rows := [], sent := none, cursor := 0, unterminated := false, restarted := false }
    k.phase ≠ .off → k.settings = some st → st.streams[x] = some g → k.refused = none → k.current = some tag →
    s.placeOf tag = some p → s.exposures[p] = some e → (e.state = .opened ∨ e.state = .closed) →
    (e.outcomes[g.seg] = .unsettled → s.slotIn tag g.seg [.filling, .complete] = none →
      (∀ n : SlotNo, s.slots[n] = none → (∀ m : SlotNo, m < n → s.slots[m] ≠ none) →
        ∃ t, exec (.segmentBegin l x v errs) s = .next t
          ∧ Touches [.links, .exposures, .slots, .mirror, .errs] s t
          ∧ t.slots = s.slots.set n (some new) ∧ t.exposures = s.exposures.set p (some { e with held := e.held + 1 })
          ∧ t.links = s.links.set l unmarked)
      ∧ ((∀ n : SlotNo, s.slots[n] ≠ none) →
        ∃ t, exec (.segmentBegin l x v errs) s = .next t
          ∧ Touches [.links, .mirror, .alert, .messages, .errs] s t
          ∧ t.links = s.links.set l (unmarked.counted .noRoom)
          ∧ t.alert = { s.alert with pending := { s.alert.pending with receive := true } }))
    ∧ (e.outcomes[g.seg] = .unsettled → 0 < e.held →
      ∀ (old : SlotNo) (sl : Slot), s.slotIn tag g.seg [.filling, .complete] = some old → s.slots[old] = some sl →
        ∃ (n : SlotNo) (t : State), exec (.segmentBegin l x v errs) s = .next t
          ∧ Touches [.links, .exposures, .slots, .mirror, .errs] s t
          ∧ (n = old ∨ n < old ∧ s.slots[n] = none) ∧ (∀ m : SlotNo, m < n → s.slots[m] ≠ none)
          ∧ t.slots = (s.slots.set old none).set n (some { new with cursor := sl.cursor, restarted := true })
          ∧ t.exposures = s.exposures.set p (some e) ∧ t.links = s.links.set l (unmarked.counted .restarts))
    ∧ (e.outcomes[g.seg] ≠ .unsettled →
        ∃ t, exec (.segmentBegin l x v errs) s = .next t ∧ Touches [.links, .mirror, .errs] s t
          ∧ t.links = s.links.set l (unmarked.counted .refused))

/-- R44, R45, R57, R62: a ROW of an enabled stream with a good payload length, on a link without a refused marker. With a FILLING slot of
the current exposure and segment whose row length it fits, at an index below the expected rows and above the highest stored row, the
samples are stored in that row of the slot, low byte first, and the index joins the rows stored. Without a current exposure or such a
slot, and at any other index, it is a stray row; for a slot of another row length it is a length error. -/
def Obligations.RowIsStoredOrStray : Prop :=
  ∀ (l : LinkNo) (x : StreamNo) (index : BitVec 16) (samples : List (BitVec 16)) (s : State) (st : LinkSettings)
    (g : StreamEntry),
    let k := s.links[l]
    let unmarked : Link := { k with endMark := false }
    let stray : Prop := ∃ t, exec (.row l x index samples) s = .next t
      ∧ Touches [.links, .mirror] s t ∧ t.links = s.links.set l (unmarked.counted .strayRows)
    k.phase ≠ .off → k.settings = some st → st.streams[x] = some g → samples.length = g.rowLen → k.refused = none →
    (k.current = none → stray)
    ∧ ∀ tag, k.current = some tag →
      (s.slotIn tag g.seg [.filling] = none → stray)
      ∧ ∀ (n : SlotNo) (sl : Slot), s.slotIn tag g.seg [.filling] = some n → s.slots[n] = some sl →
        (sl.rowLen = g.rowLen → (sl.expected ≤ index.toNat ∨ ∃ h, sl.rows.getLast? = some h ∧ index.toNat ≤ h) → stray)
        ∧ (sl.rowLen ≠ g.rowLen → ∃ t, exec (.row l x index samples) s = .next t
          ∧ Touches [.links, .mirror] s t ∧ t.links = s.links.set l (unmarked.counted .lengthErrors))
        ∧ (sl.rowLen = g.rowLen → index.toNat < sl.expected → (∀ h, sl.rows.getLast? = some h → h < index.toNat) →
          sl.expected ≤ 2048 → g.rowLen ≤ 1120 →
          let off := 0x3D8000000 + n.val * 4587520 + index.toNat * 2240
          ∃ t, exec (.row l x index samples) s = .next t
            ∧ Touches [.mem, .links, .slots] s t
            ∧ t.slots = s.slots.set n (some { sl with rows := sl.rows ++ [index.toNat] })
            ∧ t.links = s.links.set l unmarked
            ∧ Memory.sameOutside s.mem t.mem off (2 * samples.length)
            ∧ ∀ (i : Nat) (y : BitVec 16), samples[i]? = some y → Memory.readNat t.mem (off + 2 * i) 2 = y.toNat)

/-- R42, R56, R64, R66: a SEGMENT_END of an enabled stream, on a link without a refused marker. A FILLING slot of the current exposure and
the segment becomes COMPLETE with the rows sent (no ASSEMBLE in flight here); a LATE one is freed with a segment report waiting and slots
held one lower, and an ASSEMBLED entry that then holds none is removed; with a COMPLETE one, with no slot, and with no current exposure,
nothing but the end-mark state changes. Where the LATE slot was the last that a SERVING order drained (R138), that order ends at the next
ROW_DEPOSIT and not here, which is the model's choice (log 27). -/
def Obligations.SegmentEndOfASlot : Prop :=
  ∀ (l : LinkNo) (x : StreamNo) (sent : BitVec 16) (errs : List MemErr) (s : State) (st : LinkSettings) (g : StreamEntry),
    let k := s.links[l]
    let unmarked : Link := { k with endMark := false }
    k.phase ≠ .off → k.settings = some st → st.streams[x] = some g → k.refused = none →
    (k.current = none → exec (.segmentEnd l x sent errs) s
      = .next { s with errs := errs, links := s.links.set l unmarked })
    ∧ ∀ tag, k.current = some tag →
      (s.slotOf tag g.seg = none → exec (.segmentEnd l x sent errs) s
        = .next { s with errs := errs, links := s.links.set l unmarked })
      ∧ ∀ (n : SlotNo) (sl : Slot), s.slotOf tag g.seg = some n → s.slots[n] = some sl →
        (sl.state = .complete → exec (.segmentEnd l x sent errs) s
          = .next { s with errs := errs, links := s.links.set l unmarked })
        ∧ (sl.state = .filling → s.deposit = .idle → exec (.segmentEnd l x sent errs) s
          = .next { s with
              errs := errs, links := s.links.set l unmarked,
              slots := s.slots.set n
                (some { sl with state := .complete, sent := some sent.toNat, unterminated := false }) })
        ∧ (sl.state = .late → ∃ t, exec (.segmentEnd l x sent errs) s = .next t
          ∧ Touches [.links, .exposures, .slots, .mirror, .errs] s t
          ∧ t.links = s.links.set l unmarked ∧ t.slots = s.slots.set n none
          ∧ (∃ w ∈ t.mirror, w.off = 0x200 + 16 * g.seg.val
              ∧ w.bytes = reportBytes .late { sl with sent := some sent.toNat })
          ∧ ∀ (p : Fin 4) (e : ExpEntry), s.placeOf tag = some p → s.exposures[p] = some e →
              (e.state = .opened ∨ e.state = .closed ∨ e.state = .assembling) →
              t.exposures = s.exposures.set p (some { e with held := e.held - 1 }))
        ∧ (sl.state = .late → ∀ (p : Fin 4) (e : ExpEntry), s.placeOf tag = some p → s.exposures[p] = some e → e.state = .assembled →
          ∃ t, exec (.segmentEnd l x sent errs) s = .next t
            ∧ t.exposures = s.exposures.set p (if e.held ≤ 1 then none else some { e with held := e.held - 1 }))

/-! ### The map loader -/

/-- R2, R6, R7, R8, R9: how a load begins and waits for the flash. A POSTED LOAD_MAP with a source above 1 fails with MAP_CHECK; any other
is in flight, its load begun from the state found, or, while a load runs, not begun; LOAD_MAP_BEGIN begins the load of one that waited. The
reads of an image in board memory begin with memory as it then stands (log 48). In the busy wait a status with bit 0 clear starts the data
read, one with bit 0 set changes nothing; at 50,000 µs the wait ends the load with the state LOADING was entered from, and its order, if
any, retires FLASH_TIMEOUT (walker HALTED here). Without such a wait nothing changes. -/
def Obligations.LoadsBeginAndWaitForTheFlash : Prop :=
  ∀ (s : State) (status : Byte) (errs : List MemErr),
    let begun (image : Option Nat) : Loader := { s.loader with
      state := .loading, enteredFrom := s.loader.state,
      load := some ⟨true, match image with
        | none => .busyWait s.timeBase
        | some off => .memory off⟩ }
    let ended : Loader := { s.loader with state := s.loader.enteredFrom, load := none }
    (s.Presents 7 →
      let c := s.walker.cursor
      let source := Memory.readNat s.mem (c + 40) 1
      let image : Option Nat := if source = 0 then none else some (Memory.readNat s.mem (c + 56) 8)
      (1 < source → s.FailsTakeUp .mapCheck)
      ∧ (source ≤ 1 → s.loader.load = none → ∃ t, s.TakesInto t [.service, .loader]
        ∧ t.service = some (.loadMap c image true) ∧ t.loader = begun image ∧ (image ≠ none → t.past = []))
      ∧ (source ≤ 1 → s.loader.load ≠ none → ∃ t, s.TakesInto t [.service]
        ∧ t.service = some (.loadMap c image false)))
    ∧ (∀ (o : Bool) (start : Nat), s.loader.load = some ⟨o, .busyWait start⟩ →
      exec (.flashStatusRead status) s = .next (if status.getLsbD 0 then s
        else { s with loader := { s.loader with load := some ⟨o, .dataRead⟩ } })
      ∧ (s.timeBase < start + 50000 → exec (.flashBusyTimeout errs) s = .next { s with errs := errs })
      ∧ (start + 50000 ≤ s.timeBase → o = false →
        exec (.flashBusyTimeout errs) s = .next { s with errs := errs, loader := ended })
      ∧ ∀ rec image, start + 50000 ≤ s.timeBase → o = true → s.service = some (.loadMap rec image true) → s.StillTaken rec →
        ∃ t, exec (.flashBusyTimeout []) s = .next t
          ∧ Touches [.mem, .loader, .service, .walker, .mirror, .alert, .messages, .errs] s t
          ∧ t.service = none ∧ t.loader = ended ∧ s.Retires t rec .flashTimeout [])
    ∧ ((∀ o start, s.loader.load ≠ some ⟨o, .busyWait start⟩) →
      exec (.flashStatusRead status) s = .next s ∧ exec (.flashBusyTimeout errs) s = .next { s with errs := errs })
    ∧ (∀ (rec : Nat) (image : Option Nat), s.service = some (.loadMap rec image false) → s.loader.load = none →
      exec .loadMapBegin s = .next { s with
        service := some (.loadMap rec image true), loader := begun image, past := if image = none then s.past else [] })
    ∧ ((∀ rec image, s.service ≠ some (.loadMap rec image false)) ∨ s.loader.load ≠ none →
      exec .loadMapBegin s = .next s)

/-- R2, R5, R7, R8, R9, R11: MAP_LOAD_END of the power-on load and of a LOAD_MAP (walker HALTED here), with the deposit unit IDLE. When the
load fails, the map in use stays and the state LOADING was entered from returns, and a LOAD_MAP retires with the status of the failure; a
memory error retires it MEMORY_FAULT, counted once (the model's reading, log 16). An image in board memory is checked as its reads found it,
each byte at a moment that the command gives (`asRead`; the model's choice, log 48). When the checks pass, the staged map is in use and
VALID, a LOAD_MAP retires OK, a link in BURST keeps its settings and remembers the replacement, and every other link takes its settings from
the new map, IDLE where it has segments and OFF where not. The settings of a link are those of the map's entries on it. -/
def Obligations.MapLoadEnds : Prop :=
  (∀ (s : State) (flash : List Byte) (reads : MemReads), s.deposit = .idle →
    let errs := reads.errs
    let failed : Loader := { s.loader with state := s.loader.enteredFrom, load := none }
    let installed (t : State) (m : FocalMap) : Prop :=
      t.loader = { s.loader with inUse := some m, state := .valid, load := none }
        ∧ ∀ l : LinkNo, (s.links[l].phase = .burst → t.links[l] = { s.links[l] with replaced := true })
          ∧ (s.links[l].phase ≠ .burst → t.links[l].settings = drawSettings (some m) l
            ∧ t.links[l].phase = if drawSettings (some m) l = none then .off else .idle)
    (s.loader.load = some ⟨false, .dataRead⟩ →
      (∀ st, flashLoad flash = .failed st →
        exec (.mapLoadEnd flash reads) s = .next { s with errs := errs, loader := failed })
      ∧ (∀ m, flashLoad flash = .staged m → ∃ t, exec (.mapLoadEnd flash reads) s = .next t ∧ installed t m
        ∧ Touches [.loader, .links, .exposures, .slots, .mirror, .errs] s t))
    ∧ ∀ (rec : Nat) (image : Option Nat) (phase : LoadPhase) (out : LoadEnd), s.service = some (.loadMap rec image true) →
      s.loader.load = some ⟨true, phase⟩ → s.StillTaken rec → (∀ e ∈ errs, e.by_ = .bankOrMap) →
      (phase = .dataRead ∧ out = flashLoad flash
        ∨ ∃ off, phase = .memory off ∧ out = ({ s with errs := errs, mem := s.asRead off reads.early } : State).memoryLoad off) →
      ∃ t, exec (.mapLoadEnd flash reads) s = .next t ∧ t.service = none
        ∧ (∀ st, out = .failed st →
          Touches [.mem, .loader, .service, .walker, .mirror, .alert, .messages, .errs] s t
          ∧ t.loader = failed ∧ s.Retires t rec st [] ∧ t.alert.memErrors = s.alert.memErrors)
        ∧ (out = .memoryError →
          Touches [.mem, .loader, .service, .walker, .mirror, .alert, .messages, .errs] s t
          ∧ t.loader = failed ∧ s.Retires t rec .memoryFault [] ∧ t.alert.pending.fault = true
          ∧ t.alert.memErrors = s.alert.memErrors.set 4 (min (s.alert.memErrors[4] + 1) 4294967295))
        ∧ (∀ m, out = .staged m →
          Touches [.mem, .loader, .links, .exposures, .slots, .service, .walker, .mirror, .alert, .messages, .errs] s t
          ∧ installed t m ∧ s.Retires t rec .ok []))
  ∧ (∀ l : LinkNo, drawSettings none l = none)
  ∧ ∀ (m : FocalMap) (l : LinkNo), m.Checked →
    ((∀ (seg : SegNo) (e : SegEntry), m.entries[seg] = some e → e.link ≠ l) → drawSettings (some m) l = none)
    ∧ (∀ (seg : SegNo) (e : SegEntry), m.entries[seg] = some e → e.link = l → ∃ st, drawSettings (some m) l = some st
      ∧ st.lanes = e.lanes ∧ st.burstEnd = e.burstEnd
      ∧ st.streams[e.stream] = some ⟨seg, e.prescan, e.image, e.overscan, e.prescan + e.image + e.overscan, e.rows⟩)
    ∧ ∀ (st : LinkSettings) (x : StreamNo) (g : StreamEntry), drawSettings (some m) l = some st → st.streams[x] = some g →
      ∃ e, m.entries[g.seg] = some e ∧ e.link = l ∧ e.stream = x

/-- R3, R4, R5, R8, 12.4: a load stages a map exactly when its image passes the eight checks and the map is what the image holds: its header
bears the magic, version 1 and a count of 1 to 64, the entry CRC agrees, and every present entry is in range, no two of one link and stream,
those of one link alike in lanes and burst-end. A flash load reads the flash alone and fails with MAP_CHECK. A memory load reads what lies
in the general region: it fails in R8's order with REGION_RANGE for the header, a memory error, MAP_CHECK for the header, REGION_RANGE for
the whole image, a memory error, and MAP_CHECK for the entries. Board memory as the reads of an image, or of a bank record (R74), found it
holds each byte as it stood when it was read: a byte listed as read early at its moment, or at the last of the header's where that is later,
as the header is read first; every other byte now (that the moments are an operand is the model's choice, log 48). -/
def Obligations.StagedMapPassesTheChecks : Prop :=
  (∀ (flash : List Byte) (m : FocalMap), flashLoad flash = .staged m
    ↔ m.Passes (flashBytes flash 0 16) (flashBytes flash 16 (64 * m.count)))
  ∧ (∀ (flash : List Byte), (∃ m, flashLoad flash = .staged m) ∨ flashLoad flash = .failed .mapCheck)
  ∧ ∀ (s : State) (off : Nat),
    let count := Memory.readNat s.mem (off + 6) 2
    let whole : Prop := 0x1000 ≤ off ∧ off + 16 + 64 * count ≤ 0x3D8000000
    let header : Prop := Memory.readNat s.mem off 4 = 0x50414D46 ∧ Memory.readNat s.mem (off + 4) 2 = 1 ∧ 1 ≤ count ∧ count ≤ 64
    let met (a n : Nat) : Prop := ∃ e ∈ s.errs, e.by_ = .bankOrMap ∧ a ≤ e.at_ ∧ e.at_ < a + n
    let passes (m : FocalMap) : Prop :=
      m.count = count ∧ m.Passes (Memory.readBytes s.mem off 16) (Memory.readBytes s.mem (off + 16) (64 * count))
    (¬ (0x1000 ≤ off ∧ off + 16 ≤ 0x3D8000000) → s.memoryLoad off = .failed .regionRange)
    ∧ (0x1000 ≤ off → off + 16 ≤ 0x3D8000000 →
      (met off 16 → s.memoryLoad off = .memoryError)
      ∧ (¬ met off 16 → ¬ header → s.memoryLoad off = .failed .mapCheck)
      ∧ (¬ met off 16 → header → ¬ whole → s.memoryLoad off = .failed .regionRange)
      ∧ (¬ met off 16 → header → whole → met (off + 16) (64 * count) → s.memoryLoad off = .memoryError)
      ∧ (¬ met off 16 → header → whole → ¬ met (off + 16) (64 * count) →
        (∀ m, passes m → s.memoryLoad off = .staged m) ∧ ((∀ m, ¬ passes m) → s.memoryLoad off = .failed .mapCheck)))
    ∧ s.asRead off [] = s.mem
    ∧ ∀ (early : List EarlyRead) (a : Nat), a < 0x400000000 →
      let own (b : Nat) : Nat := match early.find? fun r => decide (b ∈ r.bytes) with
        | some r => min r.moment s.past.length
        | none => s.past.length
      let read (moment : Nat) : Byte := Memory.read (s.past.getD moment s.mem) a
      (a < off + 16 → Memory.read (s.asRead off early) a = read (own a))
      ∧ (off + 16 ≤ a → ∃ moment, Memory.read (s.asRead off early) a = read moment ∧ own a ≤ moment
        ∧ (∀ i < 16, own (off + i) ≤ moment) ∧ (moment = own a ∨ ∃ i < 16, moment = own (off + i)))

/-! ### Pixels and placement -/

/-- Conventions, Rounding: `roundDiv x d` is a nearest integer to x / d, and of two equally near the one away from zero. -/
def Obligations.RoundingIsNearestTiesAway : Prop :=
  ∀ (x : Int) (d : Nat), 0 < d →
    2 * (roundDiv x d * d - x).natAbs ≤ d
    ∧ (2 * (roundDiv x d * d - x).natAbs = d → x.natAbs < (roundDiv x d * d).natAbs)

/-- R80, R82 to R89: the outcome of an image pixel. Its bias is the mean of the row's overscan window, halves rounded up, the fixed bias, or
its bias plane entry, by the amplifier's mode. A sample at or above the saturation level is SATURATED; else a pixel that a defect of its
segment covers, or whose flat entry is 0, is BAD; else it is deposited with its value through the gain, linearity and flat stages, at most
2^28 - 1 in magnitude and marked clamped exactly when the last stage exceeded that. -/
def Obligations.PixelOutcomeAndCalibratedValue : Prop :=
  ∀ (amp : Amp) (defects : List Defect) (seg : SegNo) (e : SegEntry) (r : RowData) (x y : Nat),
    let D := r.samples.getD (e.prescan + x) 0
    let F := match r.flat with
      | some f => f.getD x 0
      | none => 16384
    let bad : Prop := F = 0 ∨ ∃ d ∈ defects, d.seg = seg.val ∧ (d.firstCol ≤ x ∧ x ≤ d.lastCol)
      ∧ (d.firstRow ≤ y ∧ y ≤ d.lastRow)
    let B : Nat := match amp.mode with
      | .overscan =>
        (2 * ((List.range amp.n).map fun i => r.samples.getD (e.prescan + e.image + (amp.skip + i)) 0).sum + amp.n) / (2 * amp.n)
      | .fixed => amp.fixed
      | .plane => match r.bias with
        | some b => b.getD x 0
        | none => 0
    let S : Int := (D : Int) - B
    let L := r.lut.getD (if S < 0 then 0 else if 65535 < S then 1023 else S.toNat / 64) 0
    let V := roundDiv (roundDiv (roundDiv (S * amp.gain) 256 * L) 16384 * F) 16384
    (amp.sat ≤ D → pixelOutcome amp defects seg e r x y = .saturated)
    ∧ (D < amp.sat → bad → pixelOutcome amp defects seg e r x y = .bad)
    ∧ (D < amp.sat → ¬ bad →
      pixelOutcome amp defects seg e r x y = (if V.natAbs ≤ 268435455 then .deposit V false
        else .deposit (if V < 0 then -268435455 else 268435455) true))

/-- R97, R98, R102: the position of a pixel is its whole part, its 8-bit fraction and a remainder below 2^-8 pixel; the four targets are
the four sky pixels around it, and their split weights add up to 65536; a share's weight is at most 65280. -/
def Obligations.SplitWeightsOfAPosition : Prop :=
  ∀ (u v : Int) (w : Nat),
    (wholePart u * 2 ^ 30 + fraction u * 2 ^ 22 ≤ u ∧ u < wholePart u * 2 ^ 30 + (fraction u + 1) * 2 ^ 22
      ∧ fraction u < 256)
    ∧ ((targets u v).map Target.split).sum = 65536
    ∧ (targets u v).map (fun t => (t.i - wholePart u, t.j - wholePart v)) = [(0, 0), (1, 0), (0, 1), (1, 1)]
    ∧ (targets u v).map Target.split = [(256 - fraction u) * (256 - fraction v), fraction u * (256 - fraction v),
        (256 - fraction u) * fraction v, fraction u * fraction v]
    ∧ (w ≤ 255 → ∀ t ∈ targets u v, shareWeight t.split w ≤ 65280)

/-! ### The sky canvas -/

/-- R106: the region of a field has 65,536 records of 24 bytes for each of its cells, and the record of sky pixel (i, j) begins where the
rule's expression says. The records of a good field lie in its region, and the records of two of its sky pixels share no byte. -/
def Obligations.RecordsOfAFieldAreDisjoint : Prop :=
  ∀ (f : Field) (i j i' j' : Nat), f.Ok → i < 256 * f.cols → j < 256 * f.rows → i' < 256 * f.cols → j' < 256 * f.rows →
    f.regionBytes = f.cols * f.rows * 65536 * 24
    ∧ f.recordOff i j = f.base + ((j / 256 * f.cols + i / 256) * 65536 + (j % 256) * 256 + i % 256) * 24
    ∧ f.base ≤ f.recordOff i j ∧ f.recordOff i j + 24 ≤ f.base + f.regionBytes
    ∧ ((i, j) ≠ (i', j') → f.recordOff i j + 24 ≤ f.recordOff i' j' ∨ f.recordOff i' j' + 24 ≤ f.recordOff i j)

/-- R114, R179, R180: a record in the ranges of its fields reads back as it was written, and a share of a calibrated value keeps it there:
the sum of weights stays at most 65280 for each share counted, the weighted sum at most 2^28 - 1 for each unit of weight. Below a count of
65535 the share is made: sums, count, highest deposit, and CLAMPED for a clamped value; at 65535 it changes nothing but the mask. -/
def Obligations.AccumulatorRecordKeepsItsRange : Prop :=
  ∀ (r : AccRecord), r.InRange →
    (∀ (m : List Host.Cell) (off : Nat), off + 24 ≤ Config.memSize →
      readRecord (Memory.writeBytes m off r.bytes) off = r)
    ∧ ∀ (V : Int) (w : Nat) (c : Bool), V.natAbs ≤ 268435455 → w ≤ 65280 →
      (r.share V w c).1.InRange
      ∧ ((r.share V w c).2 = true ↔ r.count < 65535)
      ∧ (r.count < 65535 → (r.share V w c).1.fsum = r.fsum + V * w ∧ (r.share V w c).1.wsum = r.wsum + w
        ∧ (r.share V w c).1.count = r.count + 1
        ∧ ((r.share V w c).1.hiValue, (r.share V w c).1.hiWeight)
            = (if r.count = 0 ∨ r.hiValue < V then (V, w) else (r.hiValue, r.hiWeight))
        ∧ (r.share V w c).1.mask = if c then r.mask ||| 4 else r.mask)
      ∧ (r.count = 65535 → (r.share V w c).1
          = { r with mask := r.mask ||| 8 ||| (if c then 4 else 0) })

/-- R110, R112, R113, R114, R117, R119, R120: one share handed to the canvas. In an ACCUMULATING cell it changes the 24 bytes of its record
and, when it is made, the exposure list. A VACANT cell is zeroed first and becomes ACCUMULATING; a FINALIZED cell becomes ACCUMULATING too,
with STALE written over the product state its last product shows. When the read of the record then meets memory errors, the cell becomes
SPOILED, the share is dropped and the record is not written; one error is counted, however many the read meets (the model's reading, log
16), and FAULT raised. In a SPOILED cell a share is dropped before any read. -/
def Obligations.ShareOnACell : Prop :=
  ∀ (s : State) (f : Fin 4) (fd : Field) (i j : Nat) (d : DirCell) (tag : Tag) (V : Int) (w : Nat) (c : Bool),
    let cell := j / 256 * fd.cols + i / 256
    let off := fd.recordOff i j
    let r := s.touchShare f i j tag V w c
    let d' : DirCell := { d with state := .accumulating }
    let met : Prop := ∃ e ∈ s.errs, e.by_ = .accumulator ∧ off ≤ e.at_ ∧ e.at_ < off + 24
    let cells (x : DirCell) : Vector (Option Field) 4 := s.fields.set f (some { fd with cells := fd.cells.set cell x })
    let takes (m : List Host.Cell) : Prop :=
      (¬ met → Touches [.mem, .fields] s r.1
        ∧ r.1.mem = Memory.writeBytes m off ((readRecord m off).share V w c).1.bytes
        ∧ r.2 = (if ((readRecord m off).share V w c).2 then .made else .refusedFull)
        ∧ r.1.fields = cells (if ((readRecord m off).share V w c).2 then d'.noteExposure tag else d'))
      ∧ (met → Touches [.mem, .fields, .alert, .mirror, .messages] s r.1
        ∧ r.1.mem = m ∧ r.2 = .droppedSpoiled ∧ r.1.fields = cells { d with state := .spoiled }
        ∧ r.1.alert = { s.alert with
            pending := { s.alert.pending with fault := true },
            memErrors := s.alert.memErrors.set 2 (min (s.alert.memErrors[2] + 1) 4294967295) })
    s.fields[f] = some fd → fd.cells[cell]? = some d →
    (d.state = .accumulating → takes s.mem)
    ∧ (d.state = .spoiled → r = (s, .droppedSpoiled))
    ∧ (d.state = .vacant → takes (Memory.zero s.mem (fd.base + cell * 1572864) 1572864))
    ∧ (d.state = .finalized → d.last = none → takes s.mem)
    ∧ (∀ p, d.state = .finalized → d.last = some p → 0x1000 ≤ p → p + 4 ≤ 0x3D8000000 →
      (∀ (k : Fin 4) (g : Field), s.fields[k] = some g → p + 4 ≤ g.base ∨ g.base + g.regionBytes ≤ p) →
      takes (Memory.writeBytes s.mem p [3, 0, 0, 0]))

/-- R82, R83, R89, R96, R98 to R102, R110, R111, R114, R115: one image pixel on a field whose cells are ACCUMULATING, no memory error met. A
target without split weight, or outside the field, touches nothing. A target of a SATURATED or BAD pixel inside the field takes the mask
effect, whatever its weight would be. One of a DEPOSIT pixel takes the share of weight split × exposure weight / 256, and nothing when that
is 0. No other record and no byte outside the field changes. The counts gain the pixel and its shares clipped and refused FULL, and the
cells that took a deposit are noted. -/
def Obligations.PixelOnTheCanvas : Prop :=
  ∀ (s : State) (o : Assembly) (fd : Field) (p : Placement) (x y : Nat) (out : PixelOutcome) (res : Results) (made : Bool)
    (cells : List Nat),
    let a := depositPixel o p x y out ⟨s, res, made, cells⟩
    let ts := targets (p.A * x + p.B * y + p.Cu) (p.Dc * x + p.E * y + p.Cv)
    let inside (t : Target) : Prop := (0 ≤ t.i ∧ t.i < 256 * fd.cols) ∧ 0 ≤ t.j ∧ t.j < 256 * fd.rows
    let off (t : Target) : Nat := fd.recordOff t.i.toNat t.j.toNat
    let weight (t : Target) : Nat := t.split * o.weight / 256
    let takes (t : Target) : Prop := (t.split ≠ 0 ∧ inside t) ∧ weight t ≠ 0
    let full (t : Target) : Prop := (readRecord s.mem (off t)).count = 65535
    s.fields[o.field] = some fd → fd.Ok → o.width = 256 * fd.cols → o.height = 256 * fd.rows → o.weight ≤ 255 → s.errs = [] →
    (∀ d ∈ fd.cells, d.state = .accumulating) →
    (∀ i j, i < 256 * fd.cols → j < 256 * fd.rows → (readRecord s.mem (fd.recordOff i j)).InRange) →
    (∀ V c, out = .deposit V c → V.natAbs ≤ 268435455) → res.clipped ≤ 4294967295 → res.refusedFull ≤ 4294967295 →
    Touches [.mem, .fields] s a.st
    ∧ (∀ b, b < fd.base ∨ fd.base + fd.cols * fd.rows * 1572864 ≤ b → Memory.read a.st.mem b = Memory.read s.mem b)
    ∧ (∀ i j, i < 256 * fd.cols → j < 256 * fd.rows → (∀ t ∈ ts, t.split ≠ 0 → ¬ (t.i = i ∧ t.j = j)) →
      readRecord a.st.mem (fd.recordOff i j) = readRecord s.mem (fd.recordOff i j))
    ∧ (∀ t ∈ ts, t.split ≠ 0 → inside t →
      let old := readRecord s.mem (off t)
      (out = .saturated → readRecord a.st.mem (off t) = { old with mask := old.mask ||| 1 })
      ∧ (out = .bad → readRecord a.st.mem (off t) = { old with mask := old.mask ||| 2 })
      ∧ ∀ V c, out = .deposit V c →
        readRecord a.st.mem (off t) = if weight t = 0 then old else (old.share V (weight t) c).1)
    ∧ (out = .saturated →
      a.res = { res with saturated := min (res.saturated + 1) 4294967295 } ∧ a.made = made ∧ a.cells = cells)
    ∧ (out = .bad → a.res = { res with bad := min (res.bad + 1) 4294967295 } ∧ a.made = made ∧ a.cells = cells)
    ∧ ∀ V c, out = .deposit V c →
      a.res = { res with
        clamped := if c then min (res.clamped + 1) 4294967295 else res.clamped
        clipped := min (res.clipped + ts.countP fun t : Target => decide (t.split ≠ 0)
          && !decide ((0 ≤ t.i ∧ t.i < 256 * fd.cols) ∧ 0 ≤ t.j ∧ t.j < 256 * fd.rows)) 4294967295
        refusedFull := min (res.refusedFull + ts.countP fun t : Target => decide (t.split ≠ 0)
          && decide ((0 ≤ t.i ∧ t.i < 256 * fd.cols) ∧ 0 ≤ t.j ∧ t.j < 256 * fd.rows) && decide (weight t ≠ 0)
          && decide ((readRecord s.mem (off t)).count = 65535)) 4294967295 }
      ∧ (a.made = true ↔ made = true ∨ ∃ t ∈ ts, takes t ∧ ¬ full t)
      ∧ ∀ k, k ∈ a.cells ↔ k ∈ cells
        ∨ ∃ t ∈ ts, (takes t ∧ ¬ full t) ∧ k = t.j.toNat / 256 * fd.cols + t.i.toNat / 256

/-- R109, R122, R123, R161 to R164, R168: CLEAR_FIELD. A POSTED one fails with BAD_FIELD or BAD_RECT, or is in flight with its rectangle cut
at the field's edge. CELL_CLEAR: the next cell of it, in row order, becomes VACANT with an empty entry, and no accumulator record changes.
After the last cell the order retires OK with the number of cells cleared and leaves flight: a HALTED walker with RUN set does nothing
further, a RUNNING one with RUN set makes an examination (here of a FREE record, or parked with its next field still 0), and with RUN clear
the walker enters STOPPED, unless an ASSEMBLE is still in flight. With no CLEAR_FIELD in flight CELL_CLEAR changes nothing. -/
def Obligations.CellClearInRowOrder : Prop :=
  ∀ (s : State) (errs : List MemErr),
    (s.Presents 3 →
      let c := s.walker.cursor
      let r : Rect := ⟨Memory.readNat s.mem (c + 42) 2, Memory.readNat s.mem (c + 44) 2, Memory.readNat s.mem (c + 46) 2,
        Memory.readNat s.mem (c + 48) 2⟩
      ((∀ f : Fin 4, Memory.readNat s.mem (c + 40) 1 = f.val → s.fields[f] = none) → s.FailsTakeUp .badField)
      ∧ ∀ (f : Fin 4) (fd : Field), Memory.readNat s.mem (c + 40) 1 = f.val → s.fields[f] = some fd →
        let good : Prop := (0 < r.width ∧ 0 < r.height) ∧ r.col < fd.cols ∧ r.row < fd.rows
        (¬ good → s.FailsTakeUp .badRect)
        ∧ (good → ∃ t, s.TakesInto t [.service] ∧ t.service = some (.clearField c f
          ⟨r.col, r.row, min r.width (fd.cols - r.col), min r.height (fd.rows - r.row)⟩ 0)))
    ∧ (∀ (rec : Nat) (f : Fin 4) (r : Rect) (k : Nat) (fd : Field), s.service = some (.clearField rec f r k) →
      s.fields[f] = some fd →
      let cell := (r.row + k / r.width) * fd.cols + (r.col + k % r.width)
      let cleared : Vector (Option Field) 4 :=
        s.fields.set f (some { fd with cells := fd.cells.set cell ⟨.vacant, 0, [], false, none⟩ })
      (k + 1 < r.width * r.height → exec (.cellClear errs) s = .next { s with
        errs := errs, fields := cleared, service := some (.clearField rec f r (k + 1)) })
      ∧ (r.width * r.height ≤ k + 1 → rec + 128 ≤ Config.memSize → Memory.readNat s.mem rec 4 = 2 →
        let ends (w : Walker) : Prop := ∃ t, exec (.cellClear []) s = .next t
          ∧ Touches [.mem, .fields, .service, .walker, .mirror, .alert, .messages, .errs] s t
          ∧ t.fields = cleared ∧ t.service = none ∧ s.RetiresAnd t rec .ok [k + 1] w
        let gone := s.retiredWalker rec
        (s.Halted → ends gone)
        ∧ (s.Examines → s.WaitsBeside rec → ends { gone with pollTimer := some (s.timeBase + s.port.poll.toNat) })
        ∧ (s.port.control.run = false → s.walker.state ≠ .stopped → s.deposit = .idle →
          ends { gone with state := .stopped, pollTimer := none })
        ∧ (s.port.control.run = false → s.walker.state = .stopped ∨ s.deposit ≠ .idle → ends gone)))
    ∧ ((∀ rec f r k, s.service ≠ some (.clearField rec f r k)) →
      exec (.cellClear errs) s = .next { s with errs := errs })

/-! ### The deposit unit and the service unit -/

/-- R78, R81, R132, R135, R137: the reads for one row, and ROW_DEPOSIT in ROW_FOLLOWING. Host writes that land while the reads are under
way, an operand of the command (the model's choice, log 46), act as HOST_WRITE commands, one after the other. An entry of the linearity
table, of the flat plane row or of the bias plane row is read whole from memory as it stood before the first write that came after its
read, or as the last write left it. The search goes from the turn upward and around; a segment it passes has no
served slot, or one with no row ready that is not COMPLETE. It serves an awaited segment's slot, FILLING (before the deadline) or COMPLETE,
or the LATE slot of a segment under drain; here the row neither finishes the slot nor ends the order. Without a memory error the row's
pixels are taken in order (`depositPixels`), the results and cells take what they gave, the deposit cursor moves past the row and the turn
past the segment. When a read of the row meets a memory error, the row counts as missing, nothing is deposited, and cursor and turn move all
the same. With no order SERVING nothing changes but what the host writes change. -/
def Obligations.RowDepositInRowFollowing : Prop :=
  (∀ s : State, s.landRowWrites [] = s ∧ s.rowViews [] = []
      ∧ ∀ (w : RowWrite) (ws : List RowWrite), ∃ u, exec (.hostWrite w.off w.bytes) s = .next u
        ∧ s.landRowWrites (w :: ws) = u.landRowWrites ws ∧ s.rowViews (w :: ws) = ⟨s.mem, w.before⟩ :: u.rowViews ws)
  ∧ (∀ (m : List Host.Cell) (views : List RowView) (amp : Amp) (e : SegEntry) (n : SlotNo) (r : Nat),
      let row := readRow m views amp e n r
      let at_ (x : RowEntry) (off : Nat) : Nat :=
        Memory.readNat (((views.find? fun v => decide (x ∈ v.read)).map RowView.mem).getD m) off 2
      row.samples = (List.range e.rowLen).map (fun i => Memory.readNat m (0x3D8000000 + n.val * 4587520 + r * 2240 + 2 * i) 2)
      ∧ row.lut = (List.range 1024).map (fun i => at_ (.table i) (amp.lut + 2 * i))
      ∧ row.flat = (if amp.flat = 0 then none
        else some ((List.range e.image).map fun x => at_ (.flat x) (amp.flat + (r * e.image + x) * 2)))
      ∧ row.bias = (if amp.mode = .plane
        then some ((List.range e.image).map fun x => at_ (.bias x) (amp.bias + (r * e.image + x) * 2)) else none))
  ∧ ∀ (s : State) (reads : RowReads),
    let landed := s.landRowWrites reads.during
    ((∀ o, s.deposit ≠ .serving o) → exec (.rowDeposit reads) s = .next { landed with errs := reads.errs })
    ∧ ∀ (o : Assembly) (seg : SegNo) (j : Nat) (n : SlotNo) (sl : Slot) (r : Nat) (bank : Bank) (e : SegEntry) (p : Placement),
      let amp := bank.amps[seg]
      let s₀ : State := { landed with errs := reads.errs }
      let moved : Vector (Option Slot) 128 := s.slots.set n (some { sl with cursor := r + 1 })
      let serves (g : SegNo) (m : SlotNo) : Prop :=
        (s.awaits o g = true
            ∧ s.slotIn o.tag g (if o.deadlinePassed then [.complete] else [.filling, .complete]) = some m)
          ∨ (s.awaits o g = false ∧ g ∈ o.draining ∧ s.slotIn o.tag g [.late] = some m)
      s.deposit = .serving o → o.tileComplete = false → j < 64 → seg = o.turn + Fin.ofNat 64 j →
      (∀ i < j, ∀ (m : SlotNo) (x : Slot), serves (o.turn + Fin.ofNat 64 i) m → s.slots[m] = some x →
        x.state ≠ .complete ∧ ∀ q ∈ x.rows, q < x.cursor) →
      serves seg n → s.slots[n] = some sl → sl.rows.Pairwise (· < ·) → sl.Next r →
      (sl.state = .filling ∨ (∃ q ∈ sl.rows, r < q) ∨ (sl.state = .late ∧ ∃ g, s.awaits o g = true)) →
      s.banks[o.bank] = some bank → o.map[seg] = some e → o.place[seg] = some p →
      (reads.errs = [] →
        let a := depositPixels o amp bank.defects seg e p (readRow landed.mem (s.rowViews reads.during) amp e n r) r
          ⟨s₀, o.results, o.made, []⟩
        ∃ t, exec (.rowDeposit reads) s = .next t
          ∧ Touches [.mem, .past, .fields, .slots, .deposit, .errs] landed t
          ∧ t.mem = a.st.mem ∧ t.fields = (a.st.noteDeposits o.field a.cells).fields ∧ t.slots = moved
          ∧ t.deposit = .serving { o with results := a.res, made := a.made, turn := seg + 1 })
      ∧ ((∃ x ∈ rowReads amp e n r, s₀.readErr x.1 x.2.1 x.2.2.1 = true) →
        ∃ t, exec (.rowDeposit reads) s = .next t
          ∧ Touches [.alert, .messages, .mirror, .slots, .deposit, .errs] landed t
          ∧ t.alert.pending = { landed.alert.pending with fault := true } ∧ t.slots = moved
          ∧ t.deposit = .serving { o with
              turn := seg + 1,
              results := { o.results with rowsMissing := min (o.results.rowsMissing + 1) 4294967295 } })

/-- R132, R133, R134: ROW_DEPOSIT in TILE_COMPLETE serves the current segment's COMPLETE slot, or, with no current segment, makes current
the lowest awaited segment with a COMPLETE slot and serves that; with none, it waits and nothing changes. The row that empties a COMPLETE
slot, in either mode, finishes its deposit: the slot is freed with reason DEPOSITED and its segment settled DEPOSITED, the rows never stored
are counted missing, and there is no current segment (no other segment has a COMPLETE slot here, and one is still awaited). Host writes may
land while the row's reads are under way (log 46), beside which the step changes the parts listed alone. -/
def Obligations.RowDepositOfCompleteSlots : Prop :=
  ∀ (s : State) (o : Assembly) (during : List RowWrite), s.deposit = .serving o →
    let landed := s.landRowWrites during
    let tile (g : SegNo) : Prop := s.awaits o g = true ∧ s.slotIn o.tag g [.complete] ≠ none
    (∀ errs : List MemErr, o.tileComplete = true → o.current = none → (∀ g, ¬ tile g) → (∃ g, s.awaits o g = true) →
      exec (.rowDeposit ⟨during, errs⟩) s = .next { landed with errs := errs })
    ∧ ∀ (seg : SegNo) (n : SlotNo) (sl : Slot) (r : Nat) (bank : Bank) (e : SegEntry) (p : Placement),
      let amp := bank.amps[seg]
      let a := depositPixels o amp bank.defects seg e p (readRow landed.mem (s.rowViews during) amp e n r) r
        ⟨{ landed with errs := [] }, o.results, o.made, []⟩
      let chosen : Prop := o.current = some seg ∨ (o.current = none ∧ ∀ g < seg, ¬ tile g)
      s.awaits o seg = true → s.slotIn o.tag seg [.complete] = some n → s.slots[n] = some sl → sl.rows.Pairwise (· < ·) →
      sl.Next r → s.banks[o.bank] = some bank → o.map[seg] = some e → o.place[seg] = some p →
      (o.tileComplete = true → chosen → (∃ q ∈ sl.rows, r < q) → ∃ t, exec (.rowDeposit ⟨during, []⟩) s = .next t
        ∧ Touches [.mem, .past, .fields, .slots, .deposit, .errs] landed t
        ∧ t.mem = a.st.mem ∧ t.fields = (a.st.noteDeposits o.field a.cells).fields
        ∧ t.slots = s.slots.set n (some { sl with cursor := r + 1 })
        ∧ t.deposit = .serving { o with results := a.res, made := a.made, current := some seg })
      ∧ ∀ (q : Fin 4) (x : ExpEntry), (∀ i ∈ sl.rows, i ≤ r) → (∃ g, g ≠ seg ∧ s.awaits o g = true) →
        s.placeOf o.tag = some q → s.exposures[q] = some x → x.state = .assembling →
        let emptied (turn : SegNo) : Prop := ∃ t, exec (.rowDeposit ⟨during, []⟩) s = .next t
          ∧ Touches [.mem, .past, .fields, .slots, .exposures, .mirror, .deposit, .errs] landed t
          ∧ t.mem = a.st.mem ∧ t.fields = (a.st.noteDeposits o.field a.cells).fields
          ∧ s.SettlesAndFrees t n { sl with cursor := r + 1 } .deposited .deposited q x
          ∧ t.deposit = .serving { o with
              results := a.res.finished sl, made := a.made, turn := turn,
              current := if o.tileComplete = true ∨ o.current = some seg then none else o.current }
        (o.tileComplete = true → chosen → (∀ g, g ≠ seg → ¬ tile g) → emptied o.turn)
        ∧ (o.tileComplete = false → o.turn = seg → o.deadlinePassed = true ∨ s.slotIn o.tag seg [.filling, .complete] = some n →
          emptied (seg + 1))

/-- R55, R66, R131, R133, R137 to R140: how a SERVING order settles segments and ends. A COMPLETE slot with no row ready finishes DEPOSITED,
and any other slot is left by that test. A slot whose row length or map rows differ from the map copy is freed MISMATCH and its segment
settled MISSING; one that agrees is left before the deadline, and after it, FILLING, becomes LATE with its segment settled LATE, and is
drained in ROW_FOLLOWING. While a segment is awaited or a LATE slot drains, the end test changes nothing. A ROW_DEPOSIT that finds neither
(walker HALTED here) ends the order: EMPTY when no share was made, PARTIAL when a present segment is MISSING or LATE or rows or shares were
lost, else OK, with the eleven results in the record's order, whatever host writes it carries (log 46, the record still TAKEN after them);
the entry becomes ASSEMBLED, and is removed when it holds no slot. That a drain ended by the freeing of its slot (R138) is seen at the next
ROW_DEPOSIT, and the order ends there, is the model's choice (log 27). -/
def Obligations.SettlingAndTheEndOfAnAssemble : Prop :=
  ∀ (s : State) (o : Assembly), s.deposit = .serving o →
    let draining : Prop := ∃ g ∈ o.draining, ∃ (n : SlotNo) (sl : Slot), s.slotIn o.tag g [.late] = some n
      ∧ s.slots[n] = some sl ∧ ∃ q ∈ sl.rows, sl.cursor ≤ q
    (∀ (n : SlotNo) (sl : Slot) (p : Fin 4) (e : ExpEntry) (g : SegEntry), s.slots[n] = some sl → sl.tag = o.tag →
      s.awaits o sl.seg = true → s.placeOf o.tag = some p → s.exposures[p] = some e → e.state = .assembling →
      o.map[sl.seg] = some g →
      let agrees : Prop := sl.rowLen = g.rowLen ∧ sl.mapRows = g.rows
      (sl.state = .complete → (∀ q ∈ sl.rows, q < sl.cursor) →
        Touches [.exposures, .slots, .mirror, .deposit] s (s.finishTest n)
        ∧ s.SettlesAndFrees (s.finishTest n) n sl .deposited .deposited p e
        ∧ (s.finishTest n).deposit = .serving { o with
            results := o.results.finished sl, current := if o.current = some sl.seg then none else o.current })
      ∧ (sl.state ≠ .complete ∨ (∃ q ∈ sl.rows, sl.cursor ≤ q) → s.finishTest n = s)
      ∧ (¬ agrees →
        Touches [.exposures, .slots, .mirror, .deposit] s (s.examineSlot n)
        ∧ s.SettlesAndFrees (s.examineSlot n) n sl .mismatch .missing p e
        ∧ (s.examineSlot n).deposit = .serving { o with results := { o.results with
            missing := min (o.results.missing + 1) 4294967295, mismatched := min (o.results.mismatched + 1) 4294967295 } })
      ∧ (agrees → o.deadlinePassed = false ∨ sl.state ≠ .filling → s.examineSlot n = s)
      ∧ (agrees → o.deadlinePassed = true → sl.state = .filling →
        Touches [.exposures, .slots, .deposit] s (s.examineSlot n)
        ∧ (s.examineSlot n).slots = s.slots.set n (some { sl with state := .late })
        ∧ (s.examineSlot n).exposures = s.exposures.set p (some { e with outcomes := e.outcomes.set sl.seg .late })
        ∧ (s.examineSlot n).deposit = .serving { o with
            results := { o.results with
              late := min (o.results.late + 1) 4294967295
              rowsMissing := min (o.results.rowsMissing + (sl.expected - sl.rows.length)) 4294967295 }
            draining := if o.tileComplete then o.draining else o.draining ++ [sl.seg] }))
    ∧ ((∃ g, s.awaits o g = true) ∨ draining → s.endTest = s)
    ∧ ∀ (p : Fin 4) (e : ExpEntry) (during : List RowWrite), (∀ g, s.awaits o g = false) → ¬ draining → s.placeOf o.tag = some p →
      let landed := s.landRowWrites during
      s.exposures[p] = some e → landed.StillTaken o.record →
      let lost : Prop := (∃ g : SegNo, (o.map[g]).isSome = true ∧ (e.outcomes[g] = .missing ∨ e.outcomes[g] = .late))
        ∨ 0 < o.results.rowsMissing ∨ 0 < o.results.droppedSpoiled
      let ends (st : Status) : Prop := ∃ t, exec (.rowDeposit ⟨during, []⟩) s = .next t
        ∧ Touches [.mem, .past, .exposures, .deposit, .walker, .mirror, .alert, .messages, .errs] landed t ∧ landed.KeepsPast t
        ∧ t.deposit = .idle
        ∧ t.exposures = s.exposures.set p (if e.held = 0 then none else some { e with state := .assembled })
        ∧ landed.Retires t o.record st [o.results.deposited, o.results.missing, o.results.late, o.results.mismatched,
            o.results.rowsMissing, o.results.saturated, o.results.bad, o.results.clamped, o.results.clipped,
            o.results.refusedFull, o.results.droppedSpoiled]
      (o.made = false → ends .empty) ∧ (o.made = true → lost → ends .partial_) ∧ (o.made = true → ¬ lost → ends .ok)

/-- R130, R137, R138, R140, R168: DEADLINE_EXPIRY. Before the expiry time, without one, with the deadline already passed, and with the unit
IDLE, nothing changes. In WAITING (walker HALTED, so that no examination follows) the order retires DONE with EMPTY and every present
segment missing. In SERVING, with the table and the pool agreeing, no FILLING slot of the exposure is left for a segment still
awaited. -/
def Obligations.DeadlineExpiryOfAnAssemble : Prop :=
  ∀ (s : State) (errs : List MemErr),
    ((∀ o, s.assembly = some o → ∀ q, o.expiry = some q →
        s.timeBase < q ∨ (s.deposit = .serving o ∧ o.deadlinePassed = true)) →
      exec (.deadlineExpiry errs) s = .next { s with errs := errs })
    ∧ ∀ (o : Assembly) (q : Nat), o.expiry = some q → q ≤ s.timeBase → s.Halted →
      (s.deposit = .waiting o → s.StillTaken o.record →
        ∃ t, exec (.deadlineExpiry []) s = .next t
          ∧ Touches [.mem, .past, .deposit, .walker, .mirror, .alert, .messages, .errs] s t ∧ s.KeepsPast t
          ∧ t.deposit = .idle
          ∧ s.Retires t o.record .empty [0, (List.finRange 64).countP (fun seg => (o.map[seg]).isSome)])
      ∧ (s.deposit = .serving o → o.deadlinePassed = false → s.PoolOk →
        ∃ t, exec (.deadlineExpiry errs) s = .next t
          ∧ (t.deposit = .idle ∨ ∃ o', t.deposit = .serving o' ∧ o'.deadlinePassed = true)
          ∧ ∀ (n : SlotNo) (sl : Slot), t.slots[n] = some sl → sl.tag = o.tag → sl.state = .filling →
              t.awaits o sl.seg = false)

/-- R121, R145 to R148, R153, R163, R164, R167, R168: FINALIZE. A POSTED one makes its checks in their order and fails with the status of
the first that fails, or is in flight with its rectangle cut at the field's edge. FINALIZE_CELL_OPENING writes WRITING over the product
state of the cell's product and starts its rows from the cell's state. FINALIZE_CELL_CLOSING writes the header: CURRENT, the field, the
cell, its sky origin, state, overflow, reject, tags and counts, the order's record and the time, the rest 0. Then the cell takes the
product-written event and the order goes on to the next cell; after the last (walker HALTED here) it retires with its counts, and memory
outside header and record is as before. Out of phase, neither event changes anything. -/
def Obligations.FinalizeTakeUpOpeningAndClosing : Prop :=
  ∀ (s : State) (errs : List MemErr),
    (s.Presents 2 →
      let c := s.walker.cursor
      let r : Rect := ⟨Memory.readNat s.mem (c + 42) 2, Memory.readNat s.mem (c + 44) 2, Memory.readNat s.mem (c + 46) 2,
        Memory.readNat s.mem (c + 48) 2⟩
      let base := Memory.readNat s.mem (c + 56) 8
      ((∀ f : Fin 4, Memory.readNat s.mem (c + 40) 1 = f.val → s.fields[f] = none) → s.FailsTakeUp .badField)
      ∧ ∀ (f : Fin 4) (fd : Field), Memory.readNat s.mem (c + 40) 1 = f.val → s.fields[f] = some fd →
        let good : Prop := (0 < r.width ∧ 0 < r.height) ∧ r.col < fd.cols ∧ r.row < fd.rows
        let cut : Rect := ⟨r.col, r.row, min r.width (fd.cols - r.col), min r.height (fd.rows - r.row)⟩
        let size := cut.width * cut.height * 659456
        let fits : Prop := base % 4096 = 0 ∧ 0x1000 ≤ base ∧ base + size ≤ 0x3D8000000
        let apart : Prop := ∀ (i : Fin 4) (g : Field), s.fields[i] = some g →
          ¬ Shares base size g.base (g.cols * g.rows * 1572864)
        (¬ good → s.FailsTakeUp .badRect)
        ∧ (good → ¬ fits → s.FailsTakeUp .regionRange)
        ∧ (good → fits → ¬ apart → s.FailsTakeUp .regionOverlap)
        ∧ (good → fits → apart → ∃ t, s.TakesInto t [.service] ∧ t.service = some (.finalize
            { record := c, field := f, rect := cut, base := base, reject := decide (Memory.readNat s.mem (c + 41) 1 ≠ 0),
              k := 0, phase := .opening, shown := .vacant, cellNoData := 0, cellRejected := 0, written := 0, noData := 0,
              rejected := 0, anySpoiled := false })))
    ∧ (∀ (o : Finalize) (fd : Field) (d : DirCell), s.service = some (.finalize o) → s.fields[o.field] = some fd →
      let col := o.rect.col + o.k % o.rect.width
      let row := o.rect.row + o.k / o.rect.width
      let cell := row * fd.cols + col
      let off := o.base + o.k * 659456
      let last : Prop := o.rect.width * o.rect.height ≤ o.k + 1
      let after : DirCell := if d.state = .vacant then d
        else { d with last := some off, state := if d.state = .spoiled then .spoiled else .finalized }
      let next : Finalize := { o with
        k := o.k + 1, phase := .opening, written := min (o.written + 1) 4294967295,
        noData := min (o.noData + o.cellNoData) 4294967295, rejected := min (o.rejected + o.cellRejected) 4294967295,
        anySpoiled := o.anySpoiled || decide (o.shown = .spoiled) }
      fd.cells[cell]? = some d →
      (o.phase = .opening → exec .finalizeCellOpening s = .next { s with
        mem := Memory.writeBytes s.mem off [1, 0, 0, 0],
        service := some (.finalize { o with
          phase := .rows 0 (decide (d.state = .vacant ∨ d.state = .spoiled)), shown := d.state,
          cellNoData := 0, cellRejected := 0 }) })
      ∧ (o.phase = .closing → off + 659456 ≤ Config.memSize → col < 256 → row < 256 → d.exposures.length ≤ 8 →
        (last → s.StillTaken o.record ∧ (o.record + 128 ≤ off ∨ off + 659456 ≤ o.record)) →
        ∃ t, exec (.finalizeCellClosing []) s = .next t
          ∧ Touches [.mem, .fields, .service, .walker, .mirror, .alert, .messages, .errs] s t
          ∧ t.fields = s.fields.set o.field (some { fd with cells := fd.cells.set cell after })
          ∧ (let shows (at_ n v : Nat) : Prop := Memory.readNat t.mem (off + at_) n = v
            shows 0 4 2 ∧ shows 4 1 o.field.val ∧ shows 5 1 o.shown.code ∧ shows 6 1 col ∧ shows 7 1 row
            ∧ shows 8 1 ((if d.overflow then 1 else 0) + (if o.reject then 2 else 0)) ∧ shows 9 1 d.exposures.length
            ∧ shows 16 8 ((fd.ou + 256 * col) % 2 ^ 64).toNat ∧ shows 24 8 ((fd.ov + 256 * row) % 2 ^ 64).toNat
            ∧ shows 32 4 (d.deposits % 2 ^ 32) ∧ shows 36 4 (o.cellNoData % 2 ^ 32) ∧ shows 40 4 (o.cellRejected % 2 ^ 32)
            ∧ shows 48 8 (o.record % 2 ^ 64) ∧ shows 56 8 (s.timeBase % 2 ^ 64)
            ∧ (∀ i < 8, shows (64 + 2 * i) 2 (match d.exposures[i]? with
              | some tag => tag.toNat
              | none => 0))
            ∧ ∀ a, (10 ≤ a ∧ a < 16) ∨ (44 ≤ a ∧ a < 48) ∨ (80 ≤ a ∧ a < 4096) → shows a 1 0)
          ∧ (¬ last → Memory.sameOutside s.mem t.mem off 4096 ∧ t.service = some (.finalize next)
            ∧ t.walker = s.walker ∧ t.alert = s.alert ∧ t.messages = s.messages ∧ t.mirror = s.mirror)
          ∧ (last → t.service = none
            ∧ Memory.recordShows t.mem o.record (if next.anySpoiled then .partial_ else .ok)
              [next.written, next.noData, next.rejected] s.timeBase
            ∧ (∀ a, (a < off ∨ off + 4096 ≤ a) → (a < o.record ∨ o.record + 128 ≤ a) →
              Memory.read t.mem a = Memory.read s.mem a)
            ∧ t.walker = { s.walker with retired := (s.walker.retired + 1) % 2 ^ 32, lastRetired := o.record }
            ∧ t.alert = s.alertRetirement.alert ∧ t.messages = s.alertRetirement.messages)))
    ∧ ((∀ o, s.service = some (.finalize o) → o.phase ≠ .opening) → exec .finalizeCellOpening s = .next s)
    ∧ ((∀ o, s.service = some (.finalize o) → o.phase ≠ .closing) →
      exec (.finalizeCellClosing errs) s = .next { s with errs := errs })

/-- R147 to R152: FINALIZE_CELL_ROW. Each of the 256 pixels of the in-cell row takes its place in the three planes: NODATA for a cell
without records or a record without weight, else the rounded mean of its record, without its highest deposit when rejection applies; the
cell's counts gain the pixels published with NODATA and with REJECTED. A record that meets a memory error spoils the cell and starts its
rows and counts again as SPOILED. Every other byte, other rows of the planes among them, reads as before. Out of phase nothing changes. -/
def Obligations.FinalizePublishesARow : Prop :=
  ∀ (s : State) (errs : List MemErr),
    (∀ (o : Finalize) (fd : Field) (q : Nat) (blank : Bool), s.service = some (.finalize o) → s.fields[o.field] = some fd →
      o.phase = .rows q blank → q < 256 →
      let cell := (o.rect.row + o.k / o.rect.width) * fd.cols + (o.rect.col + o.k % o.rect.width)
      let off := o.base + o.k * 659456
      let recs := fd.base + (cell * 65536 + q * 256) * 24
      let record (p : Nat) : AccRecord := readRecord s.mem (recs + p * 24)
      let met : Prop := ∃ e ∈ errs, e.by_ = .accumulator ∧ recs ≤ e.at_ ∧ e.at_ < recs + 256 * 24
      (blank = true ∨ ¬ met → off + 659456 ≤ Config.memSize → ∃ t, exec (.finalizeCellRow errs) s = .next t
        ∧ Touches [.mem, .service, .errs] s t
        ∧ (∀ a, ¬ (off + 4096 + q * 1024 ≤ a ∧ a < off + 4096 + (q + 1) * 1024) →
            ¬ (off + 266240 + q * 1024 ≤ a ∧ a < off + 266240 + (q + 1) * 1024) →
            ¬ (off + 528384 + q * 512 ≤ a ∧ a < off + 528384 + (q + 1) * 512) → Memory.read t.mem a = Memory.read s.mem a)
        ∧ (∀ p < 256,
          let r := record p
          let shown (v : Int) (w mask : Nat) : Prop :=
            Memory.readNat t.mem (off + 4096 + (q * 256 + p) * 4) 4 = (v % 2 ^ 32).toNat
            ∧ Memory.readNat t.mem (off + 266240 + (q * 256 + p) * 4) 4 = w % 2 ^ 32
            ∧ Memory.readNat t.mem (off + 528384 + (q * 256 + p) * 2) 2 = mask
          (blank = true → shown 0 0 (if o.shown = .spoiled then 96 else 32))
          ∧ (blank = false → r.wsum = 0 → shown 0 0 (r.mask ||| 32))
          ∧ (blank = false → 0 < r.wsum → o.reject = false ∨ r.count < 3 → shown (roundDiv r.fsum r.wsum) r.wsum r.mask)
          ∧ (blank = false → 0 < r.wsum → o.reject = true → 3 ≤ r.count →
            shown (roundDiv (r.fsum - r.hiValue * r.hiWeight) (r.wsum - r.hiWeight)) (r.wsum - r.hiWeight) (r.mask ||| 16)))
        ∧ t.service = some (.finalize { o with
            phase := if q + 1 < 256 then .rows (q + 1) blank else .closing
            cellNoData := o.cellNoData + if blank then 256
              else (List.range 256).countP fun p => decide ((record p).wsum = 0)
            cellRejected := o.cellRejected + if blank then 0
              else (List.range 256).countP fun p =>
                decide (0 < (record p).wsum) && o.reject && decide (3 ≤ (record p).count) }))
      ∧ (blank = false → met → ∀ d, fd.cells[cell]? = some d → ∃ t, exec (.finalizeCellRow errs) s = .next t
        ∧ Touches [.fields, .service, .alert, .mirror, .messages, .errs] s t
        ∧ t.fields = s.fields.set o.field (some { fd with cells := fd.cells.set cell { d with state := .spoiled } })
        ∧ t.alert.pending = { s.alert.pending with fault := true }
        ∧ t.service = some (.finalize { o with
            phase := .rows 0 true, shown := .spoiled, cellNoData := 0, cellRejected := 0 })))
    ∧ ((∀ o, s.service = some (.finalize o) → ∀ q blank, o.phase ≠ .rows q blank) →
      exec (.finalizeCellRow errs) s = .next { s with errs := errs })

/-- R72 to R76, R163, R164, R167, R168: DEFINE_BANK. A POSTED one with a bank number above 7 fails with BAD_BANK; any other empties entry k,
and fails with NO_MAP or is in flight with the map's entries kept. DEFINE_BANK_END (walker HALTED here, so that no examination follows)
makes the checks of R74 and R75 in their order, over the record as its reads found it, each byte at a moment that the command gives between
the take-up and now (`asRead`; the model's choice, log 48). A record that passes them all makes entry k VALID with the parameters the record
holds and retires OK; any other leaves entry k and retires FAILED with the status of the check. A read that meets memory errors retires it
MEMORY_FAULT and counts one error, however many it meets (the model's reading, log 16). With no define in flight nothing changes. -/
def Obligations.DefineBankTakeUpAndEnd : Prop :=
  ∀ (s : State) (reads : MemReads),
    let errs := reads.errs
    (s.Presents 5 →
      let c := s.walker.cursor
      let number := Memory.readNat s.mem (c + 40) 1
      (7 < number → s.FailsTakeUp .badBank)
      ∧ ∀ k : Fin 8, number = k.val →
        (s.loader.inUse = none → ∃ t, s.TakesAndRetires t .noMap [] [.banks] ∧ t.banks = s.banks.set k none)
        ∧ ∀ m : FocalMap, s.loader.inUse = some m → ∃ t, s.TakesInto t [.banks, .service]
          ∧ t.banks = s.banks.set k none ∧ t.past = []
          ∧ t.service = some (.defineBank c k (Memory.readNat s.mem (c + 56) 8) m.entries))
    ∧ (∀ (rec off : Nat) (k : Fin 8) (map : Vector (Option SegEntry) 64), s.service = some (.defineBank rec k off map) →
      s.StillTaken rec → (∀ e ∈ errs, e.by_ = .bankOrMap) →
      let m := s.asRead off reads.early
      let count := Memory.readNat m (off + 6) 2
      let met (a n : Nat) : Prop := ∃ e ∈ errs, a ≤ e.at_ ∧ e.at_ < a + n
      let region (n : Nat) : Prop := 0x1000 ≤ off ∧ off + n ≤ 0x3D8000000
      let header : Prop := Memory.readNat m off 4 = 0x4B4E4142 ∧ Memory.readNat m (off + 4) 1 = k.val ∧ count ≤ 1024
      let read (st : Status) (banks : Vector (Option Bank) 8) : Prop := ∃ t, exec (.defineBankEnd reads) s = .next t
        ∧ Touches [.mem, .banks, .service, .walker, .mirror, .alert, .messages, .errs] s t ∧ t.service = none
        ∧ t.banks = banks ∧ s.Retires t rec st [] ∧ t.alert.memErrors = s.alert.memErrors
      let unreadable : Prop := ∃ t, exec (.defineBankEnd reads) s = .next t
        ∧ Touches [.mem, .service, .walker, .mirror, .alert, .messages, .errs] s t ∧ t.service = none
        ∧ s.Retires t rec .memoryFault [] ∧ t.alert.pending.fault = true
        ∧ t.alert.memErrors = s.alert.memErrors.set 4 (min (s.alert.memErrors[4] + 1) 4294967295)
      let passes (b : Bank) : Prop := b.defects.length = count ∧ b.StoredAt m off
        ∧ (∀ seg : SegNo, b.amps[seg].Fits map[seg]) ∧ ∀ d ∈ b.defects, d.Fits map
      (¬ region 16 → read .regionRange s.banks)
      ∧ (region 16 → met off 16 → unreadable)
      ∧ (region 16 → ¬ met off 16 → ¬ header → read .bankCheck s.banks)
      ∧ (¬ met off 16 → header → region 16 → ¬ region (3088 + 12 * count) → read .regionRange s.banks)
      ∧ (¬ met off 16 → header → region (3088 + 12 * count) →
        (met (off + 16) (3072 + 12 * count) → unreadable)
        ∧ (¬ met (off + 16) (3072 + 12 * count) →
          (∀ b, passes b → read .ok (s.banks.set k (some b)))
          ∧ ((∀ b, ¬ passes b) → read .bankCheck s.banks))))
    ∧ ((∀ rec k off map, s.service ≠ some (.defineBank rec k off map)) →
      exec (.defineBankEnd reads) s = .next { s with errs := errs })

/-! ### Invariants of the whole part -/

/-- Every block is good after power-on. -/
def Obligations.ResetIsGood : Prop := State.reset.Ok

/-- From every state, every step keeps board memory in its canonical form (the model's own form of R157's bytes). -/
def Obligations.EveryStepKeepsMemory : Prop := StepKeeps State.MemoryOk

/-- R13, R14, R19, R25, R26, R35, R52: every step keeps each link receiver within its bounds and consistent in what it names. -/
def Obligations.EveryStepKeepsTheLinks : Prop := StepKeeps State.LinksOk

/-- R1, R2, R4, R7, R8, R73, R75, R76: every step keeps the map loader consistent and its map in use checked, and with it the bank table:
every VALID entry satisfies the checks that speak of the bank alone. -/
def Obligations.EveryStepKeepsLoaderAndBanks : Prop :=
  StepKeeps State.LoaderOk ∧ StepKeeps (fun s => s.LoaderOk ∧ s.BanksOk)

/-- R47, R56, R58, R62: every step keeps the exposure table and the tile pool in agreement. -/
def Obligations.EveryStepKeepsThePool : Prop := StepKeeps State.PoolOk

/-- R105, R106, R108, R109, R117, R121: every step keeps the fields in range and their regions apart, and their cells good. -/
def Obligations.EveryStepKeepsTheFields : Prop := StepKeeps State.FieldsOk

/-- R166: every step keeps apart an ASSEMBLE and a service order that names its field. -/
def Obligations.EveryStepKeepsOrdersApart : Prop := StepKeeps State.OrdersOk

/-- R26, R161, R162, R168, R170, R172: every step keeps the poll timer stopped outside RUNNING, the retired count a 32-bit count, and the
alert unit's and the host port's counts at or below their maximum. -/
def Obligations.EveryStepKeepsWalkerAndAlerts : Prop :=
  StepKeeps State.WalkerOk ∧ StepKeeps State.AlertOk

/-- R157, R165, R169: the progress block is written by the part's mirror writes alone. Every step keeps the orders in flight out of it, and
no command but POWER_ON and MIRROR_WRITE_LANDS changes a byte of it, when the fields and the orders in flight lie outside it. -/
def Obligations.ProgressBlockIsWrittenByMirrorsAlone : Prop :=
  StepKeeps (fun s => s.FieldsOk ∧ s.PlacesOk)
  ∧ ∀ (c : Instr) (s t : State), s.FieldsOk → s.PlacesOk → c ≠ .powerOn → (∀ off, c ≠ .mirrorWriteLands off) →
      exec c s = .next t → ∀ a < 0x1000, Memory.read t.mem a = Memory.read s.mem a
end

