-- ==== Sys2Proof/Laws/Memory.lean ====
section
/-! SUPPORT. Board memory: every operation keeps the canonical form, a byte written reads back, and every other byte reads as
before. -/

set_option Elab.async false

namespace Sys2Proof.Machine

/-! ### Reading a list of cells -/

theorem Memory.read_of_forall_ne (m : List Host.Cell) (a : Nat) (h : ∀ c ∈ m, c.1 ≠ a) :
    Memory.read m a = Memory.fill := by
  induction m with
  | nil => rfl
  | cons c m ih =>
    rw [Memory.read, if_neg (h c (by simp))]
    exact ih fun d hd => h d (by simp [hd])

theorem Memory.read_append_left (m n : List Host.Cell) (a : Nat) (h : ∀ c ∈ n, c.1 ≠ a) :
    Memory.read (m ++ n) a = Memory.read m a := by
  induction m with
  | nil => exact Memory.read_of_forall_ne n a h
  | cons c m ih => simp only [List.cons_append, Memory.read, ih]

theorem Memory.read_append_right (m n : List Host.Cell) (a : Nat) (h : ∀ c ∈ m, c.1 ≠ a) :
    Memory.read (m ++ n) a = Memory.read n a := by
  induction m with
  | nil => rfl
  | cons c m ih =>
    rw [List.cons_append, Memory.read, if_neg (h c (by simp))]
    exact ih fun d hd => h d (by simp [hd])

theorem Memory.read_filter (m : List Host.Cell) (p : Host.Cell → Bool) (a : Nat) (h : ∀ c ∈ m, c.1 = a → p c = true) :
    Memory.read (m.filter p) a = Memory.read m a := by
  induction m with
  | nil => rfl
  | cons c m ih =>
    have i := ih fun d hd => h d (by simp [hd])
    by_cases hc : c.1 = a
    · simp [h c (by simp) hc, Memory.read, hc]
    · by_cases hp : p c = true
      · simp [hp, Memory.read, hc, i]
      · simp [hp, Memory.read, hc, i]

/-! ### The cells of a run of bytes -/

theorem Memory.cells_mem (bs : List Byte) (off : Nat) (c : Host.Cell) (h : c ∈ Memory.cells off bs) :
    (off ≤ c.1 ∧ c.1 < off + bs.length) ∧ c.2 ≠ Memory.fill ∧ c.1 < Config.memSize := by
  induction bs generalizing off with
  | nil => simp [Memory.cells] at h
  | cons b bs ih =>
    have g (hm : c ∈ Memory.cells (off + 1) bs) := ih (off + 1) hm
    simp only [Memory.cells] at h
    split at h
    · have := g h
      exact ⟨⟨by omega, by simp only [List.length_cons]; omega⟩, this.2⟩
    · next hn =>
      rcases List.mem_cons.mp h with rfl | hm
      · simp only [not_or, not_le] at hn
        exact ⟨⟨Nat.le_refl _, by simp⟩, hn⟩
      · have := g hm
        exact ⟨⟨by omega, by simp only [List.length_cons]; omega⟩, this.2⟩

theorem Memory.cells_pairwise (bs : List Byte) (off : Nat) :
    (Memory.cells off bs).Pairwise fun x y => x.1 < y.1 := by
  induction bs generalizing off with
  | nil => exact List.Pairwise.nil
  | cons b bs ih =>
    simp only [Memory.cells]
    split
    · exact ih (off + 1)
    · exact List.Pairwise.cons (fun c hc => by have := Memory.cells_mem bs (off + 1) c hc; show off < c.1; omega) (ih _)

theorem Memory.read_cells (bs : List Byte) (off i : Nat) (hi : i < bs.length) (hm : off + i < Config.memSize) :
    Memory.read (Memory.cells off bs) (off + i) = bs[i] := by
  induction bs generalizing off i with
  | nil => simp at hi
  | cons b bs ih =>
    have away : Memory.read (Memory.cells (off + 1) bs) off = Memory.fill :=
      Memory.read_of_forall_ne _ _ fun c hc => by have := Memory.cells_mem bs (off + 1) c hc; omega
    cases i with
    | zero =>
      simp only [Memory.cells]
      split
      · next h =>
        have : b = Memory.fill := h.resolve_right (by omega)
        simpa [this] using away
      · simp [Memory.read]
    | succ i =>
      have g := ih (off + 1) i (by simpa using hi) (by omega)
      have e : off + 1 + i = off + (i + 1) := by omega
      rw [e] at g
      simp only [Memory.cells]
      split
      · simpa using g
      · simpa [Memory.read] using g

/-! ### Writes -/

/-- A write keeps the canonical form. -/
theorem Memory.writeBytes_wf (m : List Host.Cell) (off : Nat) (bs : List Byte) (h : Memory.wf m) :
    Memory.wf (Memory.writeBytes m off bs) := by
  obtain ⟨hp, hc⟩ := h
  refine ⟨?_, fun c hm => ?_⟩
  · refine List.pairwise_append.mpr ⟨List.pairwise_append.mpr
      ⟨hp.filter _, Memory.cells_pairwise bs off, fun x hx y hy => ?_⟩, hp.filter _, fun x hx y hy => ?_⟩
    · have := Memory.cells_mem bs off y hy
      have := List.of_mem_filter hx
      simp only [decide_eq_true_eq] at this
      omega
    · have g := List.of_mem_filter hy
      simp only [decide_eq_true_eq] at g
      rcases List.mem_append.mp hx with hx | hx
      · have := List.of_mem_filter hx
        simp only [decide_eq_true_eq] at this
        omega
      · have := Memory.cells_mem bs off x hx
        omega
  · rcases List.mem_append.mp hm with hm | hm
    · rcases List.mem_append.mp hm with hm | hm
      · exact hc c (List.mem_of_mem_filter hm)
      · exact (Memory.cells_mem bs off c hm).2
    · exact hc c (List.mem_of_mem_filter hm)

/-- A byte inside a write reads as the byte written. -/
theorem Memory.read_writeBytes (m : List Host.Cell) (off : Nat) (bs : List Byte) (i : Nat) (hi : i < bs.length)
    (hm : off + i < Config.memSize) : Memory.read (Memory.writeBytes m off bs) (off + i) = bs[i] := by
  unfold Memory.writeBytes
  rw [Memory.read_append_left, Memory.read_append_right]
  · exact Memory.read_cells bs off i hi hm
  · intro c hc
    have := List.of_mem_filter hc
    simp only [decide_eq_true_eq] at this
    omega
  · intro c hc
    have := List.of_mem_filter hc
    simp only [decide_eq_true_eq] at this
    omega

/-- A byte outside a write reads as before. -/
theorem Memory.read_writeBytes_outside (m : List Host.Cell) (off : Nat) (bs : List Byte) (a : Nat)
    (ha : a < off ∨ off + bs.length ≤ a) : Memory.read (Memory.writeBytes m off bs) a = Memory.read m a := by
  unfold Memory.writeBytes
  have hc : ∀ c ∈ Memory.cells off bs, c.1 ≠ a := fun c hc => by have := Memory.cells_mem bs off c hc; omega
  rcases ha with ha | ha
  · rw [Memory.read_append_left, Memory.read_append_left _ _ _ hc, Memory.read_filter]
    · exact fun c _ e => by simp only [decide_eq_true_eq]; omega
    · intro c hf
      have := List.of_mem_filter hf
      simp only [decide_eq_true_eq] at this
      omega
  · rw [List.append_assoc, Memory.read_append_right, Memory.read_append_right _ _ _ hc, Memory.read_filter]
    · exact fun c _ e => by simp only [decide_eq_true_eq]; omega
    · intro c hf
      have := List.of_mem_filter hf
      simp only [decide_eq_true_eq] at this
      omega

/-- Zeroing keeps the canonical form. -/
theorem Memory.zero_wf (m : List Host.Cell) (off n : Nat) (h : Memory.wf m) : Memory.wf (Memory.zero m off n) :=
  ⟨h.1.filter _, fun c hc => h.2 c (List.mem_of_mem_filter hc)⟩

/-- A zeroed byte reads as 0. -/
theorem Memory.read_zero (m : List Host.Cell) (off n a : Nat) (ha : off ≤ a ∧ a < off + n) :
    Memory.read (Memory.zero m off n) a = 0 :=
  Memory.read_of_forall_ne _ _ fun c hc => by
    have := List.of_mem_filter hc
    simp only [decide_eq_true_eq] at this
    omega

/-- A byte outside a zeroed range reads as before. -/
theorem Memory.read_zero_outside (m : List Host.Cell) (off n a : Nat) (ha : a < off ∨ off + n ≤ a) :
    Memory.read (Memory.zero m off n) a = Memory.read m a :=
  Memory.read_filter m _ a fun c _ e => by simp only [decide_eq_true_eq]; omega

/-! ### Fields of bytes -/

theorem leBytes_length (n v : Nat) : (leBytes n v).length = n := by
  induction n generalizing v with
  | zero => rfl
  | succ n ih => simp [leBytes, ih]

/-- A field's bytes give the value back, cut to the field. -/
theorem leNat_leBytes (n v : Nat) : leNat (leBytes n v) = v % 256 ^ n := by
  induction n generalizing v with
  | zero => simp [leBytes, leNat, Nat.mod_one]
  | succ n ih =>
    simp only [leBytes, leNat, ih, BitVec.toNat_ofNat]
    exact (by rw [Nat.pow_succ', Nat.mod_mul] : v % 256 ^ (n + 1) = v % 256 + 256 * (v / 256 % 256 ^ n)).symm

theorem Memory.readBytes_length (m : List Host.Cell) (off n : Nat) : (Memory.readBytes m off n).length = n := by
  induction n generalizing off with
  | zero => rfl
  | succ n ih => simp [Memory.readBytes, ih]

/-- Bytes outside a write read as before. -/
theorem Memory.readBytes_writeBytes_outside (m : List Host.Cell) (off : Nat) (bs : List Byte) (a n : Nat)
    (ha : a + n ≤ off ∨ off + bs.length ≤ a) :
    Memory.readBytes (Memory.writeBytes m off bs) a n = Memory.readBytes m a n := by
  induction n generalizing a with
  | zero => rfl
  | succ n ih =>
    rw [Memory.readBytes, Memory.readBytes, Memory.read_writeBytes_outside _ _ _ _ (by omega), ih _ (by omega)]

/-- A run of bytes written reads back. -/
theorem Memory.readBytes_writeBytes (m : List Host.Cell) (off : Nat) (bs : List Byte)
    (h : off + bs.length ≤ Config.memSize) : Memory.readBytes (Memory.writeBytes m off bs) off bs.length = bs := by
  have g (k : Nat) (i : Nat) (hk : i + k = bs.length) :
      Memory.readBytes (Memory.writeBytes m off bs) (off + i) k = bs.drop i := by
    induction k generalizing i with
    | zero => simp [Memory.readBytes, List.drop_eq_nil_of_le (show bs.length ≤ i by omega)]
    | succ k ih =>
      have hi : i < bs.length := by omega
      rw [Memory.readBytes, Memory.read_writeBytes m off bs i hi (by omega), List.drop_eq_getElem_cons hi]
      have := ih (i + 1) (by omega)
      rw [← Nat.add_assoc] at this
      rw [this]
  simpa using g bs.length 0 (by omega)

/-- Part of a run of bytes written reads back. -/
theorem Memory.readBytes_writeBytes_part (m : List Host.Cell) (off : Nat) (bs : List Byte) (i n : Nat)
    (hn : i + n ≤ bs.length) (h : off + bs.length ≤ Config.memSize) :
    Memory.readBytes (Memory.writeBytes m off bs) (off + i) n = (bs.drop i).take n := by
  induction n generalizing i with
  | zero => simp [Memory.readBytes]
  | succ n ih =>
    have hi : i < bs.length := by omega
    rw [Memory.readBytes, Memory.read_writeBytes m off bs i hi (by omega), List.drop_eq_getElem_cons hi, List.take_succ_cons]
    have := ih (i + 1) (by omega)
    rw [← Nat.add_assoc] at this
    rw [this]

/-- A field of a run of bytes written reads back. -/
theorem Memory.readNat_writeBytes (m : List Host.Cell) (off : Nat) (bs : List Byte) (i n : Nat)
    (hn : i + n ≤ bs.length) (h : off + bs.length ≤ Config.memSize) :
    Memory.readNat (Memory.writeBytes m off bs) (off + i) n = leNat ((bs.drop i).take n) := by
  rw [Memory.readNat, Memory.readBytes_writeBytes_part m off bs i n hn h]

/-- A field outside a write reads as before. -/
theorem Memory.readNat_writeBytes_outside (m : List Host.Cell) (off : Nat) (bs : List Byte) (a n : Nat)
    (ha : a + n ≤ off ∨ off + bs.length ≤ a) :
    Memory.readNat (Memory.writeBytes m off bs) a n = Memory.readNat m a n := by
  rw [Memory.readNat, Memory.readBytes_writeBytes_outside m off bs a n ha, Memory.readNat]

/-- The memory at power-on is in canonical form. -/
theorem Memory.start_wf : Memory.wf Memory.start := by decide

end Sys2Proof.Machine
end

