-- ==== Sys2Proof/Laws/Touch.lean ====
section
/-! SUPPORT. What an operation touches: the parts of the state it may change (`Touches`, Safety.lean). One such lemma for each
operation says, once, what it leaves unchanged: `h .mem (by decide)` is the equation of the board memory. -/

set_option Elab.async false

namespace Sys2Proof.Machine

theorem State.sameAt_refl (s : State) (p : Part) : s.sameAt s p := by cases p <;> rfl

theorem State.sameAt_trans {s t u : State} {p : Part} (h : s.sameAt t p) (g : t.sameAt u p) : s.sameAt u p := by
  cases p <;> exact Eq.trans g h

theorem Touches.refl (ps : List Part) (s : State) : Touches ps s s := fun p _ => s.sameAt_refl p

theorem Touches.mono {ps qs : List Part} {s t : State} (h : Touches ps s t) (hq : ∀ p ∈ ps, p ∈ qs := by decide) :
    Touches qs s t := fun p hp => h p fun hm => hp (hq p hm)

theorem Touches.trans {ps : List Part} {s t u : State} (h : Touches ps s t) (g : Touches ps t u) : Touches ps s u :=
  fun p hp => State.sameAt_trans (h p hp) (g p hp)

/-- Two operations one after the other, each within the parts `rs`. -/
theorem Touches.andThen {ps qs rs : List Part} {s t u : State} (h : Touches ps s t) (g : Touches qs t u)
    (hp : ∀ p ∈ ps, p ∈ rs := by decide) (hq : ∀ p ∈ qs, p ∈ rs := by decide) : Touches rs s u :=
  (h.mono hp).trans (g.mono hq)

/-- A choice between two operations that both stay within `ps`. -/
theorem Touches.ite {ps : List Part} {s t u : State} {c : Prop} [Decidable c] (ht : Touches ps s t) (hu : Touches ps s u) :
    Touches ps s (if c then t else u) := by
  split
  · exact ht
  · exact hu

/-- A fold whose every step stays within `ps` stays within `ps`. -/
theorem Touches.foldl {α : Type} {ps : List Part} (f : State → α → State) (h : ∀ s a, Touches ps s (f s a)) (l : List α)
    (s : State) : Touches ps s (l.foldl f s) := by
  induction l generalizing s with
  | nil => exact Touches.refl ps s
  | cons a l ih => exact (h s a).trans (ih (f s a))

end Sys2Proof.Machine
end

