-- ==== Sys2Proof/Laws/TouchBase.lean ====
section
/-! SUPPORT. What the alert operations and the operations over links, places, slots, the walker and a retirement touch. -/

set_option Elab.async false

namespace Sys2Proof.Machine

variable (s : State)

/-! ### One part written -/

theorem touches_mem (m : List Host.Cell) : Touches [.mem] s { s with mem := m } := by
  intro p hp; cases p <;> first | rfl | exact absurd (by decide) hp

theorem touches_loader (x : Loader) : Touches [.loader] s { s with loader := x } := by
  intro p hp; cases p <;> first | rfl | exact absurd (by decide) hp

theorem touches_links (x : Vector Link 4) : Touches [.links] s { s with links := x } := by
  intro p hp; cases p <;> first | rfl | exact absurd (by decide) hp

theorem touches_exposures (x : Vector (Option ExpEntry) 4) : Touches [.exposures] s { s with exposures := x } := by
  intro p hp; cases p <;> first | rfl | exact absurd (by decide) hp

theorem touches_slots (x : Vector (Option Slot) 128) : Touches [.slots] s { s with slots := x } := by
  intro p hp; cases p <;> first | rfl | exact absurd (by decide) hp

theorem touches_banks (x : Vector (Option Bank) 8) : Touches [.banks] s { s with banks := x } := by
  intro p hp; cases p <;> first | rfl | exact absurd (by decide) hp

theorem touches_fields (x : Vector (Option Field) 4) : Touches [.fields] s { s with fields := x } := by
  intro p hp; cases p <;> first | rfl | exact absurd (by decide) hp

theorem touches_deposit (x : DepositUnit) : Touches [.deposit] s { s with deposit := x } := by
  intro p hp; cases p <;> first | rfl | exact absurd (by decide) hp

theorem touches_service (x : Option ServiceOrder) : Touches [.service] s { s with service := x } := by
  intro p hp; cases p <;> first | rfl | exact absurd (by decide) hp

theorem touches_walker (x : Walker) : Touches [.walker] s { s with walker := x } := by
  intro p hp; cases p <;> first | rfl | exact absurd (by decide) hp

theorem touches_alert (x : AlertUnit) : Touches [.alert] s { s with alert := x } := by
  intro p hp; cases p <;> first | rfl | exact absurd (by decide) hp

theorem touches_port (x : HostPort) : Touches [.port] s { s with port := x } := by
  intro p hp; cases p <;> first | rfl | exact absurd (by decide) hp

theorem touches_readData (x : List Byte) : Touches [.readData] s { s with readData := x } := by
  intro p hp; cases p <;> first | rfl | exact absurd (by decide) hp

theorem touches_errs (x : List MemErr) : Touches [.errs] s { s with errs := x } := by
  intro p hp; cases p <;> first | rfl | exact absurd (by decide) hp

theorem touches_past (x : List (List Host.Cell)) : Touches [.past] s { s with past := x } := by
  intro p hp; cases p <;> first | rfl | exact absurd (by decide) hp

theorem touches_freeTaken (x : Nat) : Touches [.freeTaken] s { s with freeTaken := x } := by
  intro p hp; cases p <;> first | rfl | exact absurd (by decide) hp

/-! ### Alerts -/

theorem queueMirror_touches (off : Nat) (bytes : List Byte) : Touches [.mirror] s (s.queueMirror off bytes) := by
  intro p hp; cases p <;> first | rfl | exact absurd (by decide) hp

theorem mirrorIf_touches (c : Bool) (off n v : Nat) : Touches [.mirror] s (s.mirrorIf c off n v) := by
  unfold State.mirrorIf
  split
  · exact queueMirror_touches s _ _
  · exact Touches.refl _ s

theorem sendMessage_touches : Touches [.messages] s s.sendMessage := by
  intro p hp; cases p <;> first | rfl | exact absurd (by decide) hp

theorem raise_touches (c : Cause) : Touches [.alert, .messages] s (s.raise c) := by
  unfold State.raise
  split
  · exact Touches.refl _ s
  · dsimp only
    split
    · exact (touches_alert s _).andThen (sendMessage_touches _)
    · exact (touches_alert s _).mono

theorem acknowledge_touches (named : Causes) : Touches [.alert, .messages] s (s.acknowledge named) := by
  unfold State.acknowledge
  dsimp only
  split
  · exact (touches_alert s _).andThen (sendMessage_touches _)
  · exact (touches_alert s _).mono

theorem memError_touches (src : MemSource) : Touches [.alert, .mirror, .messages] s (s.memError src) := by
  unfold State.memError
  exact ((touches_alert s _).andThen (mirrorIf_touches _ _ _ _ _) : Touches [.alert, .mirror] _ _).andThen
    (raise_touches _ _)

theorem testMark_touches : Touches [.alert, .messages] s s.testMark := by
  unfold State.testMark
  split
  · exact raise_touches s _
  · exact Touches.refl _ s

theorem alertRetirement_touches : Touches [.alert, .messages] s s.alertRetirement := by
  unfold State.alertRetirement
  exact ((touches_alert s _).andThen (testMark_touches _) : Touches [.alert, .messages] _ _).andThen (touches_alert _ _)

/-! ### Reads under way -/

theorem startReads_touches : Touches [.past] s s.startReads := touches_past s _

theorem noteMemory_touches (before : State) : Touches [.past] s (s.noteMemory before) :=
  Touches.ite (touches_past s _) (Touches.refl _ s)

/-! ### Links, places and slots -/

theorem setLink_touches (l : LinkNo) (k : Link) : Touches [.links] s (s.setLink l k) := touches_links s _

theorem count_touches (l : LinkNo) (c : LinkCounter) (n : Nat) : Touches [.links, .mirror] s (s.count l c n) := by
  unfold State.count
  exact (setLink_touches s _ _).andThen (mirrorIf_touches _ _ _ _ _)

theorem setPlace_touches (p : Fin 4) (new : Option ExpEntry) : Touches [.exposures, .mirror] s (s.setPlace p new) := by
  have m (t : State) (c : Bool) (off n v : Nat) : Touches [.exposures, .mirror] t (t.mirrorIf c off n v) :=
    (mirrorIf_touches t c off n v).mono
  have e := (touches_exposures s (s.exposures.set p new)).mono (qs := [.exposures, .mirror])
  unfold State.setPlace
  dsimp only
  split
  · exact e
  · exact e.trans (m _ _ _ _ _)
  · exact (((((e.trans (m _ _ _ _ _)).trans (m _ _ _ _ _)).trans (m _ _ _ _ _)).trans (m _ _ _ _ _)).trans
      (m _ _ _ _ _)).trans (m _ _ _ _ _)
  · exact ((((e.trans (m _ _ _ _ _)).trans (m _ _ _ _ _)).trans (m _ _ _ _ _)).trans (m _ _ _ _ _)).trans
      (m _ _ _ _ _)

theorem mapEntry_touches (tag : Tag) (f : ExpEntry → ExpEntry) :
    Touches [.exposures, .mirror] s (s.mapEntry tag f) := by
  unfold State.mapEntry
  split
  · split
    · exact setPlace_touches s _ _
    · exact Touches.refl _ s
  · exact Touches.refl _ s

theorem removalCheck_touches (tag : Tag) : Touches [.exposures, .mirror] s (s.removalCheck tag) := by
  unfold State.removalCheck
  split
  · split
    · split
      · exact setPlace_touches s _ _
      · exact Touches.refl _ s
    · exact Touches.refl _ s
  · exact Touches.refl _ s

theorem setSlot_touches (n : SlotNo) (new : Option Slot) : Touches [.slots, .mirror] s (s.setSlot n new) := by
  unfold State.setSlot
  exact (touches_slots s _).andThen (mirrorIf_touches _ _ _ _ _)

theorem freeSlotAs_touches (why : FreeReason) (n : SlotNo) :
    Touches [.exposures, .slots, .mirror] s (s.freeSlotAs why n) := by
  unfold State.freeSlotAs
  split
  · exact Touches.refl _ s
  · exact (((queueMirror_touches s _ _).andThen (setSlot_touches _ _ _) : Touches [.slots, .mirror] _ _).andThen
      (mapEntry_touches _ _ _) : Touches [.exposures, .slots, .mirror] _ _).andThen (removalCheck_touches _ _)

/-! ### The walker and retirement -/

theorem setWalker_touches (w : Walker) : Touches [.walker, .mirror] s (s.setWalker w) := by
  have m (t : State) (c : Bool) (off n v : Nat) : Touches [.walker, .mirror] t (t.mirrorIf c off n v) :=
    (mirrorIf_touches t c off n v).mono
  have e := (touches_walker s w).mono (qs := [.walker, .mirror])
  exact ((((((e.trans (m _ _ _ _ _)).trans (m _ _ _ _ _)).trans (m _ _ _ _ _)).trans (m _ _ _ _ _)).trans
    (m _ _ _ _ _)).trans (m _ _ _ _ _)).trans (m _ _ _ _ _)

theorem faultRecord_touches (why : FaultReason) (off : Nat) :
    Touches [.walker, .mirror, .alert, .messages] s (s.faultRecord why off) := by
  unfold State.faultRecord
  exact (setWalker_touches s _).andThen (raise_touches _ _)

theorem retire_touches (off : Nat) (st : Status) (results : List Nat) :
    Touches [.mem, .walker, .mirror, .alert, .messages] s (s.retire off st results) := by
  unfold State.retire
  split
  · exact (memError_touches s _).andThen (faultRecord_touches _ _ _)
  · split
    · exact ((touches_mem s _).andThen (setWalker_touches _ _) : Touches [.mem, .walker, .mirror] _ _).andThen
        (alertRetirement_touches _)
    · exact (faultRecord_touches s _ _).mono

end Sys2Proof.Machine
end

