-- ==== Sys2Proof/Laws/Ops.lean ====
section
/-! SUPPORT. What each shared operation writes, once: with its frame lemma (`…_touches`) it is all the operation can do. -/

set_option Elab.async false

namespace Sys2Proof.Machine

variable (s : State)

/-! ### Alerts -/

/-- Raising a cause adds it to the pending set, and leaves the rest of the alert unit. -/
theorem raise_alert (c : Cause) : (s.raise c).alert = { s.alert with pending := s.alert.pending.add c } := by
  unfold State.raise
  split
  · rename_i h
    have e : s.alert.pending.add c = s.alert.pending := by
      cases c <;> simp only [Causes.has] at h <;> simp only [Causes.add, ← h]
    rw [e]
  · dsimp only
    split <;> rfl

/-- Raising a cause sends at most one message. -/
theorem raise_messages (c : Cause) :
    (s.raise c).messages = s.messages ∨ (s.raise c).messages = s.messages + 1 := by
  unfold State.raise
  split
  · exact .inl rfl
  · dsimp only
    split
    · exact .inr rfl
    · exact .inl rfl

theorem mirrorIf_alert (b : Bool) (off n v : Nat) : (s.mirrorIf b off n v).alert = s.alert :=
  mirrorIf_touches s b off n v .alert (by decide)

/-- R173: a memory error adds 1 to the count of its source and raises FAULT. -/
theorem memError_alert (src : MemSource) :
    (s.memError src).alert = { s.alert with
      pending := s.alert.pending.add .fault,
      memErrors := s.alert.memErrors.set src.idx (satAdd s.alert.memErrors[src.idx] 1) } := by
  unfold State.memError
  dsimp only
  rw [raise_alert, mirrorIf_alert]

/-! ### Links, places and slots -/

theorem mirrorIf_links (b : Bool) (off n v : Nat) : (s.mirrorIf b off n v).links = s.links :=
  mirrorIf_touches s b off n v .links (by decide)

/-- R26: a count moves one counter of one link, up to its maximum. -/
theorem count_links (l : LinkNo) (c : LinkCounter) (n : Nat) :
    (s.count l c n).links = s.links.set l
      { s.links[l] with counters := s.links[l].counters.set c.idx (satAdd s.links[l].counters[c.idx] n) } := by
  unfold State.count
  exact mirrorIf_links _ _ _ _ _

theorem mirrorIf_slots (b : Bool) (off n v : Nat) : (s.mirrorIf b off n v).slots = s.slots :=
  mirrorIf_touches s b off n v .slots (by decide)

theorem setSlot_slots (n : SlotNo) (new : Option Slot) : (s.setSlot n new).slots = s.slots.set n new := by
  unfold State.setSlot
  exact mirrorIf_slots _ _ _ _ _

theorem mirrorIf_exposures (b : Bool) (off n v : Nat) : (s.mirrorIf b off n v).exposures = s.exposures :=
  mirrorIf_touches s b off n v .exposures (by decide)

theorem setPlace_exposures (p : Fin 4) (new : Option ExpEntry) :
    (s.setPlace p new).exposures = s.exposures.set p new := by
  unfold State.setPlace
  dsimp only
  split <;> simp only [mirrorIf_exposures]

/-- R66: freeing a slot that is not FREE makes that slot FREE and no other. -/
theorem freeSlotAs_slots (why : FreeReason) (n : SlotNo) (sl : Slot) (h : s.slots[n] = some sl) :
    (s.freeSlotAs why n).slots = s.slots.set n none := by
  have r (t : State) (tag : Tag) : (t.removalCheck tag).slots = t.slots := removalCheck_touches t tag .slots (by decide)
  have m (t : State) (tag : Tag) (f : ExpEntry → ExpEntry) : (t.mapEntry tag f).slots = t.slots :=
    mapEntry_touches t tag f .slots (by decide)
  unfold State.freeSlotAs
  rw [h]
  dsimp only
  rw [r, m, setSlot_slots]
  rfl

/-! ### The walker and retirement -/

theorem mirrorIf_walker (b : Bool) (off n v : Nat) : (s.mirrorIf b off n v).walker = s.walker :=
  mirrorIf_touches s b off n v .walker (by decide)

theorem setWalker_walker (w : Walker) : (s.setWalker w).walker = w := by
  unfold State.setWalker
  simp only [mirrorIf_walker]

theorem faultRecord_walker (why : FaultReason) (off : Nat) :
    (s.faultRecord why off).walker = { s.walker with faultReason := why, faultOffset := off } := by
  unfold State.faultRecord
  rw [raise_touches _ _ .walker (by decide), setWalker_walker]

theorem faultRecord_alert (why : FaultReason) (off : Nat) :
    (s.faultRecord why off).alert = { s.alert with pending := s.alert.pending.add .fault } := by
  unfold State.faultRecord
  rw [raise_alert, setWalker_touches _ _ .alert (by decide)]

/-- The writes of a retirement keep the memory's canonical form. -/
theorem recordResults_wf (off : Nat) (st : Status) (rs : List Nat) (time : Nat) (m : List Host.Cell) (h : Memory.wf m) :
    Memory.wf (recordResults off st rs time m) :=
  Memory.writeBytes_wf _ _ _ (Memory.writeBytes_wf _ _ _ (Memory.writeBytes_wf _ _ _ (Memory.writeBytes_wf _ _ _ h)))

theorem retire_wf (off : Nat) (st : Status) (rs : List Nat) (h : Memory.wf s.mem) : Memory.wf (s.retire off st rs).mem := by
  unfold State.retire
  split
  · rw [faultRecord_touches _ _ _ .mem (by decide), memError_touches _ _ .mem (by decide)]
    exact h
  · split
    · rw [alertRetirement_touches _ .mem (by decide), setWalker_touches _ _ .mem (by decide)]
      exact recordResults_wf _ _ _ _ _ h
    · rw [faultRecord_touches _ _ _ .mem (by decide)]
      exact h

/-! ### The reads of a load or of a define (R8, R74) -/

/-- A step that leaves board memory as it is notes nothing. -/
theorem noteMemory_of_mem_eq (before : State) (h : s.mem = before.mem) : s.noteMemory before = s := by
  simp [State.noteMemory, h]

/-- Where no order was reading, nothing is noted. -/
theorem noteMemory_of_not_reading (before : State) (h : before.reading = none) : s.noteMemory before = s := by
  simp [State.noteMemory, h]

/-- Where an order reads on through a change of board memory, the memory before the change is noted. -/
theorem noteMemory_of_reading (before : State) (r : Nat) (hb : before.reading = some r) (hs : s.reading = some r)
    (h : s.mem ≠ before.mem) : s.noteMemory before = { s with past := s.past ++ [before.mem] } := by
  simp [State.noteMemory, hb, hs, h]

@[simp] theorem asRead_nil (off : Nat) : s.asRead off [] = s.mem := rfl

theorem listedMoment_le (now : Nat) (early : List EarlyRead) (a : Nat) : listedMoment now early a ≤ now := by
  induction early with
  | nil => exact Nat.le_refl _
  | cons r rs ih => unfold listedMoment; split <;> omega

theorem listedMoment_of_not_listed (now : Nat) (early : List EarlyRead) (a : Nat) (h : a ∉ early.flatMap EarlyRead.bytes) :
    listedMoment now early a = now := by
  induction early with
  | nil => rfl
  | cons r rs ih =>
    simp only [List.flatMap_cons, List.mem_append, not_or] at h
    rw [listedMoment, if_neg h.1, ih h.2]

/-- No byte is read after the present moment. -/
theorem foldl_max_eq_of_le (now : Nat) (l : List Nat) (h : ∀ x ∈ l, x ≤ now) : l.foldl max now = now := by
  induction l with
  | nil => rfl
  | cons x l ih =>
    rw [List.foldl_cons, Nat.max_eq_left (h x (by simp))]
    exact ih fun y hy => h y (by simp [hy])

theorem readMoment_of_not_listed (now off : Nat) (early : List EarlyRead) (a : Nat) (h : a ∉ early.flatMap EarlyRead.bytes) :
    readMoment now off early a = now := by
  unfold readMoment
  rw [listedMoment_of_not_listed now early a h]
  dsimp only
  split
  · rfl
  · refine foldl_max_eq_of_le now _ fun x hx => ?_
    obtain ⟨i, -, rfl⟩ := List.mem_map.mp hx
    exact listedMoment_le _ _ _

/-- Bytes written one at a time, each with the value its offset gives. -/
theorem read_foldl_writeBytes (g : Nat → Byte) (l : List Nat) (m : List Host.Cell) (a : Nat) (ha : a < Config.memSize) :
    Memory.read (l.foldl (fun m b => Memory.writeBytes m b [g b]) m) a = if a ∈ l then g a else Memory.read m a := by
  induction l generalizing m with
  | nil => rfl
  | cons b l ih =>
    rw [List.foldl_cons, ih]
    by_cases hl : a ∈ l
    · simp [hl]
    · by_cases hb : a = b
      · subst hb
        have := Memory.read_writeBytes m a [g a] 0 (by simp) (by simpa using ha)
        simpa [hl] using this
      · rw [if_neg hl, if_neg (by simp [hl, hb]), Memory.read_writeBytes_outside _ _ _ _ (by simp; omega)]

/-- A byte of board memory as the reads found it is the one that stood at the moment it was read. -/
theorem asRead_read (off : Nat) (early : List EarlyRead) (a : Nat) (ha : a < Config.memSize) :
    Memory.read (s.asRead off early) a = Memory.read (s.memoryAt (readMoment s.past.length off early a)) a := by
  unfold State.asRead
  rw [read_foldl_writeBytes (fun a => Memory.read (s.memoryAt (readMoment s.past.length off early a)) a) _ _ a ha]
  split
  · rfl
  · next h => simp [readMoment_of_not_listed _ _ _ _ h, State.memoryAt]

/-! ### The reads of a row (R78) -/

@[simp] theorem landRowWrites_nil : s.landRowWrites [] = s := rfl

@[simp] theorem landRowWrites_cons (w : RowWrite) (ws : List RowWrite) :
    s.landRowWrites (w :: ws) = (s.hostStore w.off.toNat w.bytes).landRowWrites ws := rfl

@[simp] theorem rowViews_nil : s.rowViews [] = [] := rfl

@[simp] theorem rowViews_cons (w : RowWrite) (ws : List RowWrite) :
    s.rowViews (w :: ws) = ⟨s.mem, w.before⟩ :: (s.hostStore w.off.toNat w.bytes).rowViews ws := rfl

/-- An entry is read from the first view that has read it, or from the memory after every write. -/
theorem entryMemory_eq_find? (m : List Host.Cell) (views : List RowView) (x : RowEntry) :
    entryMemory m views x = ((views.find? fun v => decide (x ∈ v.read)).map RowView.mem).getD m := by
  induction views with
  | nil => rfl
  | cons v vs ih =>
    simp only [entryMemory, List.find?_cons]
    by_cases h : x ∈ v.read <;> simp [h, ih]

end Sys2Proof.Machine
end

