-- ==== Sys2Proof/Laws/State.lean ====
section
/-! SUPPORT. The named updates of the state, field by field: one lemma for each field of each update. -/

set_option Elab.async false

namespace Sys2Proof.Machine

variable (s : State)

/-! ### State.setLink -/

@[simp] theorem State.setLink_timeBase (l : LinkNo) (k : Link) : (s.setLink l k).timeBase = s.timeBase := rfl
@[simp] theorem State.setLink_mem (l : LinkNo) (k : Link) : (s.setLink l k).mem = s.mem := rfl
@[simp] theorem State.setLink_mirror (l : LinkNo) (k : Link) : (s.setLink l k).mirror = s.mirror := rfl
@[simp] theorem State.setLink_loader (l : LinkNo) (k : Link) : (s.setLink l k).loader = s.loader := rfl
@[simp] theorem State.setLink_links (l : LinkNo) (k : Link) : (s.setLink l k).links = s.links.set l k := rfl
@[simp] theorem State.setLink_exposures (l : LinkNo) (k : Link) : (s.setLink l k).exposures = s.exposures := rfl
@[simp] theorem State.setLink_slots (l : LinkNo) (k : Link) : (s.setLink l k).slots = s.slots := rfl
@[simp] theorem State.setLink_banks (l : LinkNo) (k : Link) : (s.setLink l k).banks = s.banks := rfl
@[simp] theorem State.setLink_fields (l : LinkNo) (k : Link) : (s.setLink l k).fields = s.fields := rfl
@[simp] theorem State.setLink_deposit (l : LinkNo) (k : Link) : (s.setLink l k).deposit = s.deposit := rfl
@[simp] theorem State.setLink_service (l : LinkNo) (k : Link) : (s.setLink l k).service = s.service := rfl
@[simp] theorem State.setLink_walker (l : LinkNo) (k : Link) : (s.setLink l k).walker = s.walker := rfl
@[simp] theorem State.setLink_alert (l : LinkNo) (k : Link) : (s.setLink l k).alert = s.alert := rfl
@[simp] theorem State.setLink_port (l : LinkNo) (k : Link) : (s.setLink l k).port = s.port := rfl
@[simp] theorem State.setLink_readData (l : LinkNo) (k : Link) : (s.setLink l k).readData = s.readData := rfl
@[simp] theorem State.setLink_messages (l : LinkNo) (k : Link) : (s.setLink l k).messages = s.messages := rfl
@[simp] theorem State.setLink_errs (l : LinkNo) (k : Link) : (s.setLink l k).errs = s.errs := rfl
@[simp] theorem State.setLink_past (l : LinkNo) (k : Link) : (s.setLink l k).past = s.past := rfl
@[simp] theorem State.setLink_freeTaken (l : LinkNo) (k : Link) : (s.setLink l k).freeTaken = s.freeTaken := rfl
@[simp] theorem State.setLink_pending (l : LinkNo) (k : Link) : (s.setLink l k).pending = s.pending := rfl

/-! ### State.queueMirror -/

@[simp] theorem State.queueMirror_timeBase (off : Nat) (bytes : List Byte) : (s.queueMirror off bytes).timeBase = s.timeBase := rfl
@[simp] theorem State.queueMirror_mem (off : Nat) (bytes : List Byte) : (s.queueMirror off bytes).mem = s.mem := rfl
@[simp] theorem State.queueMirror_mirror (off : Nat) (bytes : List Byte) : (s.queueMirror off bytes).mirror = s.mirror ++ [⟨off, bytes⟩] := rfl
@[simp] theorem State.queueMirror_loader (off : Nat) (bytes : List Byte) : (s.queueMirror off bytes).loader = s.loader := rfl
@[simp] theorem State.queueMirror_links (off : Nat) (bytes : List Byte) : (s.queueMirror off bytes).links = s.links := rfl
@[simp] theorem State.queueMirror_exposures (off : Nat) (bytes : List Byte) : (s.queueMirror off bytes).exposures = s.exposures := rfl
@[simp] theorem State.queueMirror_slots (off : Nat) (bytes : List Byte) : (s.queueMirror off bytes).slots = s.slots := rfl
@[simp] theorem State.queueMirror_banks (off : Nat) (bytes : List Byte) : (s.queueMirror off bytes).banks = s.banks := rfl
@[simp] theorem State.queueMirror_fields (off : Nat) (bytes : List Byte) : (s.queueMirror off bytes).fields = s.fields := rfl
@[simp] theorem State.queueMirror_deposit (off : Nat) (bytes : List Byte) : (s.queueMirror off bytes).deposit = s.deposit := rfl
@[simp] theorem State.queueMirror_service (off : Nat) (bytes : List Byte) : (s.queueMirror off bytes).service = s.service := rfl
@[simp] theorem State.queueMirror_walker (off : Nat) (bytes : List Byte) : (s.queueMirror off bytes).walker = s.walker := rfl
@[simp] theorem State.queueMirror_alert (off : Nat) (bytes : List Byte) : (s.queueMirror off bytes).alert = s.alert := rfl
@[simp] theorem State.queueMirror_port (off : Nat) (bytes : List Byte) : (s.queueMirror off bytes).port = s.port := rfl
@[simp] theorem State.queueMirror_readData (off : Nat) (bytes : List Byte) : (s.queueMirror off bytes).readData = s.readData := rfl
@[simp] theorem State.queueMirror_messages (off : Nat) (bytes : List Byte) : (s.queueMirror off bytes).messages = s.messages := rfl
@[simp] theorem State.queueMirror_errs (off : Nat) (bytes : List Byte) : (s.queueMirror off bytes).errs = s.errs := rfl
@[simp] theorem State.queueMirror_past (off : Nat) (bytes : List Byte) : (s.queueMirror off bytes).past = s.past := rfl
@[simp] theorem State.queueMirror_freeTaken (off : Nat) (bytes : List Byte) : (s.queueMirror off bytes).freeTaken = s.freeTaken := rfl
@[simp] theorem State.queueMirror_pending (off : Nat) (bytes : List Byte) : (s.queueMirror off bytes).pending = s.pending := rfl

/-! ### State.sendMessage -/

@[simp] theorem State.sendMessage_timeBase : (s.sendMessage).timeBase = s.timeBase := rfl
@[simp] theorem State.sendMessage_mem : (s.sendMessage).mem = s.mem := rfl
@[simp] theorem State.sendMessage_mirror : (s.sendMessage).mirror = s.mirror := rfl
@[simp] theorem State.sendMessage_loader : (s.sendMessage).loader = s.loader := rfl
@[simp] theorem State.sendMessage_links : (s.sendMessage).links = s.links := rfl
@[simp] theorem State.sendMessage_exposures : (s.sendMessage).exposures = s.exposures := rfl
@[simp] theorem State.sendMessage_slots : (s.sendMessage).slots = s.slots := rfl
@[simp] theorem State.sendMessage_banks : (s.sendMessage).banks = s.banks := rfl
@[simp] theorem State.sendMessage_fields : (s.sendMessage).fields = s.fields := rfl
@[simp] theorem State.sendMessage_deposit : (s.sendMessage).deposit = s.deposit := rfl
@[simp] theorem State.sendMessage_service : (s.sendMessage).service = s.service := rfl
@[simp] theorem State.sendMessage_walker : (s.sendMessage).walker = s.walker := rfl
@[simp] theorem State.sendMessage_alert : (s.sendMessage).alert = s.alert := rfl
@[simp] theorem State.sendMessage_port : (s.sendMessage).port = s.port := rfl
@[simp] theorem State.sendMessage_readData : (s.sendMessage).readData = s.readData := rfl
@[simp] theorem State.sendMessage_messages : (s.sendMessage).messages = s.messages + 1 := rfl
@[simp] theorem State.sendMessage_errs : (s.sendMessage).errs = s.errs := rfl
@[simp] theorem State.sendMessage_past : (s.sendMessage).past = s.past := rfl
@[simp] theorem State.sendMessage_freeTaken : (s.sendMessage).freeTaken = s.freeTaken := rfl
@[simp] theorem State.sendMessage_pending : (s.sendMessage).pending = s.pending := rfl

/-! ### State.setField -/

@[simp] theorem State.setField_timeBase (f : Fin 4) (x : Option Field) : (s.setField f x).timeBase = s.timeBase := rfl
@[simp] theorem State.setField_mem (f : Fin 4) (x : Option Field) : (s.setField f x).mem = s.mem := rfl
@[simp] theorem State.setField_mirror (f : Fin 4) (x : Option Field) : (s.setField f x).mirror = s.mirror := rfl
@[simp] theorem State.setField_loader (f : Fin 4) (x : Option Field) : (s.setField f x).loader = s.loader := rfl
@[simp] theorem State.setField_links (f : Fin 4) (x : Option Field) : (s.setField f x).links = s.links := rfl
@[simp] theorem State.setField_exposures (f : Fin 4) (x : Option Field) : (s.setField f x).exposures = s.exposures := rfl
@[simp] theorem State.setField_slots (f : Fin 4) (x : Option Field) : (s.setField f x).slots = s.slots := rfl
@[simp] theorem State.setField_banks (f : Fin 4) (x : Option Field) : (s.setField f x).banks = s.banks := rfl
@[simp] theorem State.setField_fields (f : Fin 4) (x : Option Field) : (s.setField f x).fields = s.fields.set f x := rfl
@[simp] theorem State.setField_deposit (f : Fin 4) (x : Option Field) : (s.setField f x).deposit = s.deposit := rfl
@[simp] theorem State.setField_service (f : Fin 4) (x : Option Field) : (s.setField f x).service = s.service := rfl
@[simp] theorem State.setField_walker (f : Fin 4) (x : Option Field) : (s.setField f x).walker = s.walker := rfl
@[simp] theorem State.setField_alert (f : Fin 4) (x : Option Field) : (s.setField f x).alert = s.alert := rfl
@[simp] theorem State.setField_port (f : Fin 4) (x : Option Field) : (s.setField f x).port = s.port := rfl
@[simp] theorem State.setField_readData (f : Fin 4) (x : Option Field) : (s.setField f x).readData = s.readData := rfl
@[simp] theorem State.setField_messages (f : Fin 4) (x : Option Field) : (s.setField f x).messages = s.messages := rfl
@[simp] theorem State.setField_errs (f : Fin 4) (x : Option Field) : (s.setField f x).errs = s.errs := rfl
@[simp] theorem State.setField_past (f : Fin 4) (x : Option Field) : (s.setField f x).past = s.past := rfl
@[simp] theorem State.setField_freeTaken (f : Fin 4) (x : Option Field) : (s.setField f x).freeTaken = s.freeTaken := rfl
@[simp] theorem State.setField_pending (f : Fin 4) (x : Option Field) : (s.setField f x).pending = s.pending := rfl

end Sys2Proof.Machine
end

