-- ==== Sys2Proof/Laws/TouchUnits.lean ====
section
/-! SUPPORT. What the operations of the sky canvas, the deposit unit, the exposure table and the tile pool touch. -/

set_option Elab.async false

namespace Sys2Proof.Machine

variable (s : State)

/-- The parts a touch of a cell may change. -/
abbrev canvasParts : List Part := [.mem, .fields, .alert, .mirror, .messages]

/-- The parts the deposit unit may change outside a row deposit. -/
abbrev unitParts : List Part := [.exposures, .slots, .mirror, .deposit, .mem, .walker, .alert, .messages]

/-- The parts a row deposit event may change. -/
abbrev rowParts : List Part := [.exposures, .slots, .mirror, .deposit, .mem, .walker, .alert, .messages, .fields]

/-- The parts a delivered packet may change. -/
abbrev packetParts : List Part := [.links, .exposures, .slots, .mirror, .deposit, .mem, .walker, .alert, .messages]

/-! ### The sky canvas -/

theorem setField_touches (f : Fin 4) (x : Option Field) : Touches [.fields] s (s.setField f x) := touches_fields s _

theorem mapCell_touches (f : Fin 4) (c : Nat) (g : DirCell → DirCell) : Touches [.fields] s (s.mapCell f c g) := by
  unfold State.mapCell
  split
  · exact setField_touches s _ _
  · exact Touches.refl _ s

theorem zeroCell_touches (f : Fin 4) (c : Nat) : Touches [.mem, .fields] s (s.zeroCell f c) := by
  unfold State.zeroCell
  split
  · exact (touches_mem s _).andThen (mapCell_touches _ _ _ _)
  · exact Touches.refl _ s

theorem writeStale_touches (off : Nat) : Touches [.mem] s (s.writeStale off) := by
  unfold State.writeStale
  split
  · exact touches_mem s _
  · exact Touches.refl _ s

theorem prepareCell_touches (f : Fin 4) (c : Nat) : Touches [.mem, .fields] s (s.prepareCell f c) := by
  unfold State.prepareCell
  split
  · split
    · exact zeroCell_touches s _ _
    · dsimp only
      split
      · exact (writeStale_touches s _).andThen (mapCell_touches _ _ _ _)
      · exact (mapCell_touches s _ _ _).mono
    · exact Touches.refl _ s
    · exact Touches.refl _ s
  · exact Touches.refl _ s

theorem spoilCell_touches (f : Fin 4) (c : Nat) : Touches [.fields, .alert, .mirror, .messages] s (s.spoilCell f c) := by
  unfold State.spoilCell
  exact (mapCell_touches s _ _ _).andThen (memError_touches _ _)

theorem takeShare_touches (f : Fin 4) (c off : Nat) (tag : Tag) (V : Int) (w : Nat) (cl : Bool) :
    Touches canvasParts s (s.takeShare f c off tag V w cl).1 := by
  unfold State.takeShare
  split
  · exact Touches.refl _ s
  · split
    · exact Touches.refl _ s
    · split
      · exact (spoilCell_touches s _ _).mono
      · dsimp only
        split
        · exact (touches_mem s _).andThen (mapCell_touches _ _ _ _)
        · exact (touches_mem s _).mono

theorem takeMask_touches (f : Fin 4) (c off : Nat) (flag : MaskFlag) : Touches canvasParts s (s.takeMask f c off flag) := by
  unfold State.takeMask
  split
  · exact Touches.refl _ s
  · split
    · exact Touches.refl _ s
    · split
      · exact (spoilCell_touches s _ _).mono
      · exact (touches_mem s _).mono

theorem touchShare_touches (f : Fin 4) (i j : Nat) (tag : Tag) (V : Int) (w : Nat) (cl : Bool) :
    Touches canvasParts s (s.touchShare f i j tag V w cl).1 := by
  unfold State.touchShare
  split
  · exact Touches.refl _ s
  · exact (prepareCell_touches s _ _).andThen (takeShare_touches _ _ _ _ _ _ _ _)

theorem touchMask_touches (f : Fin 4) (i j : Nat) (flag : MaskFlag) :
    Touches canvasParts s (s.touchMask f i j flag) := by
  unfold State.touchMask
  split
  · exact Touches.refl _ s
  · exact (prepareCell_touches s _ _).andThen (takeMask_touches _ _ _ _ _)

theorem noteDeposits_touches (f : Fin 4) (cells : List Nat) : Touches [.fields] s (s.noteDeposits f cells) :=
  Touches.foldl _ (fun t c => mapCell_touches t f c _) cells s

/-! ### The deposit unit -/

theorem mapServing_touches (g : Assembly → Assembly) : Touches [.deposit] s (s.mapServing g) := by
  unfold State.mapServing
  split
  · exact touches_deposit s _
  · exact Touches.refl _ s

theorem mapResults_touches (g : Results → Results) : Touches [.deposit] s (s.mapResults g) := mapServing_touches s _

theorem settle_touches (tag : Tag) (seg : SegNo) (out : SegOutcome) :
    Touches [.exposures, .mirror] s (s.settle tag seg out) := mapEntry_touches s _ _

theorem settleMissing_touches (tag : Tag) (seg : SegNo) :
    Touches [.exposures, .mirror, .deposit] s (s.settleMissing tag seg) :=
  (settle_touches s _ _ _).andThen (mapResults_touches _ _)

theorem requestLate_touches (n : SlotNo) (tag : Tag) (seg : SegNo) :
    Touches [.slots, .mirror] s (s.requestLate n tag seg) := by
  unfold State.requestLate
  split
  · split
    · exact setSlot_touches s _ _
    · exact Touches.refl _ s
  · exact Touches.refl _ s

theorem makeLate_touches (n : SlotNo) (seg : SegNo) :
    Touches [.exposures, .slots, .mirror, .deposit] s (s.makeLate n seg) := by
  unfold State.makeLate
  split
  · dsimp only
    split
    · split
      · exact ((((requestLate_touches s _ _ _).andThen (settle_touches _ _ _ _) :
          Touches [.exposures, .slots, .mirror] _ _).andThen (mapResults_touches _ _) :
          Touches [.exposures, .slots, .mirror, .deposit] _ _)).andThen (mapServing_touches _ _)
      · exact (requestLate_touches s _ _ _).mono
    · exact (requestLate_touches s _ _ _).mono
  · exact Touches.refl _ s

theorem examineSlot_touches (n : SlotNo) : Touches [.exposures, .slots, .mirror, .deposit] s (s.examineSlot n) := by
  unfold State.examineSlot
  split
  · split
    · split
      · split
        · split
          · exact ((settleMissing_touches s _ _).andThen (mapResults_touches _ _) :
              Touches [.exposures, .mirror, .deposit] _ _).andThen (freeSlotAs_touches _ _ _)
          · split
            · exact makeLate_touches s _ _
            · exact Touches.refl _ s
        · exact Touches.refl _ s
      · exact Touches.refl _ s
    · exact Touches.refl _ s
  · exact Touches.refl _ s

theorem finishTest_touches (n : SlotNo) : Touches [.exposures, .slots, .mirror, .deposit] s (s.finishTest n) := by
  unfold State.finishTest
  split
  · split
    · split
      · exact (((settle_touches s _ _ _).andThen (mapResults_touches _ _) :
          Touches [.exposures, .mirror, .deposit] _ _).andThen (freeSlotAs_touches _ _ _) :
          Touches [.exposures, .slots, .mirror, .deposit] _ _).andThen (mapServing_touches _ _)
      · exact Touches.refl _ s
    · exact Touches.refl _ s
  · exact Touches.refl _ s

theorem endAssembly_touches (o : Assembly) :
    Touches [.exposures, .mirror, .deposit, .mem, .walker, .alert, .messages] s (s.endAssembly o) := by
  unfold State.endAssembly
  exact (((mapEntry_touches s _ _).andThen (removalCheck_touches _ _) : Touches [.exposures, .mirror] _ _).andThen
    (touches_deposit _ _) : Touches [.exposures, .mirror, .deposit] _ _).andThen (retire_touches _ _ _ _)

theorem endTest_touches : Touches [.exposures, .mirror, .deposit, .mem, .walker, .alert, .messages] s s.endTest := by
  unfold State.endTest
  split
  · split
    · exact Touches.refl _ s
    · exact endAssembly_touches s _
  · exact Touches.refl _ s

theorem chooseTile_touches (fuel : Nat) : Touches [.exposures, .slots, .mirror, .deposit] s (s.chooseTile fuel) := by
  induction fuel generalizing s with
  | zero => exact Touches.refl _ s
  | succ fuel ih =>
    unfold State.chooseTile
    split
    · split
      · split
        · dsimp only
          split
          · exact ((mapServing_touches s _).andThen (finishTest_touches _ _)).trans (ih _)
          · exact (mapServing_touches s _).mono
        · exact Touches.refl _ s
      · exact Touches.refl _ s
    · exact Touches.refl _ s

theorem choose_touches : Touches [.exposures, .slots, .mirror, .deposit] s s.choose := chooseTile_touches s 65

/-- One target of a DEPOSIT pixel touches the canvas alone. -/
theorem depositTarget_touches (o : Assembly) (v : Int) (cl : Bool) (a : RowRun) (t : Target) :
    Touches canvasParts a.st (depositTarget o v cl a t).st := by
  unfold depositTarget
  split
  · exact Touches.refl _ _
  · split
    · dsimp only
      split
      · exact Touches.refl _ _
      · split <;> exact touchShare_touches _ _ _ _ _ _ _ _
    · exact Touches.refl _ _

/-- One target of a SATURATED or BAD pixel touches the canvas alone. -/
theorem maskTarget_touches (o : Assembly) (flag : MaskFlag) (a : RowRun) (t : Target) :
    Touches canvasParts a.st (maskTarget o flag a t).st := by
  unfold maskTarget
  split
  · exact Touches.refl _ _
  · split
    · exact touchMask_touches _ _ _ _ _
    · exact Touches.refl _ _

/-- A fold over a row run stays within the parts each of its steps stays within. -/
theorem rowFold_touches {α : Type} (f : RowRun → α → RowRun) (h : ∀ a x, Touches canvasParts a.st (f a x).st) (l : List α)
    (a : RowRun) : Touches canvasParts a.st (l.foldl f a).st := by
  induction l generalizing a with
  | nil => exact Touches.refl _ _
  | cons x l ih => exact (h a x).trans (ih (f a x))

theorem depositPixel_touches (o : Assembly) (p : Placement) (x y : Nat) (out : PixelOutcome) (a : RowRun) :
    Touches canvasParts a.st (depositPixel o p x y out a).st := by
  unfold depositPixel
  dsimp only
  split
  · exact rowFold_touches _ (maskTarget_touches o _) _ { a with res := _ }
  · exact rowFold_touches _ (maskTarget_touches o _) _ { a with res := _ }
  · split
    · exact rowFold_touches _ (depositTarget_touches o _ _) _ { a with res := _ }
    · exact rowFold_touches _ (depositTarget_touches o _ _) _ a

theorem depositPixels_touches (o : Assembly) (amp : Amp) (defects : List Defect) (seg : SegNo) (e : SegEntry)
    (p : Placement) (r : RowData) (y : Nat) (a : RowRun) :
    Touches canvasParts a.st (depositPixels o amp defects seg e p r y a).st :=
  rowFold_touches _ (fun a x => depositPixel_touches o p x y _ a) _ a

theorem setCursor_touches (n : SlotNo) (k : Nat) : Touches [.slots, .mirror] s (s.setCursor n k) := by
  unfold State.setCursor
  split
  · exact setSlot_touches s _ _
  · exact Touches.refl _ s

/-- The parts one served row may change. -/
abbrev servedParts : List Part := [.slots, .deposit, .mem, .fields, .alert, .mirror, .messages]

theorem serveRow_touches (views : List RowView) (o : Assembly) (n : SlotNo) (seg : SegNo) (r : Nat) :
    Touches servedParts s (s.serveRow views o n seg r) := by
  unfold State.serveRow
  split
  · dsimp only
    split
    · exact ((Touches.foldl (ps := [.alert, .mirror, .messages]) _ (fun t x => memError_touches t _) _ s).andThen
        (mapResults_touches _ _) : Touches [.deposit, .alert, .mirror, .messages] _ _).andThen (setCursor_touches _ _ _)
    · exact (((depositPixels_touches _ _ _ _ _ _ _ _ ⟨s, _, _, _⟩).andThen (noteDeposits_touches _ _ _) :
        Touches canvasParts _ _).andThen (mapServing_touches _ _) :
        Touches [.deposit, .mem, .fields, .alert, .mirror, .messages] _ _).andThen (setCursor_touches _ _ _)
  · exact Touches.refl _ s

theorem searchRow_touches (views : List RowView) (l : List SegNo) : Touches rowParts s (s.searchRow views l) := by
  induction l generalizing s with
  | nil => exact Touches.refl _ s
  | cons seg l ih =>
    unfold State.searchRow
    split
    · split
      · split
        · split
          · exact ((serveRow_touches s _ _ _ _ _).andThen (mapServing_touches _ _) : Touches servedParts _ _).andThen
              (finishTest_touches _ _)
          · exact ((finishTest_touches s _).mono).trans (ih _)
        · exact ih s
      · exact ih s
    · exact Touches.refl _ s

theorem checkCurrent_touches : Touches [.deposit] s s.checkCurrent := by
  unfold State.checkCurrent
  split
  · split
    · split
      · exact Touches.refl _ s
      · exact mapServing_touches s _
    · exact Touches.refl _ s
  · exact Touches.refl _ s

theorem tileRow_touches (views : List RowView) : Touches rowParts s (s.tileRow views) := by
  have h : Touches rowParts s s.checkCurrent.choose := (checkCurrent_touches s).andThen (choose_touches _)
  unfold State.tileRow
  dsimp only
  split
  · split
    · split
      · split
        · split
          · exact h.trans (((serveRow_touches _ _ _ _ _ _).andThen (finishTest_touches _ _) : Touches rowParts _ _).andThen
              (choose_touches _))
          · exact h
        · exact h
      · exact h
    · exact h
  · exact h

theorem rowEvent_touches (views : List RowView) : Touches rowParts s (s.rowEvent views) := by
  unfold State.rowEvent
  split
  · split
    · exact (tileRow_touches s _).andThen (endTest_touches _)
    · exact (searchRow_touches s _ _).andThen (endTest_touches _)
  · exact Touches.refl _ s

theorem tellTaken_touches (n : SlotNo) : Touches unitParts s (s.tellTaken n) := by
  unfold State.tellTaken
  split
  · split
    · split
      · exact (examineSlot_touches s _).andThen (endTest_touches _)
      · exact Touches.refl _ s
    · exact Touches.refl _ s
  · exact Touches.refl _ s

theorem tellComplete_touches (tag : Tag) (ns : List SlotNo) : Touches unitParts s (s.tellComplete tag ns) := by
  unfold State.tellComplete
  split
  · split
    · exact ((Touches.foldl _ (fun t n => finishTest_touches t n) ns s).trans (choose_touches _)).andThen
        (endTest_touches _)
    · exact Touches.refl _ s
  · exact Touches.refl _ s

theorem settleUnbegun_touches (o : Assembly) : Touches [.exposures, .mirror, .deposit] s (s.settleUnbegun o) :=
  Touches.foldl _ (fun t seg => by
    split
    · exact settleMissing_touches t _ _
    · exact Touches.refl _ t) _ s

theorem tellClosed_touches (tag : Tag) : Touches unitParts s (s.tellClosed tag) := by
  unfold State.tellClosed
  split
  · split
    · exact ((settleUnbegun_touches s _).andThen (choose_touches _) :
        Touches [.exposures, .slots, .mirror, .deposit] _ _).andThen (endTest_touches _)
    · exact Touches.refl _ s
  · exact Touches.refl _ s

theorem bindSegment_touches (c : Bool) (o : Assembly) (seg : SegNo) :
    Touches [.exposures, .slots, .mirror, .deposit] s (State.bindSegment c o s seg) := by
  unfold State.bindSegment
  split
  · split
    · exact (examineSlot_touches s _).trans (finishTest_touches _ _)
    · split
      · exact (settleMissing_touches s _ _).mono
      · exact Touches.refl _ s
  · exact Touches.refl _ s

theorem bind_touches (o : Assembly) : Touches unitParts s (s.bind o) := by
  unfold State.bind
  exact (((((mapEntry_touches s _ _).andThen (touches_deposit _ _) :
    Touches [.exposures, .slots, .mirror, .deposit] _ _)).trans
    (Touches.foldl _ (fun t seg => bindSegment_touches t _ o seg) _ _)).trans (choose_touches _)).andThen
    (endTest_touches _)

theorem tellMade_touches (tag : Tag) : Touches unitParts s (s.tellMade tag) := by
  unfold State.tellMade
  split
  · split
    · exact bind_touches s _
    · exact Touches.refl _ s
  · exact Touches.refl _ s

theorem lateFilling_touches (o : Assembly) :
    Touches [.exposures, .slots, .mirror, .deposit] s (s.lateFilling o) :=
  Touches.foldl _ (fun t seg => by
    split
    · split
      · exact makeLate_touches t _ _
      · exact Touches.refl _ t
    · exact Touches.refl _ t) _ s

theorem deadline_touches : Touches unitParts s s.deadline := by
  unfold State.deadline
  split
  · exact Touches.refl _ s
  · split
    · split
      · exact (touches_deposit s _).andThen (retire_touches _ _ _ _)
      · exact Touches.refl _ s
    · exact Touches.refl _ s
  · split
    · split
      · exact (((((mapServing_touches s _).andThen (lateFilling_touches _ _) :
          Touches [.exposures, .slots, .mirror, .deposit] _ _).andThen (settleUnbegun_touches _ _) :
          Touches [.exposures, .slots, .mirror, .deposit] _ _)).trans (choose_touches _)).andThen (endTest_touches _)
      · exact Touches.refl _ s
    · exact Touches.refl _ s

theorem unbind_touches (tag : Tag) : Touches [.exposures, .mirror] s (s.unbind tag) := mapEntry_touches s _ _

theorem abortDeposit_touches : Touches unitParts s s.abortDeposit := by
  unfold State.abortDeposit
  split
  · exact Touches.refl _ s
  · exact (touches_deposit s _).andThen (retire_touches _ _ _ _)
  · exact ((unbind_touches s _).andThen (touches_deposit _ _) : Touches [.exposures, .mirror, .deposit] _ _).andThen
      (retire_touches _ _ _ _)

theorem dropDeposit_touches : Touches [.exposures, .mirror, .deposit] s s.dropDeposit := by
  unfold State.dropDeposit
  split
  · exact (unbind_touches s _).andThen (touches_deposit _ _)
  · exact (touches_deposit s _).mono

theorem takeAssemble_touches (off : Nat) (tag : Tag) (f b : Nat) : Touches unitParts s (s.takeAssemble off tag f b) := by
  unfold State.takeAssemble
  split
  · exact (retire_touches s _ _ _).mono
  · split
    · exact bind_touches s _
    · exact (touches_deposit s _).mono

/-! ### The exposure table and the tile pool -/

theorem setNames_touches (l : LinkNo) (c r : Option Tag) : Touches [.links] s (s.setNames l c r) := setLink_touches s _ _

theorem closeSlot_touches (l : LinkNo) (tag : Tag) (n : SlotNo) :
    Touches [.exposures, .slots, .mirror] s (State.closeSlot l tag s n) := by
  unfold State.closeSlot
  split
  · split
    · split
      · exact (setSlot_touches s _ _).mono
      · exact Touches.refl _ s
      · exact freeSlotAs_touches s _ _
    · exact Touches.refl _ s
  · exact Touches.refl _ s

theorem closeFor_touches (l : LinkNo) (tag : Tag) : Touches packetParts s (s.closeFor l tag) := by
  have h : Touches [.links, .exposures, .slots, .mirror] s
      ((((List.finRange 128).foldl (State.closeSlot l tag) s).mapEntry tag (ExpEntry.closeBy l)).setNames l none
        ((List.finRange 128).foldl (State.closeSlot l tag) s).links[l].refused) :=
    ((Touches.foldl _ (fun t n => closeSlot_touches t l tag n) _ s).andThen (mapEntry_touches _ _ _) :
      Touches [.exposures, .slots, .mirror] _ _).andThen (setNames_touches _ _ _ _)
  unfold State.closeFor
  split
  · exact (setNames_touches s _ _ _).mono
  · dsimp only
    split
    · exact (h.andThen (tellComplete_touches _ _ _) : Touches packetParts _ _).andThen (tellClosed_touches _ _)
    · exact h.andThen (tellComplete_touches _ _ _)

theorem closeExposure_touches (l : LinkNo) (tag : Tag) : Touches packetParts s (s.closeExposure l tag) := by
  unfold State.closeExposure
  split
  · exact (count_touches s _ _ _).andThen (setNames_touches _ _ _ _)
  · split
    · exact closeFor_touches s _ _
    · exact Touches.refl _ s

theorem openByTable_touches (l : LinkNo) (tag : Tag) : Touches packetParts s (s.openByTable l tag) := by
  have r (t : State) (c : LinkCounter) : Touches packetParts t (((t.setNames l none (some tag)).count l c 1).raise .receive) :=
    ((setNames_touches t _ _ _).andThen (count_touches _ _ _ _) : Touches [.links, .mirror] _ _).andThen
      (raise_touches _ _)
  unfold State.openByTable
  split
  · split
    · exact ((setPlace_touches s _ _).andThen (setNames_touches _ _ _ _) :
        Touches [.links, .exposures, .mirror] _ _).andThen (tellMade_touches _ _)
    · exact r s _
  · split
    · exact (mapEntry_touches s _ _).andThen (setNames_touches _ _ _ _)
    · exact r s _

theorem clearWay_touches (l : LinkNo) (tag : Tag) : Touches packetParts s (s.clearWay l tag) := by
  have h : Touches packetParts s (match s.links[l].current with
      | some c => if c = tag then s else s.closeFor l c
      | none => s) := by
    split
    · split
      · exact Touches.refl _ s
      · exact closeFor_touches s _ _
    · exact Touches.refl _ s
  have k (t : State) (ht : Touches packetParts s t) : Touches packetParts s
      (if t.links[l].refused = some tag then t else t.setNames l t.links[l].current none) := by
    split
    · exact ht
    · exact ht.andThen (setNames_touches _ _ _ _)
  exact k _ h

theorem openExposure_touches (l : LinkNo) (tag : Tag) : Touches packetParts s (s.openExposure l tag) := by
  unfold State.openExposure
  dsimp only
  split
  · exact (clearWay_touches s l tag).andThen (count_touches _ _ _ _)
  · split
    · exact clearWay_touches s l tag
    · exact (clearWay_touches s l tag).trans (openByTable_touches _ _ _)

theorem takeSlot_touches (l : LinkNo) (new : Slot) : Touches packetParts s (s.takeSlot l new) := by
  unfold State.takeSlot
  split
  · exact (count_touches s _ _ _).andThen (raise_touches _ _)
  · have h (n : SlotNo) : Touches [.exposures, .slots, .mirror] s
        ((s.setSlot n (some new)).mapEntry new.tag fun e => { e with held := e.held + 1 }) :=
      (setSlot_touches s _ _).andThen (mapEntry_touches _ _ _)
    dsimp only
    split
    · split
      · exact (h _).andThen (tellTaken_touches _ _)
      · exact (h _).mono
    · exact (h _).mono

theorem restartSlot_touches (l : LinkNo) (old : SlotNo) (new : Slot) :
    Touches packetParts s (s.restartSlot l old new) := by
  unfold State.restartSlot
  exact ((count_touches s _ _ _).andThen (freeSlotAs_touches _ _ _) : Touches packetParts _ _).trans
    (takeSlot_touches _ _ _)

theorem beginSegment_touches (l : LinkNo) (g : StreamEntry) (n : Nat) :
    Touches packetParts s (s.beginSegment l g n) := by
  unfold State.beginSegment
  split
  · exact (count_touches s _ _ _).mono
  · split
    · exact Touches.refl _ s
    · split
      · exact (count_touches s _ _ _).mono
      · split
        · exact (count_touches s _ _ _).mono
        · split
          · exact restartSlot_touches s _ _ _
          · exact takeSlot_touches s _ _

theorem storeRow_touches (l : LinkNo) (seg : SegNo) (rowLen r : Nat) (samples : List Nat) :
    Touches [.links, .slots, .mirror, .mem] s (s.storeRow l seg rowLen r samples) := by
  have c (x : LinkCounter) : Touches [.links, .slots, .mirror, .mem] s (s.count l x 1) := (count_touches s l x 1).mono
  have w (p : Prop) [Decidable p] (x : LinkCounter) (n : SlotNo) (y : Option Slot) :
      Touches [.links, .slots, .mirror, .mem] s (if p then s.count l x 1
        else ({ s with mem := Memory.writeBytes s.mem (rowOff n r) (sampleBytes samples) } : State).setSlot n y) := by
    split
    · exact c _
    · exact (touches_mem s _).andThen (setSlot_touches _ _ _)
  unfold State.storeRow
  split
  · exact c _
  · split
    · exact c _
    · split
      · exact c _
      · split
        · exact c _
        · split
          · exact c _
          · split
            · exact c _
            · exact w _ _ _ _

theorem endSegment_touches (l : LinkNo) (seg : SegNo) (k : Nat) : Touches packetParts s (s.endSegment l seg k) := by
  unfold State.endSegment
  split
  · exact (count_touches s _ _ _).mono
  · split
    · exact Touches.refl _ s
    · split
      · exact Touches.refl _ s
      · split
        · exact Touches.refl _ s
        · split
          · exact (setSlot_touches s _ _).andThen (tellComplete_touches _ _ _)
          · exact (setSlot_touches s _ _).andThen (freeSlotAs_touches _ _ _)
          · exact Touches.refl _ s

theorem refuseLink_touches (tag : Tag) (l : LinkNo) : Touches [.links] s (State.refuseLink tag s l) := by
  unfold State.refuseLink
  split
  · exact setNames_touches s _ _ _
  · exact Touches.refl _ s

theorem discardSlots_touches (tag : Tag) (ns : List SlotNo) (a : State × Nat) :
    Touches [.exposures, .slots, .mirror] a.1 (ns.foldl (State.discardSlot tag) a).1 := by
  induction ns generalizing a with
  | nil => exact Touches.refl _ _
  | cons n ns ih =>
    refine Touches.trans ?_ (ih _)
    unfold State.discardSlot
    split
    · split
      · exact freeSlotAs_touches _ _ _
      · exact Touches.refl _ _
    · exact Touches.refl _ _

theorem takeDiscard_touches (off : Nat) (tag : Tag) : Touches packetParts s (s.takeDiscard off tag) := by
  unfold State.takeDiscard
  split
  · exact (retire_touches s _ _ _).mono
  · exact ((((discardSlots_touches tag _ (s, 0)).andThen (mapEntry_touches _ _ _) :
      Touches [.exposures, .slots, .mirror] _ _).andThen (removalCheck_touches _ _) :
      Touches [.exposures, .slots, .mirror] _ _).andThen
      (Touches.foldl _ (fun t l => refuseLink_touches t tag l) _ _) : Touches [.links, .exposures, .slots, .mirror] _ _).andThen
      (retire_touches _ _ _ _)

end Sys2Proof.Machine
end

