-- ==== Sys2Proof/Laws/TouchLinks.lean ====
section
/-! SUPPORT. What the operations of the parser, the link receivers and the map loader touch. -/

set_option Elab.async false

namespace Sys2Proof.Machine

variable (s : State)

/-! ### Packets -/

theorem deliver_touches (l : LinkNo) (h : Header) (payload : List Byte) :
    Touches packetParts s (s.deliver l h payload) := by
  unfold State.deliver
  split
  · exact openExposure_touches s _ _
  · exact closeExposure_touches s _ _
  · split
    · exact beginSegment_touches s _ _ _
    · exact Touches.refl _ s
  · split
    · exact endSegment_touches s _ _ _
    · exact Touches.refl _ s
  · split
    · exact (storeRow_touches s _ _ _ _ _).mono
    · exact Touches.refl _ s
  · exact Touches.refl _ s

theorem fate_touches (l : LinkNo) (p : Packet) : Touches packetParts s (s.fate l p) := by
  have c (x : LinkCounter) : Touches packetParts s (s.count l x 1) := (count_touches s l x 1).mono
  have k (P : Prop) [Decidable P] :
      Touches packetParts s (if P then s.count l .lengthErrors 1 else s.deliver l p.header p.payload) := by
    split
    · exact c _
    · exact deliver_touches s _ _ _
  unfold State.fate
  split
  · exact c _
  · split
    · exact c _
    · split
      · exact c _
      · split
        · exact c _
        · exact k _

theorem setEndMark_touches (l : LinkNo) (on : Bool) : Touches [.links] s (s.setEndMark l on) := setLink_touches s _ _

theorem completePacket_touches (l : LinkNo) (p : Packet) : Touches packetParts s (s.completePacket l p) := by
  unfold State.completePacket
  exact (setEndMark_touches s _ _).andThen (fate_touches _ _ _)

theorem packetArrives_touches (l : LinkNo) (h : Header) (payload : List Byte) :
    Touches packetParts s (s.packetArrives l h payload) := by
  unfold State.packetArrives
  split
  · exact Touches.refl _ s
  · exact completePacket_touches s _ _

/-! ### Link receivers -/

theorem mapLink_touches (l : LinkNo) (g : Link → Link) : Touches [.links] s (s.mapLink l g) := setLink_touches s _ _

theorem enterOff_touches (l : LinkNo) : Touches packetParts s (s.enterOff l) := by
  have k (t : State) (ht : Touches packetParts s t) (g : Link → Link) : Touches packetParts s (t.mapLink l g) :=
    ht.andThen (mapLink_touches _ _ _)
  unfold State.enterOff
  refine k _ ?_ _
  split
  · exact closeFor_touches s _ _
  · exact Touches.refl _ s

theorem takeSettings_touches (l : LinkNo) : Touches packetParts s (s.takeSettings l) := by
  unfold State.takeSettings
  split
  · exact (mapLink_touches s _ _).mono
  · exact enterOff_touches s _

theorem linkReplaced_touches (l : LinkNo) : Touches packetParts s (s.linkReplaced l) := by
  unfold State.linkReplaced
  split
  · exact (mapLink_touches s _ _).mono
  · exact takeSettings_touches s _
  · exact takeSettings_touches s _

theorem loseHeader_touches (l : LinkNo) : Touches [.links, .mirror] s (s.loseHeader l) := by
  unfold State.loseHeader
  exact (count_touches s _ _ _).andThen (mapLink_touches _ _ _)

theorem parseHeader_touches (l : LinkNo) (hdr : List Byte) : Touches packetParts s (s.parseHeader l hdr) := by
  have k (b : Bool) : Touches [.links, .mirror] s (if b = true then s.count l .headersFixed 1 else s) := by
    split
    · exact count_touches s _ _ _
    · exact Touches.refl _ s
  unfold State.parseHeader
  split
  · exact (loseHeader_touches s _).mono
  · split
    · exact (loseHeader_touches s _).mono
    · rename_i fixed _ _
      dsimp only
      split
      · exact (k fixed).andThen (mapLink_touches _ _ _)
      · exact ((k fixed).andThen (mapLink_touches _ _ _) : Touches [.links, .mirror] _ _).andThen
          (completePacket_touches _ _ _)

theorem parseByte_touches (l : LinkNo) (b : Byte) : Touches packetParts s (s.parseByte l b) := by
  unfold State.parseByte
  dsimp only
  split
  · exact Touches.refl _ s
  · split
    · split
      · exact (mapLink_touches s _ _).andThen (parseHeader_touches _ _ _)
      · exact (mapLink_touches s _ _).mono
    · split
      · exact (mapLink_touches s _ _).andThen (completePacket_touches _ _ _)
      · exact (mapLink_touches s _ _).mono

theorem endMerge_touches (l : LinkNo) : Touches [.links, .mirror] s (s.endMerge l) := by
  have k (t u : State) (h : Touches [.links, .mirror] t u) (P : Prop) [Decidable P] (x : LinkCounter) (n : Nat) :
      Touches [.links, .mirror] t (if P then u.count l x n else u) := by
    split
    · exact h.trans (count_touches _ _ _ _)
    · exact h
  unfold State.endMerge
  exact (k s _ (k s _ (k s s (Touches.refl _ s) _ _ _) _ _ _) _ _ _).andThen (mapLink_touches _ _ _)

theorem mergeLoop_touches (l : LinkNo) (fuel : Nat) : Touches packetParts s (s.mergeLoop l fuel) := by
  induction fuel generalizing s with
  | zero => exact Touches.refl _ s
  | succ fuel ih =>
    unfold State.mergeLoop
    dsimp only
    split
    · split
      · exact ((mapLink_touches s _ _).andThen (parseByte_touches _ _ _) : Touches packetParts _ _).trans (ih _)
      · split
        · exact (endMerge_touches s _).mono
        · exact Touches.refl _ s
    · exact Touches.refl _ s

theorem merge_touches (l : LinkNo) : Touches packetParts s (s.merge l) := mergeLoop_touches s _ _

theorem closeCheck_touches (l : LinkNo) : Touches packetParts s (s.closeCheck l) := by
  unfold State.closeCheck
  dsimp only
  split
  · split
    · exact takeSettings_touches s _
    · exact (mapLink_touches s _ _).mono
  · exact Touches.refl _ s

theorem endLane_touches (l : LinkNo) (n : LaneNo) (r : Bool) : Touches packetParts s (s.endLane l n r) := by
  unfold State.endLane
  exact ((mapLink_touches s _ _).andThen (merge_touches _ _) : Touches packetParts _ _).trans (closeCheck_touches _ _)

theorem laneStart_touches (l : LinkNo) (n : LaneNo) : Touches packetParts s (s.laneStart l n) := by
  unfold State.laneStart
  dsimp only
  split
  · exact Touches.refl _ s
  · split
    · exact Touches.refl _ s
    · exact (mapLink_touches s _ _).mono
    · split
      · exact (mapLink_touches s _ _).mono
      · exact endLane_touches s _ _ _
      · exact (mapLink_touches s _ _).mono

theorem laneEnd_touches (l : LinkNo) (n : LaneNo) : Touches packetParts s (s.laneEnd l n) := by
  unfold State.laneEnd
  dsimp only
  split
  · exact Touches.refl _ s
  · split
    · exact Touches.refl _ s
    · exact Touches.refl _ s
    · split
      · exact Touches.refl _ s
      · exact endLane_touches s _ _ _
      · exact Touches.refl _ s

theorem laneByte_touches (l : LinkNo) (n : LaneNo) (b : Byte) : Touches packetParts s (s.laneByte l n b) := by
  have c : Touches packetParts s (s.count l .excess 1) := (count_touches s _ _ _).mono
  unfold State.laneByte
  dsimp only
  split
  · exact Touches.refl _ s
  · split
    · exact Touches.refl _ s
    · exact Touches.refl _ s
    · split
      · exact Touches.refl _ s
      · split
        · exact c
        · split
          · exact (c.andThen (endMerge_touches _ _) : Touches packetParts _ _).trans (closeCheck_touches _ _)
          · exact ((mapLink_touches s _ _).andThen (merge_touches _ _) : Touches packetParts _ _).trans
              (closeCheck_touches _ _)
      · split
        · exact c
        · exact Touches.refl _ s

/-- A run of mirror writes touches the mirror alone. -/
theorem mirrorRun_touches {α : Type} (off : α → Nat) (bytes : List Byte) (cs : List α) :
    Touches [.mirror] s (cs.foldl (fun t c => t.queueMirror (off c) bytes) s) :=
  Touches.foldl _ (fun u _ => queueMirror_touches u _ _) cs s

theorem softResetLink_touches (l : LinkNo) : Touches [.links, .mirror] s (s.softResetLink l) := by
  unfold State.softResetLink
  dsimp only
  generalize List.finRange 14 = cs
  exact (mapLink_touches s _ _).andThen (mirrorRun_touches _ (fun c : Fin 14 => 0x100 + 0x40 * l + 4 * c) (leBytes 4 0) cs)

/-! ### The map loader -/

/-- The parts the end of a load may change. -/
abbrev loadParts : List Part :=
  [.loader, .service, .links, .exposures, .slots, .mirror, .deposit, .mem, .walker, .alert, .messages, .freeTaken]

theorem beginLoad_touches (o : Bool) (p : LoadPhase) : Touches [.loader, .past] s (s.beginLoad o p) := by
  unfold State.beginLoad
  dsimp only
  split
  · exact (touches_loader s _).andThen (startReads_touches _)
  · exact (touches_loader s _).mono
  · exact (touches_loader s _).mono

theorem dropLoad_touches : Touches [.loader] s s.dropLoad := touches_loader s _

theorem installMap_touches (m : FocalMap) : Touches [.loader] s (s.installMap m) := touches_loader s _

theorem tellLinks_touches : Touches packetParts s s.tellLinks := Touches.foldl _ linkReplaced_touches _ s

theorem endLoadOrder_touches (o : Bool) (st : Status) : Touches loadParts s (s.endLoadOrder o st) := by
  unfold State.endLoadOrder
  split
  · split
    · exact (touches_service s _).andThen (retire_touches _ _ _ _)
    · exact Touches.refl _ s
  · exact Touches.refl _ s

theorem endStaged_touches (o : Bool) (m : FocalMap) : Touches loadParts s (s.endStaged o m) := by
  have i : Touches loadParts s (s.installMap m) := (installMap_touches s m).mono
  have l (t : State) : Touches loadParts t t.tellLinks := (tellLinks_touches t).mono
  have f : Touches loadParts s { s.installMap m with freeTaken := (s.installMap m).freeTaken + 1 } :=
    (installMap_touches s m).andThen (touches_freeTaken _ _)
  unfold State.endStaged
  exact Touches.ite
    (Touches.ite ((f.trans (endLoadOrder_touches _ _ _)).trans (l _)) ((f.trans (l _)).trans (endLoadOrder_touches _ _ _)))
    ((i.trans (l _)).trans (endLoadOrder_touches _ _ _))

theorem endLoad_touches (o : Bool) (out : LoadEnd) : Touches loadParts s (s.endLoad o out) := by
  unfold State.endLoad
  split
  · exact endStaged_touches s _ _
  · exact (dropLoad_touches s).andThen (endLoadOrder_touches _ _ _)
  · exact ((memError_touches s _).andThen (dropLoad_touches _) : Touches loadParts _ _).trans
      (endLoadOrder_touches _ _ _)

theorem flashStatus_touches (status : Byte) : Touches [.loader] s (s.flashStatus status) := by
  unfold State.flashStatus
  split
  · split
    · exact Touches.refl _ s
    · exact touches_loader s _
  · exact Touches.refl _ s

theorem flashTimeout_touches : Touches loadParts s s.flashTimeout := by
  unfold State.flashTimeout
  split
  · split
    · exact endLoad_touches s _ _
    · exact Touches.refl _ s
  · exact Touches.refl _ s

theorem finishLoad_touches (flash : List Byte) (early : List EarlyRead) : Touches loadParts s (s.finishLoad flash early) := by
  unfold State.finishLoad
  split
  · exact endLoad_touches s _ _
  · exact endLoad_touches s _ _
  · exact Touches.refl _ s

theorem beginWaitingLoad_touches : Touches [.loader, .past, .service] s s.beginWaitingLoad := by
  unfold State.beginWaitingLoad
  split
  · exact (touches_service s _).andThen (beginLoad_touches _ _ _)
  · exact Touches.refl _ s

theorem takeLoadMap_touches (off : Nat) :
    Touches [.loader, .past, .service, .mem, .walker, .mirror, .alert, .messages] s (s.takeLoadMap off) := by
  unfold State.takeLoadMap
  dsimp only
  split
  · split
    · exact (touches_service s _).andThen (beginLoad_touches _ _ _)
    · exact (touches_service s _).mono
  · exact (retire_touches s _ _ _).mono

end Sys2Proof.Machine
end

