-- ==== Sys2Proof/Laws/TouchSteps.lean ====
section
/-! SUPPORT. What the orders of the service unit, the order walker, the resets and the host port touch. -/

set_option Elab.async false

namespace Sys2Proof.Machine

variable (s : State)

/-! ### Banks, fields and publication -/

/-- The parts a retirement may change. -/
abbrev retireParts : List Part := [.mem, .walker, .mirror, .alert, .messages]

theorem takeDefineBank_touches (off k : Nat) :
    Touches [.banks, .service, .past, .mem, .walker, .mirror, .alert, .messages] s (s.takeDefineBank off k) := by
  unfold State.takeDefineBank
  split
  · exact (retire_touches s _ _ _).mono
  · dsimp only
    split
    · exact (touches_banks s _).andThen (retire_touches _ _ _ _)
    · intro p hp; cases p <;> first | rfl | exact absurd (by decide) hp

theorem emptyBank_touches (k : Nat) : Touches [.banks] s (s.emptyBank k) := by
  unfold State.emptyBank
  split
  · exact Touches.refl _ s
  · exact touches_banks s _

theorem finishDefine_touches (early : List EarlyRead) :
    Touches [.banks, .service, .mem, .walker, .mirror, .alert, .messages] s (s.finishDefine early) := by
  have h := touches_service s none
  unfold State.finishDefine
  split
  · dsimp only
    split
    · exact (h.andThen (touches_banks _ _) : Touches [.banks, .service] _ _).andThen (retire_touches _ _ _ _)
    · exact h.andThen (retire_touches _ _ _ _)
    · exact (h.andThen (memError_touches _ _) : Touches [.service, .alert, .mirror, .messages] _ _).andThen
        (retire_touches _ _ _ _)
  · exact Touches.refl _ s

theorem takeDefineField_touches (off f : Nat) :
    Touches [.fields, .mem, .walker, .mirror, .alert, .messages] s (s.takeDefineField off f) := by
  unfold State.takeDefineField
  split
  · exact (retire_touches s _ _ _).mono
  · exact (setField_touches s _ _).andThen (retire_touches _ _ _ _)

theorem takeClear_touches (off f : Nat) :
    Touches [.service, .mem, .walker, .mirror, .alert, .messages] s (s.takeClear off f) := by
  unfold State.takeClear
  split
  · exact (retire_touches s _ _ _).mono
  · dsimp only
    split
    · exact (touches_service s _).mono
    · exact (retire_touches s _ _ _).mono

theorem clearNext_touches :
    Touches [.fields, .service, .mem, .walker, .mirror, .alert, .messages] s s.clearNext := by
  unfold State.clearNext
  split
  · dsimp only
    split
    · exact (mapCell_touches s _ _ _).andThen (touches_service _ _)
    · exact ((mapCell_touches s _ _ _).andThen (touches_service _ _) : Touches [.fields, .service] _ _).andThen
        (retire_touches _ _ _ _)
  · exact Touches.refl _ s

theorem takeFinalize_touches (off f : Nat) :
    Touches [.service, .mem, .walker, .mirror, .alert, .messages] s (s.takeFinalize off f) := by
  have r (st : Status) : Touches [.service, .mem, .walker, .mirror, .alert, .messages] s (s.retire off st []) :=
    (retire_touches s off st []).mono
  unfold State.takeFinalize
  split
  · exact r _
  · dsimp only
    split
    · exact r _
    · split
      · exact r _
      · split
        · exact r _
        · exact (touches_service s _).mono

theorem openCell_touches : Touches [.mem, .service] s s.openCell := by
  unfold State.openCell
  split
  · split
    · intro p hp; cases p <;> first | rfl | exact absurd (by decide) hp
    · exact Touches.refl _ s
  · exact Touches.refl _ s

theorem publishRow_touches :
    Touches [.mem, .service, .fields, .alert, .mirror, .messages] s s.publishRow := by
  unfold State.publishRow
  split
  · split
    · split
      · exact Touches.refl _ s
      · dsimp only
        split
        · exact (spoilCell_touches s _ _).andThen (touches_service _ _)
        · intro p hp; cases p <;> first | rfl | exact absurd (by decide) hp
    · exact Touches.refl _ s
  · exact Touches.refl _ s

theorem closeCell_touches :
    Touches [.fields, .service, .mem, .walker, .mirror, .alert, .messages] s s.closeCell := by
  have h (m : List Host.Cell) (f : Fin 4) (c : Nat) (g : DirCell → DirCell) (x : Option ServiceOrder) :
      Touches [.fields, .service, .mem] s
        { ({ s with mem := m } : State).mapCell f c g with service := x } :=
    ((touches_mem s m).andThen (mapCell_touches _ f c g) : Touches [.fields, .mem] _ _).andThen (touches_service _ x)
  unfold State.closeCell
  split
  · split
    · split
      · exact Touches.refl _ s
      · dsimp only
        split
        · exact (h _ _ _ _ _).mono
        · exact (h _ _ _ _ none).andThen (retire_touches _ _ _ _)
    · exact Touches.refl _ s
  · exact Touches.refl _ s

theorem abortService_touches :
    Touches [.loader, .service, .mem, .walker, .mirror, .alert, .messages] s s.abortService := by
  have h := touches_service s none
  unfold State.abortService
  split
  · exact Touches.refl _ s
  · exact h.andThen (retire_touches _ _ _ _)
  · exact h.andThen (retire_touches _ _ _ _)
  · exact h.andThen (retire_touches _ _ _ _)
  · dsimp only
    split
    · exact (h.andThen (dropLoad_touches _) : Touches [.loader, .service] _ _).andThen (retire_touches _ _ _ _)
    · exact h.andThen (retire_touches _ _ _ _)

theorem dropService_touches : Touches [.loader, .service] s s.dropService := by
  unfold State.dropService
  split
  · exact (touches_service s _).andThen (dropLoad_touches _)
  · exact (touches_service s _).mono

/-! ### The walker -/

/-- The parts an examination may change: all that an order's take-up may change. -/
abbrev walkParts : List Part :=
  [.mem, .past, .mirror, .loader, .links, .exposures, .slots, .banks, .fields, .deposit, .service, .walker, .alert, .messages]

theorem failUnread_touches (off : Nat) (h : OrderHead) :
    Touches [.banks, .mem, .walker, .mirror, .alert, .messages] s (s.failUnread off h) := by
  have k : Touches [.banks] s (if h.kind = 5 then s.emptyBank h.bank else s) :=
    Touches.ite (emptyBank_touches s _) (Touches.refl _ s)
  exact (k.andThen (memError_touches _ _) : Touches [.banks, .alert, .mirror, .messages] _ _).andThen (retire_touches _ _ _ _)

theorem dispatch_touches (off : Nat) (h : OrderHead) : Touches walkParts s (s.dispatch off h) := by
  unfold State.dispatch
  refine Touches.ite (retire_touches s _ _ _).mono (Touches.ite ?_ ?_)
  · exact (failUnread_touches s _ _).mono
  refine Touches.ite (takeAssemble_touches s _ _ _ _).mono (Touches.ite (takeFinalize_touches s _ _).mono ?_)
  refine Touches.ite (takeClear_touches s _ _).mono (Touches.ite (takeDefineField_touches s _ _).mono ?_)
  exact Touches.ite (takeDefineBank_touches s _ _).mono
    (Touches.ite (takeDiscard_touches s _ _).mono (takeLoadMap_touches s _).mono)

theorem chainFault_touches (why : FaultReason) (off : Nat) :
    Touches [.walker, .mirror, .alert, .messages] s (s.chainFault why off) := by
  unfold State.chainFault
  exact (setWalker_touches s _).andThen (faultRecord_touches _ _ _)

theorem startPoll_touches : Touches [.walker] s s.startPoll := touches_walker s _

theorem markTaken_touches (off : Nat) : Touches [.mem] s (s.markTaken off) := touches_mem s _

theorem followNext_touches : Touches [.walker, .mirror, .alert, .messages] s s.followNext.1 := by
  have f (why : FaultReason) (off : Nat) : Touches [.walker, .mirror, .alert, .messages] s (s.chainFault why off) :=
    chainFault_touches s why off
  have w (x : Walker) : Touches [.walker, .mirror, .alert, .messages] s (s.setWalker x) := (setWalker_touches s x).mono
  unfold State.followNext
  dsimp only
  split
  · exact (memError_touches s _).andThen (chainFault_touches _ _ _)
  · split
    · exact w _
    · split
      · exact w _
      · dsimp only
        exact f _ _

theorem examineRecord_touches : Touches walkParts s s.examineRecord.1 := by
  unfold State.examineRecord
  dsimp only
  split
  · exact (chainFault_touches s _ _).mono
  · split
    · exact (memError_touches s _).andThen (chainFault_touches _ _ _)
    · split
      · exact Touches.refl _ s
      · split
        · split
          · exact Touches.refl _ s
          · exact ((markTaken_touches s _).andThen (dispatch_touches _ _ _) : Touches walkParts _ _).andThen
              (followNext_touches _)
        · exact (chainFault_touches s _ _).mono

theorem examineOnce_touches : Touches walkParts s s.examineOnce.1 := by
  unfold State.examineOnce
  dsimp only
  split
  · exact (startPoll_touches s).andThen (followNext_touches _)
  · exact (startPoll_touches s).andThen (examineRecord_touches _)

theorem examineLoop_touches (fuel : Nat) : Touches walkParts s (s.examineLoop fuel) := by
  induction fuel generalizing s with
  | zero => exact Touches.refl _ s
  | succ fuel ih =>
    unfold State.examineLoop
    dsimp only
    split
    · exact (examineOnce_touches s).trans (ih _)
    · exact examineOnce_touches s

theorem examine_touches : Touches walkParts s s.examine := by
  unfold State.examine
  split
  · exact examineLoop_touches s _
  · exact Touches.refl _ s

theorem stopWalker_touches : Touches [.walker, .mirror] s s.stopWalker := setWalker_touches s _

theorem afterFlight_touches (t : State) : Touches walkParts s (State.afterFlight t s) := by
  unfold State.afterFlight
  split
  · split
    · exact examine_touches s
    · split
      · exact Touches.refl _ s
      · exact (stopWalker_touches s).mono
  · exact Touches.refl _ s

/-- A step whose effect stays within `ps` stays within the walker's parts, the memory errors of the step, and `ps`. -/
theorem stepWith_touches {ps qs : List Part} (errs : List MemErr) (effect : State → State)
    (h : ∀ t, Touches ps t (effect t)) (hw : ∀ p ∈ walkParts, p ∈ qs := by decide) (he : Part.errs ∈ qs := by decide)
    (hp : ∀ p ∈ ps, p ∈ qs := by decide) : Touches qs s (s.stepWith errs effect) := by
  unfold State.stepWith
  refine Touches.trans ((touches_errs s errs).mono fun p hm => ?_)
    ((((h _).mono hp).trans ((afterFlight_touches _ _).mono hw)).trans
      ((noteMemory_touches _ _).mono fun p hm => hw p (List.mem_singleton.mp hm ▸ by decide)))
  rw [List.mem_singleton.mp hm]
  exact he

theorem startWalker_touches : Touches walkParts s s.startWalker := by
  unfold State.startWalker
  exact (setWalker_touches s _).andThen (examine_touches _)

theorem abortAll_touches : Touches (.freeTaken :: walkParts) s s.abortAll := by
  unfold State.abortAll
  split
  · dsimp only
    split
    · exact ((touches_freeTaken s _).andThen (abortService_touches _) : Touches (.freeTaken :: walkParts) _ _).andThen
        (abortDeposit_touches _)
    · exact ((touches_freeTaken s _).andThen (abortDeposit_touches _) : Touches (.freeTaken :: walkParts) _ _).andThen
        (abortService_touches _)
  · exact (abortDeposit_touches s).andThen (abortService_touches _)

/-! ### The host port -/

theorem applyRun_touches (was : WalkerState) : Touches walkParts s (s.applyRun was) := by
  unfold State.applyRun
  split
  · split
    · exact startWalker_touches s
    · exact Touches.refl _ s
  · split
    · exact Touches.refl _ s
    · split
      · exact (touches_walker s _).mono
      · exact (stopWalker_touches s).mono

/-- A CONTROL write that is not a soft reset. -/
theorem controlWrite_touches (c : ControlWrite) (hc : c.softReset = false) :
    Touches (.port :: .freeTaken :: walkParts) s (s.controlWrite c) := by
  have k (t : State) (h : Touches (.port :: .freeTaken :: walkParts) s t) :
      Touches (.port :: .freeTaken :: walkParts) s (if c.abort = true then t.abortAll else t) := by
    split
    · exact h.andThen (abortAll_touches _)
    · exact h
  unfold State.controlWrite
  rw [if_neg (by simp [hc])]
  exact (k _ (touches_port s _).mono).andThen (applyRun_touches _ _)

theorem writeChainStart_touches (w : RegWrite) : Touches [.port] s (s.writeChainStart w) := by
  unfold State.writeChainStart
  split
  · exact touches_port s _
  · exact Touches.refl _ s

theorem writePoll_touches (w : RegWrite) : Touches [.port] s (s.writePoll w) := touches_port s _

theorem writeAlertCfg_touches (w : RegWrite) : Touches [.port, .alert, .messages] s (s.writeAlertCfg w) := by
  have k (t : State) (h : Touches [.port] s t) : Touches [.port, .alert, .messages] s
      (if t.testMark.port.alertCfg.quiet = 0 then
        { t.testMark with alert := { t.testMark.alert with quietTimer := none } } else t.testMark) :=
    Touches.ite ((h.andThen (testMark_touches t) : Touches [.port, .alert, .messages] _ _).andThen (touches_alert _ _))
      (h.andThen (testMark_touches t))
  have h := (touches_port s { s.port with alertCfg := alertCfgAfter s.port.alertCfg w })
  unfold State.writeAlertCfg
  generalize ({ s with port := { s.port with alertCfg := alertCfgAfter s.port.alertCfg w } } : State) = t at h ⊢
  dsimp only
  cases lowHalf w with
  | none => exact h.mono
  | some v => exact k t h

theorem writeAlert_touches (w : RegWrite) : Touches [.alert, .messages] s (s.writeAlert w) := by
  unfold State.writeAlert
  split
  · exact Touches.refl _ s
  · split
    · exact Touches.refl _ s
    · exact acknowledge_touches s _

theorem readAlert_touches (p : RegPart) : Touches [.readData, .alert, .messages] s (s.readAlert p) := by
  unfold State.readAlert
  dsimp only
  split
  · exact (touches_readData s _).andThen (acknowledge_touches _ _)
  · exact (touches_readData s _).mono

theorem readRegister_touches (r : Reg) (p : RegPart) :
    Touches [.readData, .alert, .messages] s (s.readRegister r p) := by
  have h (x : List Byte) : Touches [.readData, .alert, .messages] s { s with readData := x } := (touches_readData s x).mono
  cases r with
  | alert => exact readAlert_touches s p
  | ident => exact h _
  | control => exact h _
  | chainStart => exact h _
  | poll => exact h _
  | nudge => exact h _
  | alertCfg => exact h _
  | cause => exact h _

theorem quietExpiry_touches : Touches [.alert, .messages] s s.quietExpiry := by
  unfold State.quietExpiry
  split
  · split
    · dsimp only
      split
      · exact (touches_alert s _).andThen (raise_touches _ _)
      · exact (touches_alert s _).mono
    · exact Touches.refl _ s
  · exact Touches.refl _ s

theorem pollExpiry_touches : Touches walkParts s s.pollExpiry := by
  unfold State.pollExpiry
  split
  · split
    · exact examine_touches s
    · exact Touches.refl _ s
  · exact Touches.refl _ s

theorem dropWrite_touches : Touches [.port, .mirror, .alert, .messages] s s.dropWrite := by
  unfold State.dropWrite
  exact ((touches_port s _).andThen (mirrorIf_touches _ _ _ _ _) : Touches [.port, .mirror] _ _).andThen
    (raise_touches _ _)

theorem hostStore_touches (off : Nat) (bytes : List Byte) :
    Touches [.mem, .past, .port, .mirror, .alert, .messages] s (s.hostStore off bytes) := by
  unfold State.hostStore
  split
  · exact (dropWrite_touches s).mono
  · exact (touches_mem s _).andThen (noteMemory_touches _ _)

theorem landRowWrites_touches (ws : List RowWrite) :
    Touches [.mem, .past, .port, .mirror, .alert, .messages] s (s.landRowWrites ws) := by
  induction ws generalizing s with
  | nil => exact Touches.refl _ s
  | cons w ws ih => exact (hostStore_touches s _ _).trans (ih _)

theorem rowStep_touches (reads : RowReads) : Touches (.port :: .errs :: walkParts) s (s.rowStep reads) :=
  ((landRowWrites_touches s reads.during).mono : Touches (.port :: .errs :: walkParts) s _).trans
    (stepWith_touches _ reads.errs _ fun t => rowEvent_touches t _)

theorem hostLoad_touches (off n : Nat) :
    Touches [.readData, .freeTaken, .mirror, .alert, .messages] s (s.hostLoad off n) := by
  have h (x : List Byte) (k : Nat) : Touches [.readData, .freeTaken] s { s with readData := x, freeTaken := k } := by
    intro p hp; cases p <;> first | rfl | exact absurd (by decide) hp
  unfold State.hostLoad
  generalize s.hostBytes off n = x
  exact Touches.ite ((h x _).andThen (memError_touches _ _)) (h x _).mono

theorem landMirror_touches (off : Nat) : Touches [.mem, .mirror] s (s.landMirror off) := by
  unfold State.landMirror
  split
  · intro p hp; cases p <;> first | rfl | exact absurd (by decide) hp
  · exact Touches.refl _ s

/-! ### Resets -/

theorem queueAll_touches (ws : List (Nat × List Byte)) : Touches [.mirror] s (s.queueAll ws) :=
  Touches.foldl _ (fun t _ => queueMirror_touches t _ _) ws s

theorem resetWalker_touches : Touches [.walker, .mirror] s s.resetWalker := by
  unfold State.resetWalker
  exact (touches_walker s _).andThen (queueAll_touches _ _)

theorem resetAlert_touches : Touches [.alert, .mirror] s s.resetAlert := by
  unfold State.resetAlert
  exact (touches_alert s _).andThen (queueAll_touches _ _)

theorem resetPort_touches (c m : Bool) : Touches [.port] s (s.resetPort c m) := touches_port s _

theorem busReset_touches :
    Touches [.exposures, .mirror, .deposit, .loader, .service, .port, .walker, .alert] s s.busReset := by
  unfold State.busReset
  exact ((((dropDeposit_touches s).andThen (dropService_touches _) :
    Touches [.exposures, .mirror, .deposit, .loader, .service] _ _).andThen (resetPort_touches _ _ _) :
    Touches [.exposures, .mirror, .deposit, .loader, .service, .port] _ _).andThen (resetWalker_touches _) :
    Touches [.exposures, .mirror, .deposit, .loader, .service, .port, .walker] _ _).andThen (resetAlert_touches _)

theorem emptyPool_touches : Touches [.exposures, .slots, .mirror] s s.emptyPool := by
  have h (e : Vector (Option ExpEntry) 4) (x : Vector (Option Slot) 128) (ws : List (Nat × List Byte)) :
      Touches [.exposures, .slots, .mirror] s (({ s with exposures := e, slots := x } : State).queueAll ws) := by
    refine Touches.andThen (ps := [.exposures, .slots]) ?_ (queueAll_touches _ ws)
    intro p hp; cases p <;> first | rfl | exact absurd (by decide) hp
  exact h _ _ _

theorem softReset_touches :
    Touches [.links, .exposures, .slots, .mirror, .deposit, .loader, .service, .port, .walker, .alert] s s.softReset := by
  unfold State.softReset
  exact ((((((touches_deposit s _).andThen (dropService_touches _) :
    Touches [.deposit, .loader, .service] _ _).andThen (resetPort_touches _ _ _) :
    Touches [.deposit, .loader, .service, .port] _ _).andThen (resetWalker_touches _) :
    Touches [.mirror, .deposit, .loader, .service, .port, .walker] _ _).andThen (resetAlert_touches _) :
    Touches [.mirror, .deposit, .loader, .service, .port, .walker, .alert] _ _).andThen (emptyPool_touches _) :
    Touches [.exposures, .slots, .mirror, .deposit, .loader, .service, .port, .walker, .alert] _ _).andThen
    (Touches.foldl _ softResetLink_touches _ _)

end Sys2Proof.Machine
end

