-- ==== Sys2Proof/WellFormed.lean ====
section
/-! DEFINITION. Which commands are well formed: the operands a step of the table can have. -/

namespace Sys2Proof

/-- The word of a CONTROL write has bit `n` set. -/
def ctlBit (w : ControlWord) (n : Nat) : Bool := w.value.getLsbD n

/-- A read or write request of the memory aperture stays inside it (R157: offsets 0 to 0x3_FFFF_FFFF). -/
def inAperture (off : BitVec 34) (len : Nat) : Bool := decide (off.toNat + len ≤ Config.memSize)

/-- A well-formed command: a CONTROL write row carries a word that is such a write (R159), a memory request stays in
the aperture (R157), one that lands within a ROW_DEPOSIT too, and a ROW's payload is at most 4096 bytes (R34). -/
def Instr.wf : Instr → Bool
  | .powerOn => true
  | .busReset => true
  | .softReset w => ctlBit w 2
  | .runSet w _ => ctlBit w 0 && !ctlBit w 2
  | .runClear w _ => !ctlBit w 0 && !ctlBit w 2
  | .abort w _ => ctlBit w 1 && !ctlBit w 2
  | .clearMode w _ => !ctlBit w 2
  | .msgEn w _ => !ctlBit w 2
  | .chainStart _ => true
  | .poll _ => true
  | .nudge _ _ => true
  | .alertCfg _ => true
  | .alertWrite _ => true
  | .alertRead _ => true
  | .registerWrite _ => true
  | .hostWrite off bytes => inAperture off bytes.length
  | .hostRead (.aperture off len) _ => inAperture off len
  | .hostRead (.register _ _) _ => true
  | .laneStartMark _ _ _ => true
  | .laneEndMark _ _ _ => true
  | .exposureOpen _ _ _ => true
  | .exposureClose _ _ _ => true
  | .segmentBegin _ _ _ _ => true
  | .row _ _ _ samples => decide (2 + 2 * samples.length ≤ Config.payloadMax)
  | .segmentEnd _ _ _ _ => true
  | .burstEnd _ => true
  | .flashStatusRead _ => true
  | .flashBusyTimeout _ => true
  | .mapLoadEnd _ _ => true
  | .loadMapBegin => true
  | .pollTimerExpiry _ => true
  | .rowDeposit reads => reads.during.all fun w => inAperture w.off w.bytes.length
  | .deadlineExpiry _ => true
  | .finalizeCellOpening => true
  | .finalizeCellRow _ => true
  | .finalizeCellClosing _ => true
  | .cellClear _ => true
  | .defineBankEnd _ => true
  | .quietTimerExpiry => true
  | .laneDataByte _ _ _ _ => true
  | .mirrorWriteLands _ => true

end Sys2Proof
end

