-- ==== Sys2Proof/Tests/Slice0.lean ====
section
/-! SUPPORT. The model's own tests: an ill-formed term for each check of WellFormed, one step on a small state for each command with
the manual's own figures, and for each statement with hypotheses a state and operands that meet them (`witness_…`). -/

set_option Elab.async false

namespace Sys2Proof.Tests

open Sys2Proof.Machine

/-! ### Small states -/

/-- The state a command answers. -/
def after (c : Instr) (s : State) : State :=
  match exec c s with
  | .next t => t
  | _ => s

/-- The geometry of a small segment: 1 prescan, 4 image and 1 overscan columns, 8 rows, as segment 17. -/
def geometry : StreamEntry := ⟨17, 1, 4, 1, 6, 8⟩

/-- The map entry of the small segment, on stream 1 of LINK1, with the linear terms of chapter 6's example. -/
def entry : SegEntry :=
  ⟨1, 1, 1, true, 1, 4, 1, 8, 1073741824, 0, 0, 1073741824, 1074278694912, 215016800256⟩

/-- A map copy that holds the small segment alone. -/
def smallMap : Vector (Option SegEntry) 64 := (Vector.replicate 64 none).set 17 (some entry)

/-- Link settings with the lanes given, burst-end required, the small segment on stream 1. -/
def settings (lanes : Nat) : LinkSettings := ⟨lanes, true, (Vector.replicate 16 none).set 1 (some geometry)⟩

/-- A link in IDLE with those settings. -/
def idleLink (lanes : Nat) : Link := { Link.start with phase := .idle, settings := some (settings lanes) }

/-- The power-on state with one link replaced. -/
def onLink (k : Link) : State := { State.reset with links := State.reset.links.set 1 k }

/-- LINK1 in a burst with lane 0 open. -/
def burst (lanes : Nat) : State := after (.laneStartMark 1 0 []) (onLink (idleLink lanes))

/-- Exposure 0x0207 open on LINK1. -/
def opened : State := after (.exposureOpen 1 0x0207 []) (onLink (idleLink 1))

/-- Segment 17 of the exposure begun, all 8 rows expected. -/
def begun : State := after (.segmentBegin 1 1 8 []) opened

/-- The six samples of a row. -/
def samples : List (BitVec 16) := [1, 2, 3, 4, 5, 0x1234]

/-- Row 3 of the segment stored. -/
def stored3 : State := after (.row 1 1 3 samples) begun

/-- A slot made LATE. -/
def late : State := { begun with slots := begun.slots.set 0 ((begun.slots[0]).map fun sl => { sl with state := .late }) }

/-- Board memory with an order record at 0x1000 in the state given, of a kind, with its field or tag byte and more cells after. -/
def record (word kind byte40 : Byte) (rest : List Host.Cell) : List Host.Cell :=
  [(0x24, 128), (0x1000, word), (0x1004, kind), (0x1028, byte40)].filter (fun c => decide (c.2 ≠ 0)) ++ rest

/-- The walker RUNNING at 0x1000 with RUN set, over the memory given. -/
def running (m : List Host.Cell) : State :=
  { State.reset with
    mem := m
    walker := { Walker.start with state := .running, cursor := 0x1000 }
    port := { HostPort.start with control := ⟨true, false, false⟩ } }

/-- The same walker HALTED. -/
def halted (m : List Host.Cell) : State := { running m with walker := { Walker.start with state := .halted, cursor := 0x1000 } }

/-- FIELD0 as in the worked example of chapter 7: origin (10000, 20000), 8 by 4 cells, region base 0x1_0000_0000. -/
def field0 : Field := ⟨10000, 20000, 8, 4, 0x100000000, List.replicate 32 DirCell.vacant⟩

/-- A state with FIELD0 defined. -/
def withField (s : State) : State := { s with fields := s.fields.set 0 (some field0) }

/-- FIELD0 with the cell (0, 0) as given. -/
def withCell (d : DirCell) (s : State) : State :=
  { s with fields := s.fields.set 0 (some { field0 with cells := field0.cells.set 0 d }) }

/-- A cell in the state given. -/
def cellIn (st : CellState) : DirCell := ⟨st, 0, [], false, none⟩

/-- A placement at whole sky pixels. -/
def placed : Placement := ⟨1073741824, 0, 0, 1073741824, 0, 0⟩

/-- A bank of one kind of amplifier, in FIXED mode at 0, saturated from 60000. -/
def bank : Bank := ⟨Vector.replicate 64 ⟨.fixed, 0, 0, 1, 4096, 60000, 0x2000, 0, 0⟩, []⟩

/-- An ASSEMBLE of exposure 0x0207 into FIELD0 with bank 3, its record at 0x1000. -/
def assembly : Assembly :=
  { record := 0x1000, tag := 0x0207, field := 0, bank := 3, tileComplete := false, weight := 100, map := smallMap,
    place := (Vector.replicate 64 none).set 17 (some placed), ou := 10000, ov := 20000, width := 2048, height := 1024,
    deadline := 1, expiry := some 50, deadlinePassed := false, turn := 17, current := none, draining := [], results := Results.zero,
    made := false }

/-- The ASSEMBLE serving the exposure with row 3 stored. -/
def serving : State :=
  let s := withField stored3
  { s with deposit := .serving assembly, banks := s.banks.set 3 (some bank) }

/-- A FINALIZE of the first two cells of FIELD0 with its products at 0x10_0000. -/
def finalize (phase : CellPhase) (k : Nat) : Finalize :=
  { record := 0x1000, field := 0, rect := ⟨0, 0, 2, 1⟩, base := 0x100000, reject := true, k := k, phase := phase,
    shown := .accumulating, cellNoData := 7, cellRejected := 2, written := 0, noData := 0, rejected := 0,
    anySpoiled := false }

/-- The FINALIZE in flight, the walker HALTED. -/
def finalizing (phase : CellPhase) (k : Nat) : State :=
  { withCell (cellIn .accumulating) (halted (record 2 2 0 [])) with service := some (.finalize (finalize phase k)) }

/-! ### Well-formed commands -/

theorem test_wf_softReset_without_its_bit : (Instr.softReset (.whole 0b011)).wf = false := by decide
theorem test_wf_runSet_without_RUN : (Instr.runSet (.whole 0b000) []).wf = false := by decide
theorem test_wf_runSet_with_SOFT_RESET : (Instr.runSet (.whole 0b101) []).wf = false := by decide
theorem test_wf_runClear_with_RUN : (Instr.runClear (.whole 0b001) []).wf = false := by decide
theorem test_wf_runClear_with_SOFT_RESET : (Instr.runClear (.whole 0b100) []).wf = false := by decide
theorem test_wf_abort_without_ABORT : (Instr.abort (.whole 0b001) []).wf = false := by decide
theorem test_wf_abort_with_SOFT_RESET : (Instr.abort (.whole 0b110) []).wf = false := by decide
theorem test_wf_clearMode_with_SOFT_RESET : (Instr.clearMode (.whole 0b1100) []).wf = false := by decide
theorem test_wf_msgEn_with_SOFT_RESET : (Instr.msgEn (.whole 0b10100) []).wf = false := by decide
theorem test_wf_hostWrite_beyond_the_aperture : (Instr.hostWrite 0x3FFFFFFFF [1, 2]).wf = false := by decide
theorem test_wf_hostRead_beyond_the_aperture : (Instr.hostRead (.aperture 0x3FFFFFFFF 2) []).wf = false := by decide
theorem test_wf_rowDeposit_writes_beyond_the_aperture :
    (Instr.rowDeposit ⟨[⟨0x3FFFFFFFF, [1, 2], []⟩], []⟩).wf = false := by decide
theorem test_wf_row_longer_than_4096_bytes : (Instr.row 0 0 0 (List.replicate 2048 0)).wf = false := by decide +kernel

/-! ### Commands, with the manual's figures -/

/-- R171: power-on leaves POLL 100. -/
theorem test_powerOn : (after .powerOn (running [])).port.poll = 100 := by decide +kernel

/-- R171: a bus reset keeps the cursor. -/
theorem test_busReset : (after .busReset (running [])).walker.cursor = 0x1000 := by decide +kernel

/-- R159: a soft reset keeps CLEAR_MODE whatever the write carries. -/
theorem test_softReset :
    (after (.softReset (.whole 0b111))
      { State.reset with port := { HostPort.start with control := ⟨true, true, false⟩ } }).port.control
      = ⟨false, true, false⟩ := by decide +kernel

/-- R160: a CHAIN_START left at 0 halts the walker at once. -/
theorem test_runSet_chain_start_0 : (after (.runSet (.whole 1) []) State.reset).walker.state = .halted := by decide +kernel

/-- R162: RUN cleared with no order in flight stops the walker. -/
theorem test_runClear : (after (.runClear (.whole 0) []) (running [])).walker.state = .stopped := by decide +kernel

/-- R159: ABORT with no order in flight has no effect, and reads as 0. -/
theorem test_abort_nothing : after (.abort (.whole 0b10) []) State.reset = State.reset := by decide +kernel

/-- R158: the low half of CONTROL holds every field; a write of its high half is no CONTROL write. -/
theorem test_control_halves :
    windowWrite 0x08 4 0b11001 [] = some (.runSet (.low 0b11001) [])
      ∧ windowWrite 0x0C 4 1 [] = some (.registerWrite (.controlHigh 1))
      ∧ (after (.runSet (.low 0b11001) []) State.reset).port.control = ⟨true, true, true⟩ := by decide +kernel

/-- R159: CLEAR_MODE is bit 3. -/
theorem test_clearMode : (after (.clearMode (.whole 0b1000) []) State.reset).port.control = ⟨false, true, false⟩ := by
  decide +kernel

/-- R159: MSG_EN is bit 4. -/
theorem test_msgEn : (after (.msgEn (.whole 0b10000) []) State.reset).port.control = ⟨false, false, true⟩ := by decide +kernel

/-- R158: bits 35:0 of CHAIN_START are kept. -/
theorem test_chainStart : (after (.chainStart (.whole 0xFFFFFFFFF0001000)) State.reset).port.chainStart = 0xFF0001000 := by
  decide +kernel

/-- R160: a POLL of 0 is kept as 1. -/
theorem test_poll_0 : (after (.poll (.whole 0)) State.reset).port.poll = 1 := by decide +kernel

/-- R161: the poll timer starts at each examination, 100 µs at the reset interval. -/
theorem test_nudge : (after (.nudge (.whole 0) []) (running [])).walker.pollTimer = some 100 := by decide +kernel

/-- Chapter 11's example: mark 4 and quiet 50 with all enables. -/
theorem test_alertCfg :
    (after (.alertCfg (.whole 0xF00320004)) State.reset).port.alertCfg = ⟨4, 50, ⟨true, true, true, true⟩⟩ := by
  decide +kernel

/-- R176: a write removes the causes written as 1; MARK named sets the count to 0. -/
theorem test_alertWrite :
    (after (.alertWrite (.whole 0b0100))
      { State.reset with alert := { AlertUnit.start with pending := ⟨true, false, true, false⟩, ackCount := 4 } }).alert
      = { AlertUnit.start with pending := ⟨true, false, false, false⟩ } := by decide +kernel

/-- Chapter 11's example, event 7: a read in CLEAR_MODE 1 returns QUIET, FAULT and MARK and empties the set. -/
theorem test_alertRead :
    (fun t => (t.readData, t.alert.pending, t.alert.ackCount))
      (after (.alertRead .low)
        { State.reset with
          port := { HostPort.start with control := ⟨false, true, true⟩ }
          alert := { AlertUnit.start with pending := ⟨true, false, true, true⟩, ackCount := 4 } })
      = ([0b1101, 0, 0, 0], Causes.empty, 0) := by decide +kernel

/-- R158: writes to IDENT are ignored. -/
theorem test_registerWrite : after (.registerWrite (.ident (.whole 0xFFFF))) State.reset = State.reset := by
  decide +kernel

/-- R170: a request with one byte in the progress block is dropped whole and counted. -/
theorem test_hostWrite_guard :
    (fun t => (Memory.read t.mem 0x1000, t.port.guardDrops)) (after (.hostWrite 0xFFF [1, 2]) State.reset) = (0, 1) := by
  decide +kernel

/-- R157: the general region begins at 0x1000. -/
theorem test_hostWrite_lands : Memory.read (after (.hostWrite 0x1000 [5]) State.reset).mem 0x1000 = 5 := by
  decide +kernel

/-- R157: offsets above the tile pool read as zeros; R68: the free count mirror reads 128. -/
theorem test_hostRead :
    ((after (.hostRead (.aperture 0x24 4) []) State.reset).readData,
      (after (.hostRead (.aperture 0x3FB000000 2) []) State.reset).readData) = ([128, 0, 0, 0], [0, 0]) := by
  decide +kernel

/-- The register table: IDENT reads vendor 0x1A5D, part 0x2416, revision 1, map state LOADING after power-on. -/
theorem test_hostRead_ident :
    (after (.hostRead (.register .ident .whole) []) State.reset).readData = [0x5D, 0x1A, 0x16, 0x24, 1, 2, 0, 0] := by
  decide +kernel

/-- R16: a start mark opens the burst. -/
theorem test_laneStartMark : (burst 2).links[1].phase = .burst := by decide +kernel

/-- R18, R24: a burst that ends without a BURST_END counts a missing end mark and closes. -/
theorem test_laneEndMark :
    (fun k : Link => (k.phase, k.counters[13])) (after (.laneEndMark 1 0 []) (burst 1)).links[1] = (.idle, 1) := by
  decide +kernel

/-- R17: with one lane a byte is merged at once. -/
theorem test_laneDataByte : (after (.laneDataByte 1 0 0x13 []) (burst 1)).links[1].parser.hdr = [0x13] := by
  decide +kernel

/-- R49: a new entry takes the lowest free place. -/
theorem test_exposureOpen : (opened.exposures[0]).map ExpEntry.tag = some 0x0207 := by decide +kernel

/-- R53: the only link's close makes the entry CLOSED. -/
theorem test_exposureClose :
    ((after (.exposureClose 1 0x0207 []) opened).exposures[0]).map ExpEntry.state = some .closed := by decide +kernel

/-- R59: a header value of 2048, above the map's 8 rows, expects 8. -/
theorem test_segmentBegin :
    ((after (.segmentBegin 1 1 2048 []) opened).slots[0]).map Slot.expected = some 8 := by decide +kernel

/-- R57: row 3 of slot 0 begins at 0x3_D800_0000 + 3 × 2240, its sixth sample low byte first. -/
theorem test_row :
    (stored3.slots[0]).map Slot.rows = some [3] ∧ Memory.read stored3.mem (0x3D8000000 + 3 * 2240 + 10) = 0x34 := by
  decide +kernel

/-- R62: a row not above the highest stored row is a stray row. -/
theorem test_row_stray : (after (.row 1 1 3 samples) stored3).links[1].counters[7] = 1 := by decide +kernel

/-- R64: a segment's end records the rows sent. -/
theorem test_segmentEnd :
    ((after (.segmentEnd 1 1 1 []) stored3).slots[0]).map (fun sl => (sl.state, sl.sent)) = some (.complete, some 1) := by
  decide +kernel

/-- R24: a BURST_END sets the end-mark state. -/
theorem test_burstEnd : (after (.burstEnd 1) (burst 1)).links[1].endMark = true := by decide +kernel

/-- R6: a ready flash starts the data read. -/
theorem test_flashStatusRead : (after (.flashStatusRead 0) State.reset).loader.load = some ⟨false, .dataRead⟩ := by
  decide +kernel

/-- R6, R7: the busy wait ends at 50 ms, and the map is ABSENT again. -/
theorem test_flashBusyTimeout :
    (after (.flashBusyTimeout []) { State.reset with timeBase := 50000 }).loader.state = .absent
      ∧ (after (.flashBusyTimeout []) { State.reset with timeBase := 49999 }).loader.state = .loading := by
  decide +kernel

/-- R4: an erased flash fails the checks. -/
theorem test_mapLoadEnd :
    (after (.mapLoadEnd [] ⟨[], []⟩) (after (.flashStatusRead 0) State.reset)).loader = ⟨none, .absent, .absent, none⟩ := by
  decide +kernel

/-- R8: a host write over the magic of an image whose 64 entries would run past the general region: with the magic read before it, the load
fails with REGION_RANGE (23), and with every byte read after it with MAP_CHECK (27). -/
theorem test_mapLoadEnd_written :
    ∀ x ∈ [([EarlyRead.mk 0 [0x3D7FFFFF0]], 23), ([], 27)],
      Memory.read (after (.mapLoadEnd [] ⟨x.1, []⟩) (after (.hostWrite 0x3D7FFFFF0 [0])
        { halted (record 2 7 0 (Memory.cells 0x3D7FFFFF0 [0x46, 0x4D, 0x41, 0x50, 1, 0, 64, 0])) with
          loader := ⟨none, .loading, .absent, some ⟨true, .memory 0x3D7FFFFF0⟩⟩
          service := some (.loadMap 0x1000 (some 0x3D7FFFFF0) true) })).mem 0x1006 = x.2 := by decide +kernel

/-- R7: a LOAD_MAP that waited begins its load from the state the power-on load left. -/
theorem test_loadMapBegin :
    (after .loadMapBegin
      { State.reset with
        loader := ⟨none, .absent, .absent, none⟩, service := some (.loadMap 0x1000 none false), timeBase := 9 }).loader
      = ⟨none, .loading, .absent, some ⟨true, .busyWait 9⟩⟩ := by decide +kernel

/-- R161: an expiry of the poll timer examines the cursor afresh. -/
theorem test_pollTimerExpiry :
    (after (.pollTimerExpiry [])
      { running [] with timeBase := 100, walker := { (running []).walker with pollTimer := some 100 } }).walker.pollTimer
      = some 200 := by decide +kernel

/-- R132, R116: a row deposit moves the cursor past the row; a linearity table of zeros gives values of 0, which are deposited. -/
theorem test_rowDeposit :
    ((after (.rowDeposit ⟨[], []⟩) serving).slots[0]).map Slot.cursor = some 4
      ∧ ((after (.rowDeposit ⟨[], []⟩) serving).fields[0]).map (fun f => (f.cells[0]?).map DirCell.deposits) = some (some 1) := by
  decide +kernel

/-- R78, R87: a host write of table entry 0 (16384) while the row's reads are under way: read before it, sample 2 gives 0; read after it, 32
at exposure weight 100. -/
theorem test_rowDeposit_table_written :
    ∀ x ∈ [([RowEntry.table 0], 0), ([], 32 * 25600)],
      (readRecord (after (.rowDeposit ⟨[⟨0x2000, [0, 0x40], x.1⟩], []⟩) serving).mem (field0.recordOff 0 3)).fsum = x.2 := by
  decide +kernel

/-- R130: an ASSEMBLE that waited past its deadline ends EMPTY (status 2) and its record DONE (3). -/
theorem test_deadlineExpiry :
    (fun t => (t.deposit, Memory.read t.mem 0x1000, Memory.read t.mem 0x1006))
      (after (.deadlineExpiry []) { halted (record 2 1 0 []) with deposit := .waiting assembly, timeBase := 50 })
      = (.idle, 3, 2) := by decide +kernel

/-- R148: the opening writes WRITING (1). -/
theorem test_finalizeCellOpening :
    Memory.read (after .finalizeCellOpening (finalizing .opening 0)).mem 0x100000 = 1 := by decide +kernel

/-- R150: a record without weight is published NODATA (32) in the mask plane. -/
theorem test_finalizeCellRow :
    Memory.read (after (.finalizeCellRow []) (finalizing (.rows 255 false) 0)).mem (0x100000 + 528384 + 255 * 512) = 32 := by
  decide +kernel

/-- R121, R147: the closing shows CURRENT (2), and the cell is FINALIZED with its product remembered. -/
theorem test_finalizeCellClosing :
    (fun t => (Memory.read t.mem 0x100000, (t.fields[0]).map fun f => (f.cells[0]?).map fun d => (d.state, d.last)))
      (after (.finalizeCellClosing []) (finalizing .closing 0))
      = (2, some (some (.finalized, some 0x100000))) := by decide +kernel

/-- R123: the cell cleared is VACANT, and the next of the rectangle is next. -/
theorem test_cellClear :
    (fun t => ((t.fields[0]).map fun f => f.cells[0]?, t.service))
      (after (.cellClear [])
        { withCell (cellIn .spoiled) State.reset with service := some (.clearField 0x1000 0 ⟨0, 0, 2, 1⟩ 0) })
      = (some (some DirCell.vacant), some (.clearField 0x1000 0 ⟨0, 0, 2, 1⟩ 1)) := by decide +kernel

/-- R75, check 1: a bank record without the magic fails with BANK_CHECK (26), FAILED (4). -/
theorem test_defineBankEnd :
    (fun t => (Memory.read t.mem 0x1000, Memory.read t.mem 0x1006, t.banks[3]))
      (after (.defineBankEnd ⟨[], []⟩)
        { halted (record 2 5 3 []) with service := some (.defineBank 0x1000 3 0x2000 smallMap) })
      = (4, 26, none) := by decide +kernel

/-- R74: a host write over the magic of a bank record that would run past the general region: with the magic read before it, the define fails
with REGION_RANGE (23), and with every byte read after it with BANK_CHECK (26). -/
theorem test_defineBankEnd_written :
    ∀ x ∈ [([EarlyRead.mk 0 [0x3D7FFFFF0]], 23), ([], 26)],
      Memory.read (after (.defineBankEnd ⟨x.1, []⟩) (after (.hostWrite 0x3D7FFFFF0 [0])
        { halted (record 2 5 3 (Memory.cells 0x3D7FFFFF0 [0x42, 0x41, 0x4E, 0x4B, 3])) with
          service := some (.defineBank 0x1000 3 0x3D7FFFFF0 smallMap) })).mem 0x1006 = x.2 := by decide +kernel

/-- R73: a DEFINE_BANK whose take-up read meets a memory error leaves its bank EMPTY (log 43). -/
theorem test_defineBank_unread :
    (after (.nudge (.whole 0) [⟨.takeUp, 0x1053⟩])
      { running (record 1 5 3 []) with banks := State.reset.banks.set 3 (some bank) }).banks[3] = none := by decide +kernel

/-- Chapter 11's example, event 3: expiry with a count of 2 raises QUIET, and a message is sent. -/
theorem test_quietTimerExpiry :
    (fun t => (t.alert.pending, t.alert.quietTimer, t.messages))
      (after .quietTimerExpiry
        { State.reset with
          timeBase := 700
          port := { HostPort.start with control := ⟨false, true, true⟩ }
          alert := { AlertUnit.start with ackCount := 2, quietTimer := some 700 } })
      = (⟨false, false, false, true⟩, none, 1) := by decide +kernel

/-- R169: until the write lands a host read returns the previous value. -/
theorem test_mirrorWriteLands :
    (Memory.read begun.mem 0x24, Memory.read (after (.mirrorWriteLands 0x24) begun).mem 0x24) = (128, 127) := by
  decide +kernel

/-! ### Worked values -/

/-- Chapter 3's example: the header as received intact, with data bit 4 flipped, with check bit 2 flipped, with data bits 4 and 19
flipped. -/
theorem test_header_code :
    (decodeHeader 0x080013 0x27, decodeHeader 0x080003 0x27, decodeHeader 0x080013 0x23, decodeHeader 0x000003 0x27)
      = (some (⟨1, 3, 2048⟩, false), some (⟨1, 3, 2048⟩, true), some (⟨1, 3, 2048⟩, true), none) := by decide +kernel

/-- Chapter 3's CRC values. -/
theorem test_crc :
    (crc16 [], crc16 [0], crc16 [0x31, 0x32, 0x33, 0x34, 0x35, 0x36, 0x37, 0x38, 0x39]) = (0xFFFF, 0x0F87, 0x6F91) := by
  decide +kernel

/-- Chapter 5's example: pixel (23, 40), and pixel (25, 40) below the bias. -/
theorem test_calibration :
    (overscanMean 8000 8,
      calibratedValue 12000 1000 6144 (List.replicate 171 15000 ++ [16220]) 17000,
      calibratedValue 990 1000 6144 [15000] 16000) = (1000, (271183, false), (-215, false)) := by decide +kernel

/-- Chapter 6's example: the composition for segment 17 and the targets of pixel (23, 40), with their weights. -/
theorem test_placement :
    (compose entry ⟨1073741824, 0, 11274440146944, 21796959027200⟩ 10000 20000).Cu = 1611300601856
      ∧ (targets 1635996663808 580089020416).map (fun t => (t.i, t.j, t.split, shareWeight t.split 100))
        = [(1523, 540, 17664, 6900), (1524, 540, 31488, 12300), (1523, 541, 5888, 2300), (1524, 541, 10496, 4100)]
      ∧ (wholePart (-268435456), fraction (-268435456)) = (-1, 192) := by decide +kernel

/-- Chapter 7's example: the record of sky pixel (1523, 540) begins at 0x1_01FA_B6C8. -/
theorem test_record_offset : field0.recordOff 1523 540 = 0x101FAB6C8 := by decide +kernel

/-- Chapters 7 and 9, the rejection case: the record of three deposits, and what it publishes without and with rejection. -/
theorem test_rejection :
    let r := ((((⟨0, 0, 0, 0, 0, 0⟩ : AccRecord).share 100 1000 false).1.share 120 1000 false).1.share 5000 1000 false).1
    r = ⟨5220000, 3000, 5000, 1000, 3, 0⟩
      ∧ (publishRecord false r, publishRecord true r) = (⟨1740, 3000, 0⟩, ⟨110, 2000, 16⟩) := by decide +kernel

/-- Chapter 9: the ties. -/
theorem test_rounding : (roundDiv (-1500) 1000, roundDiv 1499 1000, roundDiv 2500 1000) = (-2, 1, 3) := by decide

/-! ### Witnesses: states and operands that meet the hypotheses of the statements, clause by clause -/

/-- BusResetSetsAndLeaves: a bound entry; a LOAD_MAP whose load runs. -/
theorem witness_BusResetSetsAndLeaves :
    (serving.deposit = .serving assembly ∧ serving.placeOf assembly.tag = some 0 ∧ (serving.exposures[0]).isSome)
      ∧ ∀ o, State.reset.deposit ≠ .serving o := by
  refine ⟨by decide +kernel, fun o h => ?_⟩
  cases h

/-- ControlWriteKeepsItsFields: RUN written as the walker stands, STOPPED and RUNNING, without ABORT, and with no order in flight. -/
theorem witness_ControlWriteKeepsItsFields :
    ((ControlWord.whole 0b1000).value.getLsbD 0 = decide (State.reset.walker.state ≠ .stopped)
        ∧ (ControlWord.whole 0b1000).value.getLsbD 1 = false ∧ State.reset.NoOrder)
      ∧ (ControlWord.low 0b1001).value.getLsbD 0 = decide ((running []).walker.state ≠ .stopped) := by
  refine ⟨⟨by decide, by decide, rfl, rfl⟩, by decide +kernel⟩

/-- The power-on state with CHAIN_START at the first and the last offset that passes. -/
def chainAt (off : Nat) : State :=
  { State.reset with port := { HostPort.start with chainStart := BitVec.ofNat 36 off } }

/-- RunWrittenInEachWalkerState: STOPPED with CHAIN_START at a FREE record, at the first and last offset that pass, and at offsets that
fail; RUNNING and HALTED; with and without an order in flight. -/
theorem witness_RunWrittenInEachWalkerState :
    (∀ off ∈ [0x1000, 0x3D7FFFF80], (chainAt off).walker.state = .stopped
      ∧ offsetPasses (chainAt off).port.chainStart.toNat = true
      ∧ Memory.readNat (chainAt off).mem (chainAt off).port.chainStart.toNat 4 = 0)
      ∧ (∀ off ∈ [0, 0x1001, 0x3D8000000], (chainAt off).walker.state = .stopped
        ∧ offsetPasses (chainAt off).port.chainStart.toNat = false)
      ∧ (running []).walker.state ≠ .stopped ∧ (halted []).walker.state ≠ .stopped ∧ (running []).NoOrder
      ∧ ¬ ({ running [] with deposit := .waiting assembly } : State).NoOrder := by
  refine ⟨by decide +kernel, by decide +kernel, by decide, by decide, ⟨rfl, rfl⟩, fun h => ?_⟩
  cases h.1

/-- The RUNNING walker with a WAITING order. -/
def waiting : State := { running (record 2 1 7 []) with deposit := .waiting assembly }

/-- AbortEndsTheAssembleInFlight: an order in WAITING and one in SERVING, its record TAKEN. -/
theorem witness_AbortEndsTheAssembleInFlight :
    let s : State := { serving with mem := record 2 1 7 [], walker := (running []).walker }
    (waiting.assembly = some assembly ∧ waiting.service = none ∧ waiting.walker.state ≠ .stopped
      ∧ Memory.readNat waiting.mem 0x1000 4 = 2)
      ∧ s.assembly = some assembly ∧ s.service = none ∧ s.walker.state ≠ .stopped ∧ Memory.readNat s.mem 0x1000 4 = 2
      ∧ s.deposit = .serving assembly ∧ s.placeOf assembly.tag = some 0 ∧ (s.exposures[0]).isSome := by
  decide +kernel

/-- AbortEndsTheServiceOrder: a FINALIZE in flight, and a LOAD_MAP whose load runs. -/
theorem witness_AbortEndsTheServiceOrder :
    ∀ x ∈ [ServiceOrder.finalize (finalize .closing 1), .loadMap 0x1000 none true],
      let s : State := { running (record 2 2 0 []) with service := some x }
      s.deposit = .idle ∧ s.walker.state ≠ .stopped ∧ x.record + 128 ≤ Config.memSize
        ∧ Memory.readNat s.mem x.record 4 = 2 := by
  decide +kernel

/-- RegisterReadsAndWrites: a STOPPED and a RUNNING walker; accesses of the window at its last register, and one that crosses two. -/
theorem witness_RegisterReadsAndWrites :
    State.reset.walker.state = .stopped ∧ (running []).walker.state ≠ .stopped
      ∧ windowPart 0x38 8 = some (.cause, .whole) ∧ windowPart 0x3C 4 = some (.cause, .high)
      ∧ windowPart 0x34 8 = none ∧ windowPart 0x40 4 = none := by decide

/-- HostAccessThroughTheAperture: the last byte below the general region, the first of the tile pool, the last of the aperture, the first
and last of FIELD0's region; the bytes beside them; a read with a memory error met at its last byte, and one without; a write that changes
memory while a define reads, and one while none does. -/
theorem witness_HostAccessThroughTheAperture :
    (∀ a ∈ [0xFFF, 0x3D8000000, 0x3FFFFFFFF, 0x100000000, 0x102FFFFFF], a < 0x1000 ∨ 0x3D8000000 ≤ a
        ∨ (field0.base ≤ a ∧ a < field0.base + field0.cols * field0.rows * 1572864))
      ∧ (∀ a ∈ [0x1000, 0x3D7FFFFFF, 0xFFFFFFFF, 0x103000000], ¬ (a < 0x1000 ∨ 0x3D8000000 ≤ a
        ∨ (field0.base ≤ a ∧ a < field0.base + field0.cols * field0.rows * 1572864)))
      ∧ (0x3FFFFFFFF : BitVec 34).toNat + 0 < 2 ^ 34
      ∧ (∃ e ∈ [(⟨.host, 0x3FFFFFFFF⟩ : MemErr)], e.by_ = .host ∧ 0x3FFFFFFFF ≤ e.at_ ∧ e.at_ < 0x3FFFFFFFF + 1)
      ∧ (¬ ∃ e ∈ ([] : List MemErr), e.by_ = .host ∧ 0 ≤ e.at_ ∧ e.at_ < 1)
      ∧ (let s : State := { State.reset with service := some (.defineBank 0x1000 3 0x2000 smallMap) }
        (after (.hostWrite 0x2000 [7]) s).past = [s.mem] ∧ (after (.hostWrite 0x2000 [7]) State.reset).past = []) := by
  decide +kernel

/-- MirrorWritesLandFieldByField: a counter behind another's write, the free count behind a report, and none of a field. -/
theorem witness_MirrorWritesLandFieldByField :
    let a : MirrorWrite := ⟨0x200, [1]⟩
    let b : MirrorWrite := ⟨0x024, [2]⟩
    let c : MirrorWrite := ⟨0x100, [3]⟩
    [a, b, c] = [a, b] ++ c :: [] ∧ c.off = (0x100 : BitVec 12).toNat ∧ (∀ x ∈ [a, b], x.off ≠ (0x100 : BitVec 12).toNat)
      ∧ [c, b] = [c] ++ b :: [] ∧ b.off = (0x024 : BitVec 12).toNat ∧ (∀ x ∈ [c], ¬ (0x200 ≤ x.off ∧ x.off < 0x600))
      ∧ (∀ x ∈ [a, c], x.off ≠ (0x024 : BitVec 12).toNat) ∧ [a, b] = [] ++ a :: [b] ∧ (0x200 ≤ a.off ∧ a.off < 0x600) := by
  decide

/-- AlertAcknowledgments: both clear modes, and a write of a cause and of none. -/
theorem witness_AlertAcknowledgments :
    State.reset.port.control.clearMode = false ∧ (0b1000 : BitVec 32).setWidth 4 ≠ 0#4 ∧ (0b10000 : BitVec 32).setWidth 4 = 0#4
      ∧ (after (.clearMode (.whole 0b1000) []) State.reset).port.control.clearMode = true
      ∧ ((ControlWord.low 0b1000).value.getLsbD 0 = decide (State.reset.walker.state ≠ .stopped)
        ∧ (ControlWord.low 0b1000).value.getLsbD 1 = false) := by
  decide +kernel

/-- AlertCfgWriteAndQuietExpiry: a timer at its expiry, and one that is a microsecond before it. -/
theorem witness_AlertCfgWriteAndQuietExpiry :
    let s (now : Nat) : State :=
      { State.reset with timeBase := now, alert := { AlertUnit.start with quietTimer := some 700 } }
    ((s 700).alert.quietTimer = some 700 ∧ 700 ≤ (s 700).timeBase)
      ∧ ∀ q, (s 699).alert.quietTimer = some q → (s 699).timeBase < q := by
  refine ⟨by decide, fun q h => ?_⟩
  cases h
  decide

/-- RetirementOfAnOrder: a record TAKEN, one not TAKEN, and a reread that meets a memory error, at the last offset. -/
theorem witness_RetirementOfAnOrder :
    let s : State := { State.reset with mem := [(0x3FFFFFF80, 2)] }
    let e : State := { s with errs := [⟨.reread, 0x3FFFFFF83⟩] }
    0x3FFFFFF80 + 128 ≤ Config.memSize
      ∧ (s.readErr .reread 0x3FFFFFF80 4 = false ∧ Memory.readNat s.mem 0x3FFFFFF80 4 = 2)
      ∧ (State.reset.readErr .reread 0x3FFFFFF80 4 = false ∧ Memory.readNat State.reset.mem 0x3FFFFFF80 4 ≠ 2)
      ∧ e.readErr .reread 0x3FFFFFF80 4 = true := by
  decide +kernel

/-- The RUNNING walker parked on its record. -/
def parked (m : List Host.Cell) : State :=
  { running m with walker := { (running m).walker with parked := true, pollTimer := some 100 }, timeBase := 100 }

/-- ExaminationThatTakesNothing: a FREE record, a POSTED FINALIZE held by a service order, a parked walker with a timer at its expiry; a
walker that makes no examination, and a timer a microsecond before its expiry. -/
theorem witness_ExaminationThatTakesNothing :
    let held : State := { running (record 1 2 0 []) with service := some (.clearField 0x2000 1 ⟨0, 0, 1, 1⟩ 0) }
    ((running []).Examines ∧ (running []).walker.parked = false ∧ offsetPasses (running []).walker.cursor = true
        ∧ Memory.readNat (running []).mem (running []).walker.cursor 4 = 0)
      ∧ (held.Examines ∧ Memory.readNat held.mem held.walker.cursor 4 = 1
        ∧ held.held (readHead held.mem held.walker.cursor) = true)
      ∧ ((parked []).Examines ∧ Memory.readNat (parked []).mem ((parked []).walker.cursor + 8) 8 = 0
        ∧ (parked []).walker.pollTimer = some 100 ∧ 100 ≤ (parked []).timeBase)
      ∧ ¬ (halted []).Examines ∧ ¬ State.reset.Examines
      ∧ ∀ q, ({ parked [] with timeBase := 99 } : State).walker.pollTimer = some q → 99 < q := by
  refine ⟨⟨⟨rfl, rfl⟩, by decide +kernel⟩, ⟨⟨rfl, rfl⟩, by decide +kernel⟩, ⟨⟨rfl, rfl⟩, by decide +kernel⟩,
    fun h => absurd h.1 (by decide), fun h => absurd h.1 (by decide), fun q h => ?_⟩
  cases h
  decide

/-- ChainFaultsHaltTheWalker: a cursor off the grid; a record read that meets an error at its last byte; a state word of 2; a parked walker
whose next-field read meets an error; one whose next field is off the grid. -/
theorem witness_ChainFaultsHaltTheWalker :
    let off : State := { running [] with walker := { (running []).walker with cursor := 0x1001 } }
    let bad : State := parked (record 2 1 0 [(0x1008, 1)])
    (off.Examines ∧ off.walker.parked = false ∧ offsetPasses off.walker.cursor = false)
      ∧ (running []).Examines
      ∧ (∃ e ∈ [(⟨.record, 0x107F⟩ : MemErr)], e.by_ = .record ∧ 0x1000 ≤ e.at_ ∧ e.at_ < 0x1000 + 128)
      ∧ 2 ≤ Memory.readNat (running (record 2 1 0 [])).mem 0x1000 4
      ∧ (∃ e ∈ [(⟨.nextField, 0x100F⟩ : MemErr)], e.by_ = .nextField ∧ 0x1008 ≤ e.at_ ∧ e.at_ < 0x1008 + 8)
      ∧ bad.Examines ∧ bad.walker.parked = true ∧ Memory.readNat bad.mem (bad.walker.cursor + 8) 8 = 1
      ∧ offsetPasses 1 = false := by
  refine ⟨⟨⟨rfl, rfl⟩, rfl, by decide⟩, ⟨rfl, rfl⟩, by decide, by decide +kernel, by decide, ⟨rfl, rfl⟩, rfl,
    by decide +kernel, by decide⟩

/-- The test of `State.Presents`, which the witnesses of the take-ups use. -/
def presents (s : State) (kind : Nat) : Bool :=
  decide (s.walker.state = .running ∧ s.port.control.run = true)
    && decide (s.walker.parked = false ∧ offsetPasses s.walker.cursor = true ∧ Memory.readNat s.mem s.walker.cursor 4 = 1
      ∧ Memory.readNat s.mem (s.walker.cursor + 4) 1 = kind ∧ s.held (readHead s.mem s.walker.cursor) = false
      ∧ Memory.readNat s.mem (s.walker.cursor + 8) 8 = 0)

theorem presents_sound {s : State} {kind : Nat} (h : presents s kind = true) : s.Presents kind := by
  simp only [presents, Bool.and_eq_true, decide_eq_true_eq] at h
  exact h

/-- A POSTED order of a kind at the walker, with its first parameter byte and more cells. -/
def posted (kind byte40 : Byte) (rest : List Host.Cell) : State := running (record 1 kind byte40 rest)

/-- UnknownKindAndUnreadableOrderFail: kinds 0 and 8; kinds 1 and 7, and a DEFINE_BANK of bank 7 and of 8, with an error at the first and
the last byte of the read. -/
theorem witness_UnknownKindAndUnreadableOrderFail :
    ((posted 0 0 []).Presents 0 ∧ (posted 8 0 []).Presents 8) ∧ ((posted 1 0 []).Presents 1 ∧ (posted 7 0 []).Presents 7)
      ∧ (∀ b ∈ [7, 8], (posted 5 b []).Presents 5 ∧ Memory.readNat (posted 5 b []).mem 0x1028 1 = b.toNat)
      ∧ ∀ a ∈ [0x1028, 0x1053], ∃ e ∈ [(⟨.takeUp, a⟩ : MemErr)], e.by_ = .takeUp ∧ 0x1000 + 40 ≤ e.at_ ∧ e.at_ < 0x1000 + 84 :=
  ⟨⟨presents_sound (by decide +kernel), presents_sound (by decide +kernel)⟩,
    ⟨presents_sound (by decide +kernel), presents_sound (by decide +kernel)⟩, fun b h => by
      have d : ∀ b ∈ [7, 8], presents (posted 5 b []) 5 = true ∧ Memory.readNat (posted 5 b []).mem 0x1028 1 = b.toNat := by
        decide +kernel
      exact ⟨presents_sound (d b h).1, (d b h).2⟩, by decide⟩

/-- A POSTED DEFINE_FIELD beside FIELD0, for a field number, a size and the low bytes of a base 0x1_0000_0000 higher, as chapter 7's
example has it (FIELD1, 4 by 4 cells at 0x1_0300_0000). -/
def defining (number size b1 b3 : Byte) : State :=
  withField (posted 4 number ([(0x1029, size), (0x102A, size), (0x1039, b1), (0x103B, b3), (0x103C, 1)].filter fun c => decide (c.2 ≠ 0)))

/-- DefineFieldOrderRunsWhole: field number 4; sizes 41, 0 and 4; a field with a touched cell; a base off the grid, one that is FIELD0's,
and chapter 7's FIELD1, clear of FIELD0 by no byte. -/
theorem witness_DefineFieldOrderRunsWhole :
    (∀ n ∈ [0, 1, 3, 4], presents (defining n 4 0 3) 4 = true ∧ Memory.readNat (defining n 4 0 3).mem 0x1028 1 = n.toNat)
      ∧ (∀ z ∈ [0, 41], presents (defining 1 z 0 3) 4 = true ∧ Memory.readNat (defining 1 z 0 3).mem 0x1029 1 = z.toNat)
      ∧ (presents (withCell (cellIn .spoiled) (defining 0 4 0 3)) 4 = true
        ∧ ∃ d ∈ field0.cells.set 0 (cellIn .spoiled), d.state ≠ .vacant)
      ∧ (presents (defining 1 4 1 3) 4 = true ∧ Memory.readNat (defining 1 4 1 3).mem 0x1038 8 % 4096 ≠ 0)
      ∧ (presents (defining 1 4 0 0) 4 = true ∧ Memory.readNat (defining 1 4 0 0).mem 0x1038 8 = field0.base)
      ∧ (Memory.readNat (defining 1 4 0 3).mem 0x1038 8 = 0x103000000 ∧ 0x103000000 % 4096 = 0
        ∧ 0x103000000 + 4 * 4 * 1572864 ≤ 0x3D8000000 ∧ field0.base + 8 * 4 * 1572864 ≤ 0x103000000) := by
  decide +kernel

/-- A POSTED ASSEMBLE of exposure 0x0207 into FIELD0 with bank 3 in TILE_COMPLETE, over an exposure table and a pool, the cells of its
parameters given. -/
def assembling (t : State) (cells : List Host.Cell) : State :=
  let m := record 1 1 7 ((0x1029, 2) :: cells)
  { withField t with
    mem := m, walker := (running m).walker, port := (running m).port, banks := t.banks.set 3 (some bank)
    loader := { t.loader with inUse := some ⟨18, smallMap⟩ } }

/-- The parameter cells: FIELD0, bank 3, TILE_COMPLETE. -/
def asks : List Host.Cell := [(0x102B, 3), (0x102C, 1)]

/-- The exposure of `stored3` with the state given. -/
def entered (st : ExpState) : State :=
  { stored3 with exposures := stored3.exposures.set 0 ((stored3.exposures[0]).map fun e => { e with state := st }) }

/-- The exposure closed with row 3 of its one segment stored. -/
def closed3 : State := after (.exposureClose 1 0x0207 []) stored3

/-- AssembleTakeUp: FIELD1, not DEFINED; bank 2, EMPTY; no map; a bank that asks for two overscan columns of one; a pointing of 2^61; no
entry; an entry ASSEMBLED; an entry with a FILLING slot; a CLOSED one with its slot COMPLETE; a CLOSED one without a slot. -/
theorem witness_AssembleTakeUp :
    let two : Bank := ⟨Vector.replicate 64 ⟨.overscan, 0, 0, 2, 4096, 60000, 0x2000, 0, 0⟩, []⟩
    let s := assembling stored3 asks
    presents (assembling stored3 [(0x102A, 1), (0x102B, 3)]) 1 = true ∧ s.fields[1] = none
      ∧ (presents (assembling stored3 [(0x102B, 2)]) 1 = true ∧ s.banks[2] = none ∧ s.banks[3] = some bank)
      ∧ (presents { s with loader := State.reset.loader } 1 = true ∧ State.reset.loader.inUse = none)
      ∧ (presents { s with banks := s.banks.set 3 (some two) } 1 = true ∧ smallMap[17] = some entry
        ∧ ¬ (0 + 2 ≤ entry.overscan) ∧ (∀ g : SegNo, ∀ e ∈ smallMap[g], bank.amps[g].mode = .fixed ∧ bank.amps[g].flat = 0))
      ∧ (let w := assembling stored3 (asks ++ [(0x1047, 0x20)]);
        presents w 1 = true ∧ Memory.readInt w.mem 0x1040 8 = 2 ^ 61)
      ∧ (presents (assembling State.reset asks) 1 = true ∧ State.reset.placeOf 0x0207 = none)
      ∧ (presents (assembling (entered .assembled) asks) 1 = true ∧ s.placeOf 0x0207 = some 0
        ∧ ((entered .assembled).exposures[0]).map ExpEntry.state = some .assembled)
      ∧ (presents s 1 = true ∧ (s.exposures[0]).map (fun x => (x.state, x.outcomes[17])) = some (.opened, .unsettled)
        ∧ (s.slots[0]).map (fun sl => (sl.rowLen, sl.mapRows, sl.state)) = some (entry.rowLen, entry.rows, .filling))
      ∧ (presents (assembling closed3 asks) 1 = true ∧ (closed3.exposures[0]).map ExpEntry.state = some .closed
        ∧ closed3.slotIn 0x0207 17 [.complete] = some 0 ∧ (closed3.slots[0]).map (fun sl => (sl.rows, sl.cursor)) = some ([3], 0))
      ∧ (let w := after (.exposureClose 1 0x0207 []) opened;
        presents (assembling w asks) 1 = true ∧ (w.exposures[0]).map (fun x => (x.state, x.held)) = some (.closed, 0)
          ∧ ∀ n : SlotNo, w.slots[n] = none) := by
  decide +kernel

/-- The exposure table and the pool of `stored3` agree. -/
theorem stored3_pool : stored3.PoolOk := by
  have e : ∀ p : Fin 4, ∀ x ∈ stored3.exposures[p], p = 0 ∧ x.tag = 0x0207 ∧ x.held = 1 ∧ x.state = .opened := by
    decide +kernel
  have n : ∀ n : SlotNo, ∀ sl ∈ stored3.slots[n],
      n = 0 ∧ (stored3.entryOf sl.tag).isSome = true ∧ sl.rows.Pairwise (· < ·) ∧ ∀ r ∈ sl.rows, r < sl.expected := by
    decide +kernel
  have c : stored3.slotsNaming 0x0207 = 1 := by decide +kernel
  refine ⟨⟨fun p q x y hp hq _ => (e p x hp).1.trans (e q y hq).1.symm, fun p x hp => ?_⟩, fun k sl h => (n k sl h).2,
    fun j k x y hj hk _ _ _ _ => (n j x hj).1.trans (n k y hk).1.symm⟩
  obtain ⟨_, ht, hh, hs⟩ := e p x hp
  rw [ht, hh, hs, c]
  exact ⟨rfl, by decide, by decide⟩

/-- A state with the same exposure table and pool agrees too. -/
theorem poolOk_congr {s t : State} (he : t.exposures = s.exposures) (hs : t.slots = s.slots) (h : s.PoolOk) : t.PoolOk := by
  obtain ⟨⟨a, b⟩, c, d⟩ := h
  refine ⟨⟨?_, ?_⟩, ?_, ?_⟩
  · rw [he]; exact a
  · simpa only [State.slotsNaming, he, hs] using b
  · simpa only [State.entryOf, State.placeOf, he, hs] using c
  · rw [hs]; exact d

/-- DiscardExposureOrder: an unknown tag; the exposure of `stored3`, current on LINK1. -/
theorem witness_DiscardExposureOrder :
    let m := record 1 6 7 [(0x1029, 2)]
    let s : State := { stored3 with mem := m, walker := (running m).walker, port := (running m).port }
    ((posted 6 9 []).Presents 6 ∧ (posted 6 9 []).placeOf 9 = none)
      ∧ s.Presents 6 ∧ s.placeOf 0x0207 = some 0 ∧ s.PoolOk ∧ s.links[1].current = some 0x0207 := by
  refine ⟨⟨presents_sound (by decide +kernel), by decide +kernel⟩, presents_sound (by decide +kernel), by decide +kernel,
    poolOk_congr (s := stored3) (by decide +kernel) (by decide +kernel) stored3_pool, by decide +kernel⟩

/-- StartMarksAndIgnoredLaneEvents: a link in OFF, a lane beyond the lanes in use, a link in IDLE; the last lane in use of an IDLE link,
and still waiting in a burst. -/
theorem witness_StartMarksAndIgnoredLaneEvents :
    State.reset.links[0].phase = .off ∧ (burst 1).links[1].settings = some (settings 1) ∧ (settings 1).lanes ≤ (1 : LaneNo).val
      ∧ ((onLink (idleLink 4)).links[1].settings = some (settings 4) ∧ (3 : LaneNo).val < (settings 4).lanes
        ∧ (onLink (idleLink 4)).links[1].phase = .idle)
      ∧ (burst 4).links[1].settings = some (settings 4) ∧ (burst 4).links[1].phase = .burst
      ∧ (burst 4).links[1].lanes[3].phase = .waiting := by
  decide +kernel

/-- EndMarkEndsTheMergedBurst: a burst of one lane, just open; one of two lanes with both open and a byte held in the other, the parser
within a header; the map replaced under the burst while exposure 0x0207 is current, with and without a segment of the link in the new map.
-/
theorem witness_EndMarkEndsTheMergedBurst :
    let k := (burst 1).links[1]
    let j : Link := { (burst 2).links[1] with
      lanes := (burst 2).links[1].lanes.set 1 ⟨.opened, false, [5]⟩, parser := ⟨[0x13], none, [], false⟩, endMark := true }
    (k.settings = some (settings 1) ∧ (0 : LaneNo).val < (settings 1).lanes ∧ k.phase = .burst ∧ k.replaced = false ∧ k.turn = 0
        ∧ k.mergeOpen = true ∧ k.lanes[0].phase = .opened ∧ k.lanes[0].held = []
        ∧ ∀ m : LaneNo, m.val < (settings 1).lanes → m ≠ 0 → k.lanes[m].phase ≠ .opened)
      ∧ (j.settings = some (settings 2) ∧ j.phase = .burst ∧ j.replaced = false ∧ j.turn = 0 ∧ j.mergeOpen = true
        ∧ j.lanes[0].phase = .opened ∧ j.lanes[0].held = [] ∧ j.lanes[1].phase = .opened ∧ j.parser.discarding = false
        ∧ j.parser.hdr ≠ [])
      ∧ (let r : Link := { k with replaced := true, current := some 0x0207 };
        let s : State := { opened with links := opened.links.set 1 r, loader := { opened.loader with inUse := none } };
        (s.links[1].replaced = true ∧ s.links[1].current = some 0x0207 ∧ s.links[1].refused ≠ some 0x0207
            ∧ s.links[1].settings = some (settings 1) ∧ s.links[1].phase = .burst ∧ s.links[1].lanes[0].phase = .opened)
          ∧ s.deposit = .idle ∧ (s.exposures[0]).isSome ∧ drawSettings s.loader.inUse 1 = none)
      ∧ drawSettings (some ⟨18, smallMap⟩) 1 = some (settings 1) := by
  decide +kernel

/-- LaneDataByteMergedOrExcess: on one lane, a third header byte; the fourth of a header with two bits flipped, of a ROW of 4097 and of 4096
bytes, of a BURST_END and of a SEGMENT_BEGIN on a stream not enabled; a payload byte, the last footer byte of a ROW with a wrong CRC and of
one on a stream not enabled. On two lanes, a byte out of turn, one at the turn, and one that a held byte follows. After the merge ended; and
the byte after 1024 held. -/
theorem witness_LaneDataByteMergedOrExcess :
    let k (p : Parser) : Link := { (burst 1).links[1] with parser := p }
    let j (held : List Byte) (turn : LaneNo) : Link := { (burst 2).links[1] with
      turn := turn, lanes := ((burst 2).links[1].lanes.set 0 ⟨.opened, false, []⟩).set 1 ⟨.opened, false, held⟩ }
    let full : Link := { j [] 0 with lanes := (j [] 0).lanes.set 0 ⟨.opened, false, List.replicate 1024 0⟩ }
    (let x := k ⟨[0x13, 0], none, [], false⟩;
      x.settings = some (settings 1) ∧ x.phase = .burst ∧ x.lanes[0].phase = .opened ∧ x.turn = 0 ∧ x.mergeOpen = true
        ∧ x.lanes[0].held = [] ∧ x.parser.hdr.length = 2)
      ∧ ((settings 1).lanes = 1 ∧ (settings 1).streams[1] ≠ none ∧ (settings 1).streams[0] = none)
      ∧ decodeHeader (leNat ([3, 0, 0] : List Byte)) (0x27 : Byte).toNat = none
      ∧ (∀ v ∈ [4096, 4097], decodeHeader (0x18 + 256 * v) (headerParity (0x18 + 256 * v)) = some (⟨1, 8, BitVec.ofNat 16 v⟩, false))
      ∧ decodeHeader 0x15 (headerParity 0x15) = some (⟨1, 5, 0⟩, false)
      ∧ decodeHeader 0x03 (headerParity 0x03) = some (⟨0, 3, 0⟩, false)
      ∧ (([7] ++ [9] : List Byte).length < (2 : BitVec 16).toNat + 2
        ∧ ([7, 7, 1] ++ [9] : List Byte).length = (2 : BitVec 16).toNat + 2 ∧ crc16 [7, 7] ≠ leNat ([1, 9] : List Byte))
      ∧ ((j [] 0).mergeOpen = true ∧ (j [] 0).turn ≠ 1 ∧ (j [] 0).lanes[0].held = [] ∧ (j [] 0).lanes[0].phase ≠ .ended)
      ∧ ((j [4] 0).turn = 0 ∧ (j [4] 0).lanes[1].held = [4] ∧ (j [4] 0).lanes[1].phase ≠ .ended ∧ (0 : LaneNo).val + 1 < 2
        ∧ (j [4] 0).parser = ⟨[], none, [], false⟩ ∧ (settings 2).lanes = 2)
      ∧ full.settings = some (settings 2) ∧ full.phase = .burst ∧ full.lanes[0].phase = .opened ∧ full.mergeOpen = true
      ∧ 1024 ≤ full.lanes[0].held.length := by
  decide +kernel

/-- PayloadCrcDetectsASingleBit: the last byte of a payload. -/
theorem witness_PayloadCrcDetectsASingleBit : ([0x31, 0x32] : List Byte)[1]? = some 0x32 := by decide

/-- The link of `opened` with a refused marker in place of its current exposure. -/
def refusing : State :=
  onLink { idleLink 1 with refused := some 0x0207 }

/-- PacketFatesOutsideTheTable: a link in OFF, a stream not enabled, a row one sample short, a refused marker. -/
theorem witness_PacketFatesOutsideTheTable :
    State.reset.links[1].phase = .off ∧ opened.links[1].phase ≠ .off ∧ opened.links[1].settings = some (settings 1)
      ∧ (settings 1).streams[0] = none ∧ (settings 1).streams[1] = some geometry
      ∧ ([1, 2, 3, 4, 5] : List (BitVec 16)).length ≠ geometry.rowLen
      ∧ refusing.links[1].phase ≠ .off ∧ samples.length = geometry.rowLen ∧ refusing.links[1].refused ≠ none := by
  decide +kernel

/-- The state with LINK1 in IDLE and every place taken by another tag. -/
def tableFull : State :=
  { onLink (idleLink 1) with
    exposures := Vector.ofFn fun p : Fin 4 => some ⟨BitVec.ofNat 16 p.val, .opened, 1, 0, 0, Vector.replicate 64 .unsettled⟩ }

/-- ExposureOpenOfANewTag: place 1 the lowest free behind a taken place 0, with and without an ASSEMBLE that waits for the tag; no free
place; another exposure current on the link. -/
theorem witness_ExposureOpenOfANewTag :
    let s := after (.exposureClose 1 0x0207 []) opened
    (s.links[1].phase ≠ .off ∧ s.links[1].current = none ∧ s.links[1].refused ≠ some 9
        ∧ (∀ p : Fin 4, ∀ e ∈ s.exposures[p], e.tag ≠ 9) ∧ s.exposures[1] = none
        ∧ (∀ q : Fin 4, q < 1 → s.exposures[q] ≠ none) ∧ s.deposit = .idle)
      ∧ (let o : Assembly := { assembly with tag := 9 };
        ({ s with deposit := .waiting o } : State).deposit = .waiting o ∧ o.tag = 9 ∧ o.map[17] ≠ none
          ∧ ∀ n : SlotNo, ∀ sl ∈ s.slots[n], sl.tag ≠ 9)
      ∧ (opened.links[1].phase ≠ .off ∧ opened.links[1].current = some 0x0207 ∧ opened.links[1].refused ≠ some 0x0207
        ∧ opened.deposit = .idle)
      ∧ tableFull.links[1].phase ≠ .off ∧ tableFull.links[1].current = none ∧ tableFull.links[1].refused ≠ some 9
      ∧ (∀ p : Fin 4, ∀ e ∈ tableFull.exposures[p], e.tag ≠ 9) ∧ ∀ p : Fin 4, tableFull.exposures[p] ≠ none := by
  decide +kernel

/-- ExposureOpenOfAKnownTag: the refused marker's own tag; an entry still arriving; one that the link has closed. -/
theorem witness_ExposureOpenOfAKnownTag :
    let s := after (.exposureClose 1 0x0207 []) opened
    (refusing.links[1].phase ≠ .off ∧ refusing.links[1].current = none ∧ refusing.links[1].refused = some 0x0207)
      ∧ (tableFull.links[1].refused ≠ some 3 ∧ tableFull.placeOf 3 = some 3
        ∧ (tableFull.exposures[3]).map (fun e => decide (e.state = .opened) && !e.closedBy.getLsbD 1) = some true)
      ∧ s.links[1].phase ≠ .off ∧ s.links[1].current = none ∧ s.placeOf 0x0207 = some 0
      ∧ (s.exposures[0]).map (fun e => (e.state, e.closedBy.getLsbD 1)) = some (.closed, true) := by
  decide +kernel

/-- ExposureCloseOnALink: the refused marker's tag, a tag the link does not name, and the current exposure with a FILLING slot. -/
theorem witness_ExposureCloseOnALink :
    refusing.links[1].refused = some 0x0207
      ∧ (begun.links[1].refused ≠ some 9 ∧ begun.links[1].current ≠ some 9)
      ∧ begun.links[1].phase ≠ .off ∧ begun.links[1].refused ≠ some 0x0207 ∧ begun.links[1].current = some 0x0207
      ∧ begun.deposit = .idle ∧ (∀ n : SlotNo, ∀ sl ∈ begun.slots[n], sl.state ≠ .late) ∧ begun.placeOf 0x0207 = some 0
      ∧ (begun.exposures[0]).isSome ∧ (begun.slots[0]).map Slot.state = some .filling := by
  decide +kernel

/-- The exposure open with every slot taken for other segments. -/
def poolFull : State :=
  { opened with
    slots := Vector.replicate 128 (some ⟨.filling, 0x0207, 3, 1, 1, 4, 1, 6, 8, 8, [], none, 0, false, false⟩) }

/-- The exposure open with the segment settled LATE. -/
def settled : State :=
  { opened with
    exposures := opened.exposures.set 0
      ((opened.exposures[0]).map fun e => { e with outcomes := e.outcomes.set 17 .late }) }

/-- SegmentBeginTakesASlot: slot 0 free, no slot free, a slot to restart, a segment already settled. -/
theorem witness_SegmentBeginTakesASlot :
    (opened.links[1].phase ≠ .off ∧ opened.links[1].settings = some (settings 1) ∧ (settings 1).streams[1] = some geometry
        ∧ opened.links[1].refused = none ∧ opened.links[1].current = some 0x0207 ∧ opened.placeOf 0x0207 = some 0
        ∧ (opened.exposures[0]).map (fun e => (e.state, e.outcomes[17])) = some (.opened, .unsettled)
        ∧ opened.slotIn 0x0207 17 [.filling, .complete] = none ∧ opened.slots[0] = none)
      ∧ (poolFull.slotIn 0x0207 17 [.filling, .complete] = none ∧ ∀ n : SlotNo, poolFull.slots[n] ≠ none)
      ∧ (begun.slotIn 0x0207 17 [.filling, .complete] = some 0 ∧ (begun.slots[0]).isSome
        ∧ (begun.exposures[0]).map (fun e => decide (0 < e.held)) = some true)
      ∧ (settled.exposures[0]).map (fun e => e.outcomes[17]) = some .late := by
  decide +kernel

/-- RowIsStoredOrStray: no current exposure; no slot; the first index above the highest stored row and the last expected; the highest
stored row and the first index beyond the expected rows; a slot of another row length. -/
theorem witness_RowIsStoredOrStray :
    let idle := onLink (idleLink 1)
    let other : State := { begun with slots := begun.slots.set 0 ((begun.slots[0]).map fun sl => { sl with rowLen := 7 }) }
    (idle.links[1].phase ≠ .off ∧ idle.links[1].settings = some (settings 1) ∧ samples.length = geometry.rowLen
        ∧ idle.links[1].refused = none ∧ idle.links[1].current = none)
      ∧ (opened.links[1].current = some 0x0207 ∧ opened.slotIn 0x0207 17 [.filling] = none)
      ∧ (stored3.links[1].current = some 0x0207 ∧ stored3.slotIn 0x0207 17 [.filling] = some 0
        ∧ (stored3.slots[0]).map (fun sl => (sl.rowLen, sl.expected, sl.rows.getLast?)) = some (6, 8, some 3))
      ∧ (4 < 8 ∧ 3 < 4) ∧ (7 < 8 ∧ 3 < 7) ∧ 3 ≤ 3 ∧ 8 ≤ 8
      ∧ other.slotIn 0x0207 17 [.filling] = some 0 ∧ (other.slots[0]).map Slot.rowLen = some 7 := by
  decide +kernel

/-- SegmentEndOfASlot: no current exposure, no slot, a FILLING, a COMPLETE and a LATE one; a LATE one that is the last of an ASSEMBLED
entry. -/
theorem witness_SegmentEndOfASlot :
    let done := after (.segmentEnd 1 1 1 []) stored3
    (onLink (idleLink 1)).links[1].current = none ∧ opened.slotOf 0x0207 17 = none
      ∧ (begun.slotOf 0x0207 17 = some 0 ∧ (begun.slots[0]).map Slot.state = some .filling ∧ begun.deposit = .idle)
      ∧ (done.slotOf 0x0207 17 = some 0 ∧ (done.slots[0]).map Slot.state = some .complete)
      ∧ late.slotOf 0x0207 17 = some 0 ∧ (late.slots[0]).map Slot.state = some .late ∧ late.placeOf 0x0207 = some 0
      ∧ (late.exposures[0]).map ExpEntry.state = some .opened ∧ late.links[1].current = some 0x0207
      ∧ late.links[1].refused = none ∧ late.links[1].phase ≠ .off
      ∧ (let s : State := { late with
          exposures := late.exposures.set 0 ((late.exposures[0]).map fun e => { e with state := .assembled }) };
        s.slotOf 0x0207 17 = some 0 ∧ s.placeOf 0x0207 = some 0
          ∧ (s.exposures[0]).map (fun e => (e.state, e.held)) = some (.assembled, 1)) := by
  decide +kernel

/-- LoadsBeginAndWaitForTheFlash: a POSTED LOAD_MAP with sources 0, 1 and 2, beside the running power-on load and with no load running; the
power-on wait a microsecond before 50 ms and at it; a LOAD_MAP's own wait (walker HALTED); the data read; a LOAD_MAP that waited, with and
without the power-on load still running. -/
theorem witness_LoadsBeginAndWaitForTheFlash :
    (∀ b ∈ [0, 1, 2], presents (posted 7 b []) 7 = true ∧ Memory.readNat (posted 7 b []).mem 0x1028 1 = b.toNat)
      ∧ presents { posted 7 1 [] with loader := ⟨none, .absent, .absent, none⟩ } 7 = true
      ∧ State.reset.loader.load = some ⟨false, .busyWait 0⟩ ∧ 49999 < 0 + 50000 ∧ 0 + 50000 ≤ 50000
      ∧ (let s : State := { halted (record 2 7 0 []) with
          loader := ⟨none, .loading, .absent, some ⟨true, .busyWait 0⟩⟩, service := some (.loadMap 0x1000 none true), timeBase := 50000 }
        s.walker.state = .halted ∧ s.port.control.run = true ∧ Memory.readNat s.mem 0x1000 4 = 2 ∧ 0 + 50000 ≤ s.timeBase)
      ∧ (after (.flashStatusRead 0) State.reset).loader.load = some ⟨false, .dataRead⟩
      ∧ (let s : State := { State.reset with
          loader := ⟨none, .absent, .absent, none⟩, service := some (.loadMap 0x1000 (some 0x2000) false) }
        s.service = some (.loadMap 0x1000 (some 0x2000) false) ∧ s.loader.load = none)
      ∧ State.reset.loader.load ≠ none := by
  decide +kernel

/-- The smallest map image: segment 0 alone on LINK0, stream 0, one lane, 1 image column and 1 row, and every other field 0. -/
def entryImage : List Byte :=
  [1, 0, 0, 1, 0, 0, 0, 0, 1, 0, 1, 0] ++ List.replicate 52 0

/-- The 16 bytes of its header, with the entry CRC 43072. -/
def header : List Byte := [0x46, 0x4D, 0x41, 0x50, 1, 0, 1, 0, 0x40, 0xA8] ++ List.replicate 6 0

/-- The CRC of the 64 entry bytes, taken eight bytes at a time. -/
theorem entryImage_crc : crc16 entryImage = 43072 := by
  let z : List Byte := List.replicate 8 0
  have e : entryImage = [1, 0, 0, 1, 0, 0, 0, 0] ++ ([1, 0, 1, 0, 0, 0, 0, 0] ++ (z ++ (z ++ (z ++ (z ++ (z ++ z)))))) := by
    decide
  have c1 : ([1, 0, 0, 1, 0, 0, 0, 0] : List Byte).foldl crcByte 0xFFFF = 63095 := by decide +kernel
  have c2 : ([1, 0, 1, 0, 0, 0, 0, 0] : List Byte).foldl crcByte 63095 = 24191 := by decide +kernel
  have c3 : z.foldl crcByte 24191 = 52517 := by decide +kernel
  have c4 : z.foldl crcByte 52517 = 20165 := by decide +kernel
  have c5 : z.foldl crcByte 20165 = 30805 := by decide +kernel
  have c6 : z.foldl crcByte 30805 = 26184 := by decide +kernel
  have c7 : z.foldl crcByte 26184 = 46085 := by decide +kernel
  have c8 : z.foldl crcByte 46085 = 43072 := by decide +kernel
  rw [crc16, e]
  simp only [List.foldl_append, c1, c2, c3, c4, c5, c6, c7, c8]

theorem checkEntries_of_parts (h es : List Byte) (n : Nat) (c : crc16 es = fieldAt h 8 2) (r : rangesPass n es = true)
    (w : (parseMap n es).rowsPass = true) (s : (parseMap n es).streamsPass = true) (l : (parseMap n es).linksPass = true) :
    checkEntries h es n = some (parseMap n es) :=
  if_pos ⟨c, r, w, s, l⟩

/-- The smallest image passes every check over its entries. -/
theorem entryImage_staged : checkEntries header entryImage 1 = some (parseMap 1 entryImage) := by
  have c : crc16 entryImage = fieldAt header 8 2 := by rw [entryImage_crc]; decide +kernel
  have r : rangesPass 1 entryImage = true := by decide +kernel
  have n : (parseMap 1 entryImage).rowsPass = true := by decide +kernel
  have s : (parseMap 1 entryImage).streamsPass = true := by decide +kernel
  have l : (parseMap 1 entryImage).linksPass = true := by decide +kernel
  exact checkEntries_of_parts header entryImage 1 c r n s l

theorem flashLoad_of_parts (flash h es : List Byte) (n : Nat) (m : FocalMap) (hh : flashBytes flash 0 16 = h)
    (hn : mapHeader h = some n) (he : flashBytes flash 16 (64 * n) = es) (hm : checkEntries h es n = some m) :
    flashLoad flash = .staged m := by
  subst hh he
  simp only [flashLoad, hn, hm]

theorem memoryLoad_of_parts (s : State) (off : Nat) (h es : List Byte) (n : Nat) (m : FocalMap)
    (g : inGeneral off 16 = true) (g' : inGeneral off (16 + 64 * n) = true) (e : s.errs = [])
    (hh : Memory.readBytes s.mem off 16 = h) (hn : mapHeader h = some n)
    (he : Memory.readBytes s.mem (off + 16) (64 * n) = es) (hm : checkEntries h es n = some m) :
    s.memoryLoad off = .staged m := by
  subst hh he
  simp only [State.memoryLoad, State.readErr, e, g, g', hn, hm, List.any_nil, Bool.not_true, Bool.false_eq_true, if_false]

/-- The smallest image passes the checks as the statement spells them. -/
theorem entryImage_passes : (parseMap 1 entryImage).Passes header entryImage := by
  have one : ∀ i : SegNo, ∀ e ∈ (parseMap 1 entryImage).entries[i], i = 0 ∧ e = ⟨0, 0, 1, false, 0, 1, 0, 1, 0, 0, 0, 0, 0, 0⟩ := by
    decide +kernel
  refine ⟨by decide +kernel, by decide +kernel, by decide +kernel, ?_, ⟨by decide, fun i e h => ?_, fun i j d e h k => ?_⟩,
    fun seg => ?_⟩
  · rw [entryImage_crc]
    decide +kernel
  · obtain ⟨rfl, rfl⟩ := one i e h
    exact ⟨by decide, ⟨by decide, by decide, by decide, by decide, by decide, by decide, by decide⟩, by decide⟩
  · rw [(one i d h).1, (one i d h).2, (one j e k).1, (one j e k).2]
    exact ⟨fun _ => rfl, fun _ => ⟨rfl, rfl⟩⟩
  · cases h : (parseMap 1 entryImage).entries[seg] with
    | none =>
      have z : ∀ g : SegNo, (parseMap 1 entryImage).entries[g] = none → 1 ≤ g.val := by decide +kernel
      exact Or.inl (z seg h)
    | some e =>
      obtain ⟨rfl, rfl⟩ := one seg e h
      decide +kernel

/-- StagedMapPassesTheChecks: the smallest image passes, in the flash, and in board memory at the first offset of the general region; a
header read that meets an error; a header without the magic; one whose image would run past the general region; the last header byte and
the first entry byte at the moments they are read, the entry byte listed early alone and with all the header. -/
theorem witness_StagedMapPassesTheChecks :
    (parseMap 1 entryImage).Passes header entryImage
      ∧ flashLoad (header ++ entryImage) = .staged (parseMap 1 entryImage)
      ∧ ({ State.reset with mem := Memory.cells 0x1000 (header ++ entryImage) } : State).memoryLoad 0x1000
        = .staged (parseMap 1 entryImage)
      ∧ (∃ e ∈ [(⟨.bankOrMap, 0x100F⟩ : MemErr)], e.by_ = .bankOrMap ∧ 0x1000 ≤ e.at_ ∧ e.at_ < 0x1000 + 16)
      ∧ Memory.readNat [] 0x1000 4 ≠ 0x50414D46 ∧ 0x3D7FFFFF0 + 16 ≤ 0x3D8000000 ∧ 0x3D8000000 < 0x3D7FFFFF0 + 16 + 64 * 1
      ∧ (let s : State := { State.reset with mem := [(0x100F, 3), (0x1010, 4)], past := [[(0x100F, 1), (0x1010, 2)]] }
        (∀ x ∈ [([EarlyRead.mk 0 [0x100F]], 1, 4), ([⟨0, [0x1010]⟩], 3, 4), ([⟨0, (List.range 17).map (0x1000 + ·)⟩], 1, 2)],
          Memory.read (s.asRead 0x1000 x.1) 0x100F = x.2.1 ∧ Memory.read (s.asRead 0x1000 x.1) 0x1010 = x.2.2)) := by
  have n : mapHeader header = some 1 := by decide +kernel
  have f : flashBytes (header ++ entryImage) 0 16 = header := by decide +kernel
  have g : flashBytes (header ++ entryImage) 16 (64 * 1) = entryImage := by decide +kernel
  have h : Memory.readBytes (Memory.cells 0x1000 (header ++ entryImage)) 0x1000 16 = header := by decide +kernel
  have e : Memory.readBytes (Memory.cells 0x1000 (header ++ entryImage)) (0x1000 + 16) (64 * 1) = entryImage := by
    decide +kernel
  exact ⟨entryImage_passes, flashLoad_of_parts _ header entryImage 1 _ f n g entryImage_staged,
    memoryLoad_of_parts _ 0x1000 header entryImage 1 _ (by decide) (by decide) rfl h n e entryImage_staged,
    by decide, by decide +kernel, by decide, by decide, by decide +kernel⟩

/-- MapLoadEnds: the power-on load's data read, and a LOAD_MAP's with the walker HALTED; the image above and an erased flash; an image in
board memory whose header read meets an error; a link in BURST and one that is not; a checked map with a segment on LINK1 alone. -/
theorem witness_MapLoadEnds :
    (let s := after (.flashStatusRead 0) State.reset;
      s.loader.load = some ⟨false, .dataRead⟩ ∧ s.deposit = .idle)
      ∧ (let s (ph : LoadPhase) : State := { halted (record 2 7 0 []) with
          loader := ⟨none, .loading, .absent, some ⟨true, ph⟩⟩, service := some (.loadMap 0x1000 none true) }
        (s .dataRead).StillTaken 0x1000 ∧ (s .dataRead).deposit = .idle
          ∧ ({ s (.memory 0x2000) with errs := [⟨.bankOrMap, 0x2000⟩] } : State).memoryLoad 0x2000 = .memoryError)
      ∧ flashLoad [] = .failed .mapCheck ∧ flashLoad (header ++ entryImage) = .staged (parseMap 1 entryImage)
      ∧ ((onLink (idleLink 1)).links[1].phase ≠ .burst ∧ (burst 1).links[1].phase = .burst)
      ∧ (⟨18, smallMap⟩ : FocalMap).Checked ∧ smallMap[17] = some entry ∧ entry.link = 1 := by
  refine ⟨by decide +kernel, ⟨⟨⟨rfl, rfl⟩, by decide +kernel⟩, rfl, by decide +kernel⟩, by decide +kernel,
    witness_StagedMapPassesTheChecks.2.1, by decide +kernel, ⟨by decide, fun i e h => ?_, fun i j d e h k => ?_⟩, by decide +kernel, rfl⟩
  · have m : ∀ i : SegNo, ∀ e ∈ smallMap[i], i.val < 18 ∧ e = entry := by decide +kernel
    obtain ⟨hi, rfl⟩ := m i e h
    exact ⟨hi, ⟨by decide, by decide, by decide, by decide, by decide, by decide, by decide⟩, by decide⟩
  · have m : ∀ i : SegNo, ∀ e ∈ smallMap[i], i = 17 ∧ e = entry := by decide +kernel
    rw [(m i d h).1, (m i d h).2, (m j e k).1, (m j e k).2]
    exact ⟨fun _ => rfl, fun _ => ⟨rfl, rfl⟩⟩

/-- RoundingIsNearestTiesAway: a tie and a division by 1. -/
theorem witness_RoundingIsNearestTiesAway :
    2 * (roundDiv 2500 1000 * 1000 - 2500).natAbs = 1000 ∧ 2 * (roundDiv (-3) 1 * 1 - -3).natAbs ≤ 1 := by decide

/-- PixelOutcomeAndCalibratedValue: a sample at the saturation level, one below it under a defect's last column and row, one clear of
it. -/
theorem witness_PixelOutcomeAndCalibratedValue :
    let amp : Amp := ⟨.fixed, 0, 0, 1, 4096, 5, 0x2000, 0, 0⟩
    let r : RowData := ⟨[9, 5, 4, 4, 4, 9], [], none, none⟩
    let d : Defect := ⟨17, 0, 1, 0, 2⟩
    amp.sat ≤ r.samples.getD (1 + 0) 0 ∧ r.samples.getD (1 + 1) 0 < amp.sat
      ∧ (d.seg = 17 ∧ (d.firstCol ≤ 1 ∧ 1 ≤ d.lastCol) ∧ (d.firstRow ≤ 2 ∧ 2 ≤ d.lastRow))
      ∧ ¬ (d.firstCol ≤ 2 ∧ 2 ≤ d.lastCol) := by
  decide

/-- RecordsOfAFieldAreDisjoint: chapter 7's FIELD0, the last sky pixel of a cell row and the first of the next. -/
theorem witness_RecordsOfAFieldAreDisjoint : field0.Ok ∧ 2047 < 256 * field0.cols ∧ 1023 < 256 * field0.rows := by
  refine ⟨⟨by decide, by decide, by decide, by decide, by decide, fun d hd => ?_⟩, by decide, by decide⟩
  obtain rfl : d = DirCell.vacant := List.eq_of_mem_replicate hd
  exact ⟨by decide, by decide, fun _ => rfl, by decide⟩

/-- AccumulatorRecordKeepsItsRange: a record at the largest count, weight and value, and one below the largest count. -/
theorem witness_AccumulatorRecordKeepsItsRange :
    (⟨-(268435455 * (65280 * 65535)), 65280 * 65535, -268435455, 65280, 65535, 15⟩ : AccRecord).InRange
      ∧ (⟨-(268435455 * (65280 * 65534)), 65280 * 65534, -268435455, 65280, 65534, 15⟩ : AccRecord).InRange :=
  ⟨⟨by decide, by decide, by decide, by decide, by decide, by decide⟩, ⟨by decide, by decide, by decide, by decide, by decide, by decide⟩⟩

/-- ShareOnACell: cell (0, 0) of FIELD0 in each state, without a memory error and with one at the record's last byte; a FINALIZED one with
its last product at the first and the last place that fits. -/
theorem witness_ShareOnACell :
    (∀ st ∈ [CellState.accumulating, .spoiled, .vacant, .finalized], let s := withCell (cellIn st) State.reset
      (s.fields[0]).map (fun fd => (fd.cells[255 / 256 * fd.cols + 255 / 256]?).map DirCell.state) = some (some st)
        ∧ s.errs = [])
      ∧ (∃ e ∈ [(⟨.accumulator, field0.recordOff 255 255 + 23⟩ : MemErr)], e.by_ = .accumulator
        ∧ field0.recordOff 255 255 ≤ e.at_ ∧ e.at_ < field0.recordOff 255 255 + 24)
      ∧ ∀ p ∈ [0x1000, 0x3D7FFFFFC], 0x1000 ≤ p ∧ p + 4 ≤ 0x3D8000000
        ∧ (p + 4 ≤ field0.base ∨ field0.base + field0.regionBytes ≤ p) := by
  decide +kernel

/-- PixelOnTheCanvas: FIELD0 with every cell ACCUMULATING over records of zeros; a target inside, one left of the field, and one without
split weight. -/
theorem witness_PixelOnTheCanvas :
    let fd : Field := { field0 with cells := List.replicate 32 (cellIn .accumulating) }
    let s : State := { State.reset with mem := [], fields := State.reset.fields.set 0 (some fd) }
    (s.fields[0] = some fd ∧ s.errs = [] ∧ assembly.width = 256 * fd.cols ∧ assembly.height = 256 * fd.rows ∧ assembly.weight ≤ 255)
      ∧ fd.Ok ∧ (∀ d ∈ fd.cells, d.state = .accumulating) ∧ (∀ off, (readRecord s.mem off).InRange)
      ∧ (-268435455 : Int).natAbs ≤ 268435455
      ∧ ((targets (-268435456) 0).map fun t => (t.i, t.split)) = [(-1, 16384), (0, 49152), (-1, 0), (0, 0)] := by
  have c : ∀ d ∈ List.replicate 32 (cellIn .accumulating), d = cellIn .accumulating := fun d m => List.eq_of_mem_replicate m
  refine ⟨by decide +kernel, ⟨by decide, by decide, by decide, by decide, by decide, fun d m => ?_⟩, fun d m => ?_, fun off => ?_,
    by decide, by decide +kernel⟩
  · rw [c d m]
    exact ⟨by decide, by decide, nofun, by decide⟩
  · rw [c d m]
    rfl
  · have z : ∀ n a, Memory.readBytes [] a n = List.replicate n 0 := by
      intro n
      induction n with
      | zero => exact fun _ => rfl
      | succ n ih => exact fun a => congrArg (0 :: ·) (ih (a + 1))
    have r : readRecord [] off = ⟨0, 0, 0, 0, 0, 0⟩ := by
      simp only [readRecord, Memory.readInt, Memory.readNat, z]
      decide
    show (readRecord [] off).InRange
    rw [r]
    exact ⟨by decide, by decide, by decide, by decide, by decide, by decide⟩

/-- CellClearInRowOrder: a POSTED CLEAR_FIELD of the last cell, of one beyond the columns, and of FIELD1, not DEFINED; a cell before the
last, and the last with the walker HALTED, RUNNING over a FREE record, RUNNING and parked on the order's own record, and after a write of
RUN 0 with the deposit unit idle and not. -/
theorem witness_CellClearInRowOrder :
    let p (field col : Byte) := withField (posted 3 field [(0x102A, col), (0x102E, 1), (0x1030, 1)])
    let s (k : Nat) : State :=
      { withField (halted (record 2 3 0 [])) with service := some (.clearField 0x1000 0 ⟨0, 0, 2, 1⟩ k) }
    (presents (p 0 7) 3 = true ∧ presents (p 0 8) 3 = true ∧ presents (p 1 7) 3 = true ∧ (p 1 7).fields[1] = none
        ∧ Memory.readNat (p 0 7).mem 0x102A 2 = 7 ∧ Memory.readNat (p 0 8).mem 0x102A 2 = field0.cols
        ∧ Memory.readNat (p 0 7).mem 0x102E 2 = 1 ∧ Memory.readNat (p 0 7).mem 0x1030 2 = 1)
      ∧ ((s 0).service = some (.clearField 0x1000 0 ⟨0, 0, 2, 1⟩ 0) ∧ (s 0).fields[0] = some field0 ∧ 0 + 1 < 2 * 1)
      ∧ (2 * 1 ≤ 1 + 1 ∧ (s 1).Halted ∧ 0x1000 + 128 ≤ Config.memSize ∧ Memory.readNat (s 1).mem 0x1000 4 = 2)
      ∧ (∀ x ∈ [(0x2000, false), (0x1000, true)],
        let v : State := { s 1 with walker := { (s 1).walker with state := .running, cursor := x.1, parked := x.2 } }
        v.Examines ∧ v.WaitsBeside 0x1000)
      ∧ (let v : State := { s 1 with
          walker := { (s 1).walker with state := .running }, port := { (s 1).port with control := ⟨false, false, false⟩ } }
        v.port.control.run = false ∧ v.walker.state ≠ .stopped ∧ v.deposit = .idle
          ∧ ({ v with deposit := .waiting assembly } : State).deposit ≠ .idle)
      ∧ State.reset.service = none := by
  refine ⟨by decide +kernel, by decide +kernel, ⟨by decide, ⟨rfl, rfl⟩, by decide, by decide +kernel⟩, ?_,
    ⟨rfl, by decide, rfl, nofun⟩, rfl⟩
  unfold State.Examines State.WaitsBeside
  decide +kernel

/-- The exposure ASSEMBLING with its slot and its outcome of segment 17 as given, served by an order. -/
def bound (g : Slot → Slot) (out : SegOutcome) (o : Assembly) : State :=
  { serving with
    slots := serving.slots.set 0 ((serving.slots[0]).map g)
    exposures := serving.exposures.set 0
      ((serving.exposures[0]).map fun e => { e with state := .assembling, outcomes := e.outcomes.set 17 out })
    deposit := .serving o }

/-- RowDepositInRowFollowing: a table entry read before a write and one read after it; row 3 ready in the FILLING slot of segment 17, the
turn at 17 and at 16 (j 0 and 1), without a memory error and with one at the row's last byte; a COMPLETE slot with row 5 behind it; a LATE
slot under drain with another segment awaited. -/
theorem witness_RowDepositInRowFollowing :
    let late : Assembly := { assembly with draining := [17], map := smallMap.set 18 (some entry), deadlinePassed := true }
    let s := bound id .unsettled assembly
    let c := bound (fun sl => { sl with state := .complete, rows := [3, 5] }) .unsettled assembly
    let d := bound (fun sl => { sl with state := .late }) .late late
    (s.deposit = .serving assembly ∧ assembly.tileComplete = false ∧ assembly.deadlinePassed = false
        ∧ s.awaits assembly 17 = true ∧ s.slotIn 0x0207 17 [.filling, .complete] = some 0
        ∧ (17 : SegNo) = assembly.turn + Fin.ofNat 64 0 ∧ (17 : SegNo) = 16 + Fin.ofNat 64 1 ∧ s.awaits assembly 16 = false
        ∧ (s.slots[0]).map (fun sl => (sl.state, sl.rows, sl.cursor)) = some (.filling, [3], 0)
        ∧ s.banks[3] = some bank ∧ assembly.map[17] = some entry ∧ assembly.place[17] = some placed)
      ∧ (∃ x ∈ rowReads bank.amps[17] entry 0 3,
          ({ s with errs := [⟨.tileRow, 0x3D8000000 + 3 * 2240 + 11⟩] } : State).readErr x.1 x.2.1 x.2.2.1 = true)
      ∧ ((RowEntry.table 0 ∈ (⟨s.mem, [.table 0]⟩ : RowView).read ∧ RowEntry.table 1 ∉ (⟨s.mem, [.table 0]⟩ : RowView).read)
        ∧ (s.landRowWrites [⟨0x2000, [0, 0x40], [.table 0]⟩]).deposit = .serving assembly)
      ∧ (c.awaits assembly 17 = true ∧ c.slotIn 0x0207 17 [.filling, .complete] = some 0
        ∧ (c.slots[0]).map (fun sl => (sl.rows, sl.cursor)) = some ([3, 5], 0))
      ∧ (d.awaits late 17 = false ∧ 17 ∈ late.draining ∧ d.slotIn 0x0207 17 [.late] = some 0 ∧ d.awaits late 18 = true)
      ∧ State.reset.deposit = .idle := by
  decide +kernel

/-- RowDepositOfCompleteSlots: in TILE_COMPLETE, a FILLING slot alone; a COMPLETE slot with rows 3 and 5, chosen and current; its last row,
with segment 18 awaited too; the same in ROW_FOLLOWING. -/
theorem witness_RowDepositOfCompleteSlots :
    let tile : Assembly := { assembly with tileComplete := true, map := smallMap.set 18 (some entry) }
    let s (o : Assembly) (rows : List Nat) := bound (fun sl => { sl with state := .complete, rows := rows }) .unsettled o
    let w := bound id .unsettled tile
    (w.deposit = .serving tile ∧ tile.current = none ∧ (∀ g : SegNo, (w.awaits tile g && (w.slotIn 0x0207 g [.complete]).isSome) = false)
        ∧ w.awaits tile 17 = true)
      ∧ (∀ rows ∈ [[3, 5], [3]], (s tile rows).awaits tile 17 = true ∧ (s tile rows).slotIn 0x0207 17 [.complete] = some 0
        ∧ ((s tile rows).slots[0]).map (fun sl => (sl.rows, sl.cursor)) = some (rows, 0) ∧ rows.Pairwise (· < ·)
        ∧ (s tile rows).banks[3] = some bank ∧ tile.map[17] = some entry ∧ tile.place[17] = some placed
        ∧ (s tile rows).awaits tile 18 = true ∧ (s tile rows).slotIn 0x0207 18 [.complete] = none
        ∧ (s tile rows).placeOf 0x0207 = some 0 ∧ ((s tile rows).exposures[0]).map ExpEntry.state = some .assembling)
      ∧ (∀ g : SegNo, g ≠ 17 → ((s tile [3]).awaits tile g && ((s tile [3]).slotIn 0x0207 g [.complete]).isSome) = false)
      ∧ (s assembly [3]).slotIn 0x0207 17 [.filling, .complete] = some 0 ∧ assembly.turn = 17 := by
  decide +kernel

/-- SettlingAndTheEndOfAnAssemble: a COMPLETE slot with its row deposited; a FILLING one; one of other map rows; one FILLING after the
deadline; a segment awaited, and a LATE slot that drains; every segment settled with the walker HALTED, with and without a share made and a
row lost. -/
theorem witness_SettlingAndTheEndOfAnAssemble :
    let late : Assembly := { assembly with deadlinePassed := true, draining := [17] }
    let s := bound id .unsettled assembly
    let c := bound (fun sl => { sl with state := .complete, cursor := 4 }) .unsettled assembly
    let x := bound (fun sl => { sl with mapRows := 9 }) .unsettled assembly
    let d := bound (fun sl => { sl with state := .late }) .late late
    let e (o : Assembly) : State :=
      { bound id .deposited o with mem := record 2 1 7 [], walker := (halted []).walker, port := (halted []).port }
    (s.deposit = .serving assembly ∧ s.awaits assembly 17 = true ∧ s.placeOf 0x0207 = some 0 ∧ assembly.map[17] = some entry
        ∧ (s.exposures[0]).map ExpEntry.state = some .assembling
        ∧ (s.slots[0]).map (fun sl => (sl.tag, sl.state, sl.rowLen, sl.mapRows)) = some (0x0207, .filling, entry.rowLen, entry.rows))
      ∧ ((c.slots[0]).map (fun sl => (sl.state, sl.rows, sl.cursor)) = some (.complete, [3], 4) ∧ c.awaits assembly 17 = true)
      ∧ ((x.slots[0]).map Slot.mapRows = some 9 ∧ x.awaits assembly 17 = true)
      ∧ ((bound id .unsettled late).awaits late 17 = true ∧ late.deadlinePassed = true)
      ∧ (d.slotIn 0x0207 17 [.late] = some 0 ∧ (d.slots[0]).map (fun sl => (sl.rows, sl.cursor)) = some ([3], 0))
      ∧ ∀ o ∈ [assembly, { assembly with made := true }, { assembly with made := true, results := { Results.zero with rowsMissing := 1 } }],
        (e o).deposit = .serving o ∧ (∀ g : SegNo, (e o).awaits o g = false) ∧ o.draining = [] ∧ (e o).placeOf 0x0207 = some 0
          ∧ ((e o).exposures[0]).isSome ∧ ((e o).walker.state = .halted ∧ (e o).port.control.run = true)
          ∧ Memory.readNat (e o).mem o.record 4 = 2 := by
  decide +kernel

/-- DeadlineExpiryOfAnAssemble: a microsecond before the expiry; WAITING and SERVING at it, the walker HALTED. -/
theorem witness_DeadlineExpiryOfAnAssemble :
    let w : State := { halted (record 2 1 7 []) with deposit := .waiting assembly, timeBase := 50 }
    let v : State := { serving with timeBase := 50, walker := w.walker, port := w.port }
    (assembly.expiry = some 50 ∧ 49 < 50 ∧ 50 ≤ w.timeBase) ∧ w.Halted ∧ w.deposit = .waiting assembly ∧ w.StillTaken assembly.record
      ∧ v.Halted ∧ v.deposit = .serving assembly ∧ 50 ≤ v.timeBase ∧ assembly.deadlinePassed = false ∧ v.PoolOk := by
  refine ⟨by decide +kernel, ⟨rfl, rfl⟩, rfl, ⟨⟨rfl, rfl⟩, by decide +kernel⟩, ⟨rfl, rfl⟩, rfl, by decide +kernel, rfl,
    poolOk_congr (s := stored3) (by decide +kernel) (by decide +kernel) stored3_pool⟩

/-- FinalizeTakeUpOpeningAndClosing: a POSTED FINALIZE of the last cell with its product at 0x10_0000, over FIELD0, off the grid, of a
column beyond the field, and of FIELD1, not DEFINED; the opening; the closing before the last cell, and of the last with the walker HALTED.
-/
theorem witness_FinalizeTakeUpOpeningAndClosing :
    let p (field col b1 b2 b4 : Byte) := withField (posted 2 field
      ([(0x102A, col), (0x102E, 1), (0x1030, 1), (0x1039, b1), (0x103A, b2), (0x103C, b4)].filter fun c => decide (c.2 ≠ 0)))
    let s (ph : CellPhase) (k : Nat) := finalizing ph k
    (∀ x ∈ [p 0 7 0 0x10 0, p 0 7 0 0 1, p 0 7 1 0x10 0, p 0 8 0 0x10 0, p 1 7 0 0x10 0], presents x 2 = true)
      ∧ (Memory.readNat (p 0 7 0 0x10 0).mem 0x1038 8 = 0x100000 ∧ Memory.readNat (p 0 7 0 0 1).mem 0x1038 8 = field0.base
        ∧ Memory.readNat (p 0 7 1 0x10 0).mem 0x1038 8 % 4096 ≠ 0 ∧ Memory.readNat (p 0 8 0 0x10 0).mem 0x102A 2 = field0.cols)
      ∧ ((s .opening 0).service = some (.finalize (finalize .opening 0)) ∧ ((s .opening 0).fields[0]).isSome
        ∧ ((s .opening 0).fields[0]).map (fun fd => (fd.cells[0]?).isSome && (fd.cells[1]?).isSome) = some true)
      ∧ (finalize .closing 0).base + 1 * 659456 + 659456 ≤ Config.memSize
      ∧ 0 + 1 < (finalize .closing 0).rect.width * (finalize .closing 0).rect.height
      ∧ ((s .closing 1).walker.state = .halted ∧ (s .closing 1).port.control.run = true)
      ∧ (finalize .closing 1).record + 128 ≤ (finalize .closing 1).base ∧ Memory.readNat (s .closing 1).mem 0x1000 4 = 2
      ∧ (finalize .closing 0).phase ≠ .opening ∧ (finalize .opening 0).phase ≠ .closing := by
  decide +kernel

/-- FinalizePublishesARow: the first and the last in-cell row, without a memory error and with one at the last record; out of phase. -/
theorem witness_FinalizePublishesARow :
    (∀ q ∈ [0, 255], (finalizing (.rows q false) 0).service = some (.finalize (finalize (.rows q false) 0))
        ∧ ((finalizing (.rows q false) 0).fields[0]).isSome ∧ q < 256
        ∧ ∃ e ∈ [(⟨.accumulator, 0x100000000 + (q * 256) * 24 + 6143⟩ : MemErr)], e.by_ = .accumulator
          ∧ 0x100000000 + (0 * 65536 + q * 256) * 24 ≤ e.at_
          ∧ e.at_ < 0x100000000 + (0 * 65536 + q * 256) * 24 + 256 * 24)
      ∧ (finalize (.rows 0 false) 0).base + 0 * 659456 + 659456 ≤ Config.memSize
      ∧ (finalize .opening 0).phase ≠ .rows 0 false := by
  decide +kernel

/-- An amplifier entry that passes against an empty map: FIXED mode, gain and saturation 1, its table at 0x8000. -/
def ampImage : List Byte :=
  [1, 0, 0, 0, 0, 0, 1, 0, 1, 0, 0, 0, 0, 0, 0, 0, 0, 0x80] ++ List.replicate 30 0

/-- The first 16 bytes of a bank record: bank 3, no defects. -/
def bankHead : List Byte := [0x42, 0x41, 0x4E, 0x4B, 3, 0, 0, 0] ++ List.replicate 8 0

/-- A bank record of 64 such amplifiers. -/
def bankImage : List Byte := bankHead ++ (List.replicate 64 ampImage).flatten

theorem bankImage_length : bankImage.length = 3088 := by decide +kernel

/-- The fields of an amplifier entry of the record are those of the one entry. -/
theorem bankImage_amp (s j n : Nat) (hs : s < 64) (h : j + n ≤ 48) :
    (bankImage.drop (16 + 48 * s + j)).take n = (ampImage.drop j).take n := by
  have hl : ampImage.length = 48 := by decide
  have e : List.replicate 64 ampImage
      = List.replicate s ampImage ++ (ampImage :: List.replicate (63 - s) ampImage) := by
    rw [← List.replicate_succ, List.replicate_append_replicate]
    congr 1
    omega
  have hf : (List.replicate s ampImage).flatten.length = 48 * s := by simp [hl, Nat.mul_comm]
  rw [bankImage, show 16 + 48 * s + j = bankHead.length + ((List.replicate s ampImage).flatten.length + j) by
    rw [hf]; simp [bankHead]; omega, List.drop_length_add_append, e, List.flatten_append, List.drop_length_add_append,
    List.flatten_cons, List.drop_append_of_le_length (by omega), List.take_append_of_le_length (by simp; omega)]

/-- The state with the record in board memory at 0x2000, the DEFINE_BANK's own at 0x1000, and that order in flight. -/
def banking : State :=
  { halted (Memory.writeBytes (record 2 5 3 []) 0x2000 bankImage) with
    service := some (.defineBank 0x1000 3 0x2000 (Vector.replicate 64 none)) }

theorem banking_amp (s : SegNo) : readAmp banking.mem (0x2000 + 16 + 48 * s.val) = ⟨1, 0, 0, 0, 1, 1, 0x8000, 0, 0⟩ := by
  have r (j n : Nat) (h : j + n ≤ 48) :
      Memory.readNat banking.mem (0x2000 + 16 + 48 * s.val + j) n = leNat ((ampImage.drop j).take n) := by
    have := s.isLt
    rw [show 0x2000 + 16 + 48 * s.val + j = 0x2000 + (16 + 48 * s.val + j) by omega]
    exact (Memory.readNat_writeBytes _ _ _ _ _ (by rw [bankImage_length]; omega) (by rw [bankImage_length]; decide)).trans
      (by rw [bankImage_amp s.val j n this h])
  unfold readAmp
  rw [r 1 1 (by decide), r 2 1 (by decide), r 4 2 (by decide), r 6 2 (by decide), r 8 2 (by decide), r 16 8 (by decide),
    r 24 8 (by decide), r 32 8 (by decide), show 0x2000 + 16 + 48 * s.val = 0x2000 + 16 + 48 * s.val + 0 from rfl,
    r 0 1 (by decide)]
  decide +kernel

/-- The bank that the record holds. -/
def bankHeld : Bank := ⟨Vector.replicate 64 ⟨.fixed, 0, 0, 0, 1, 1, 0x8000, 0, 0⟩, []⟩

/-- DefineBankTakeUpAndEnd: a POSTED DEFINE_BANK of banks 7 and 8, with and without a map; a record that passes; one without the magic; one
outside the general region; a read that meets an error at the first and at the last byte; no byte read before the end. -/
theorem witness_DefineBankTakeUpAndEnd :
    ((∀ b ∈ [7, 8], presents (posted 5 b []) 5 = true ∧ Memory.readNat (posted 5 b []).mem 0x1028 1 = b.toNat)
        ∧ (posted 5 7 []).loader.inUse = none
        ∧ presents { posted 5 7 [] with loader := ⟨some ⟨18, smallMap⟩, .valid, .absent, none⟩ } 5 = true)
      ∧ (banking.service = some (.defineBank 0x1000 3 0x2000 (Vector.replicate 64 none)) ∧ banking.StillTaken 0x1000)
      ∧ (Memory.readNat banking.mem 0x2000 4 = 0x4B4E4142 ∧ Memory.readNat banking.mem (0x2000 + 4) 1 = 3
        ∧ Memory.readNat banking.mem (0x2000 + 6) 2 = 0 ∧ 0x1000 ≤ 0x2000 ∧ 0x2000 + (3088 + 12 * 0) ≤ 0x3D8000000)
      ∧ (bankHeld.StoredAt banking.mem 0x2000 ∧ (∀ seg : SegNo, bankHeld.amps[seg].Fits none) ∧ bankHeld.defects = [])
      ∧ Memory.readNat (halted (record 2 5 3 [])).mem 0x2000 4 ≠ 0x4B4E4142
      ∧ ¬ (0x1000 ≤ 0xFFF) ∧ (0x2000 ≤ 0x2000 ∧ 0x2000 < 0x2000 + 16) ∧ 0x2000 + 3087 < 0x2000 + 16 + (3072 + 12 * 0)
      ∧ banking.asRead 0x2000 [] = banking.mem := by
  have h (i n : Nat) (hi : i + n ≤ 16) : Memory.readNat banking.mem (0x2000 + i) n = leNat ((bankImage.drop i).take n) :=
    Memory.readNat_writeBytes _ _ _ _ _ (by rw [bankImage_length]; omega) (by rw [bankImage_length]; decide)
  have t : Memory.readNat banking.mem 0x1000 4 = 2 :=
    (Memory.readNat_writeBytes_outside _ _ _ _ _ (by left; decide)).trans (by decide)
  refine ⟨by decide +kernel, ⟨rfl, ⟨rfl, rfl⟩, by decide, t⟩, ⟨(h 0 4 (by decide)).trans (by decide +kernel),
    (h 4 1 (by decide)).trans (by decide +kernel), (h 6 2 (by decide)).trans (by decide +kernel), by decide, by decide⟩,
    ⟨⟨fun seg => ?_, fun j d g => ?_⟩, fun seg => ?_, rfl⟩, by decide +kernel, by decide, by decide, by decide, rfl⟩
  · have a : bankHeld.amps[seg] = ⟨.fixed, 0, 0, 0, 1, 1, 0x8000, 0, 0⟩ := Vector.getElem_replicate _
    have r := banking_amp seg
    simp only [readAmp, RawAmp.mk.injEq] at r
    rw [a]
    exact r
  · rw [show bankHeld.defects = [] from rfl, List.getElem?_nil] at g
    cases g
  · have a : bankHeld.amps[seg] = ⟨.fixed, 0, 0, 0, 1, 1, 0x8000, 0, 0⟩ := Vector.getElem_replicate _
    rw [a]
    exact ⟨by decide, nofun, nofun, by decide, Or.inl rfl, Or.inl rfl⟩

/-- HeaderCodeCorrectsOneAndDetectsTwo: a check byte with bits 7:6 set over the parity 0. -/
theorem witness_HeaderCodeCorrectsOneAndDetectsTwo :
    (0xC0 : Nat) % 64 = headerParity (0x000000 : BitVec 24).toNat ∧ (3 : Fin 24) ≠ 4 ∧ (0 : Fin 6) ≠ 5 := by decide +kernel

/-- SplitWeightsOfAPosition: the greatest exposure weight, over a position left of the field. -/
theorem witness_SplitWeightsOfAPosition : (255 : Nat) ≤ 255 ∧ (targets (-268435456) 0).map Target.split = [16384, 49152, 0, 0] := by
  decide +kernel

/-- EveryStepKeepsMemory: board memory with a record in it, and a step to take. -/
theorem witness_EveryStepKeepsMemory : (running [(0x24, 128), (0x1000, 1)]).MemoryOk := ⟨by decide, by decide⟩

/-- EveryStepKeepsTheLinks: LINK1 in a burst. -/
theorem witness_EveryStepKeepsTheLinks : (burst 2).LinksOk := by
  intro l
  refine ⟨⟨?_, ?_, ?_, ?_⟩, ?_, ?_, ?_⟩
  · revert l; decide +kernel
  · revert l; decide +kernel
  · have c : ∀ l : LinkNo, (burst 2).links[l].parser.cur = none := by decide +kernel
    intro h e
    rw [c l] at e
    cases e
  · revert l; decide +kernel
  · revert l; decide +kernel
  · revert l; decide +kernel
  · revert l; decide +kernel

/-- EveryStepKeepsLoaderAndBanks: the power-on load running, and bank 3 VALID. -/
theorem witness_EveryStepKeepsLoaderAndBanks :
    State.reset.LoaderOk ∧ ({ State.reset with banks := State.reset.banks.set 3 (some bank) } : State).BanksOk := by
  refine ⟨⟨by decide, by decide, by decide, by decide, ⟨?_, ?_⟩, ?_⟩, fun k b h => ?_, fun _ _ _ _ h => ?_⟩
  · rintro ⟨rec, image, h⟩
    cases h
  · rintro ⟨p, h⟩
    cases h
  · intro m h
    cases h
  · have g : ∀ k : Fin 8, ∀ b ∈ (State.reset.banks.set 3 (some bank))[k], b = bank := by decide +kernel
    rw [g k b h]
    refine ⟨fun seg => ?_, by decide, fun d m => by cases m⟩
    have a : bank.amps[seg] = ⟨.fixed, 0, 0, 1, 4096, 60000, 0x2000, 0, 0⟩ := Vector.getElem_replicate _
    rw [a]
    exact ⟨by decide, nofun, nofun, by decide, Or.inl rfl, Or.inl rfl⟩
  · cases h

/-- EveryStepKeepsThePool: exposure 0x0207 with one slot FILLING and row 3 stored. -/
theorem witness_EveryStepKeepsThePool : stored3.PoolOk ∧ stored3.slotsNaming 0x0207 = 1 := ⟨stored3_pool, by decide +kernel⟩

/-- EveryStepKeepsTheFields: FIELD0 of chapter 7 alone. -/
theorem witness_EveryStepKeepsTheFields : (withField State.reset).FieldsOk := by
  have n : ∀ i : Fin 4, ∀ f ∈ (withField State.reset).fields[i], i = 0 ∧ f = field0 := by decide +kernel
  refine ⟨fun i f h => ?_, fun i j f g h k ne => ?_⟩
  · rw [(n i f h).2]
    refine ⟨by decide, by decide, by decide, by decide, by decide, fun d m => ?_⟩
    rw [List.eq_of_mem_replicate m]
    exact ⟨by decide, by decide, fun _ => rfl, by decide⟩
  · exact absurd ((n i f h).1.trans (n j g k).1.symm) ne

/-- EveryStepKeepsOrdersApart: an ASSEMBLE into FIELD0 in flight beside a DEFINE_BANK. -/
theorem witness_EveryStepKeepsOrdersApart : ({ serving with service := banking.service } : State).OrdersOk := by
  intro o x h g
  cases g
  exact fun k => by cases k

/-- EveryStepKeepsWalkerAndAlerts: a RUNNING walker. -/
theorem witness_EveryStepKeepsWalkerAndAlerts : (running []).WalkerOk ∧ (running []).AlertOk :=
  ⟨⟨fun h => absurd rfl h, by decide⟩, by decide, by decide +kernel, by decide⟩

/-- ProgressBlockIsWrittenByMirrorsAlone: a FINALIZE in flight, FIELD0 defined, and a command to take. -/
theorem witness_ProgressBlockIsWrittenByMirrorsAlone :
    (finalizing .opening 0).PlacesOk ∧ Instr.finalizeCellOpening ≠ .powerOn
      ∧ ∀ off, Instr.finalizeCellOpening ≠ .mirrorWriteLands off := by
  refine ⟨⟨?_, ?_, ?_⟩, by decide, fun off h => by cases h⟩
  · intro o h
    cases h
  · intro x h
    cases h
    decide
  · intro o h
    cases h
    decide

end Sys2Proof.Tests
end

section
/-! Obligations of chapter 6: a position, its four targets and their weights (R97, R98, R102). -/

namespace Sys2Proof.Machine

/-! ### A position (R97) -/

/-- R97: what the whole part leaves of a position lies in one sky pixel, for negative positions too. -/
theorem sub_wholePart_mem (u : Int) : 0 ≤ u - wholePart u * 2 ^ 30 ∧ u - wholePart u * 2 ^ 30 < 2 ^ 30 := by
  unfold wholePart one30
  omega

/-- R97: the fraction is the floor of what the whole part leaves, counted in 256ths of a sky pixel. -/
theorem fraction_eq_floor (u : Int) : (fraction u : Int) = (u - wholePart u * 2 ^ 30) / 2 ^ 22 := by
  unfold fraction wholePart one30
  omega

theorem fraction_lt (u : Int) : fraction u < 256 := by
  have floor := fraction_eq_floor u
  have rest := sub_wholePart_mem u
  omega

/-- R97: whole part and fraction place a position to within the 22 bits that are dropped. -/
theorem position_between (u : Int) : wholePart u * 2 ^ 30 + fraction u * 2 ^ 22 ≤ u
    ∧ u < wholePart u * 2 ^ 30 + (fraction u + 1) * 2 ^ 22 := by
  have floor := fraction_eq_floor u
  omega

/-! ### The split (R98) -/

theorem targets_split (u v : Int) : (targets u v).map Target.split
    = [(256 - fraction u) * (256 - fraction v), fraction u * (256 - fraction v),
        (256 - fraction u) * fraction v, fraction u * fraction v] := rfl

theorem targets_offset (u v : Int) :
    (targets u v).map (fun t => (t.i - wholePart u, t.j - wholePart v)) = [(0, 0), (1, 0), (0, 1), (1, 1)] := by
  simp [targets]

/-- R98's reason for the sum: the four split weights are the terms of (256 − fx + fx) × (256 − fy + fy). -/
theorem sum_split_terms {fx fy n : Nat} (hx : fx ≤ n) (hy : fy ≤ n) :
    [(n - fx) * (n - fy), fx * (n - fy), (n - fx) * fy, fx * fy].sum = n * n := by
  calc [(n - fx) * (n - fy), fx * (n - fy), (n - fx) * fy, fx * fy].sum
      = ((n - fx) + fx) * ((n - fy) + fy) := by simp only [List.sum_cons, List.sum_nil]; ring
    _ = n * n := by rw [Nat.sub_add_cancel hx, Nat.sub_add_cancel hy]

theorem targets_split_sum (u v : Int) : ((targets u v).map Target.split).sum = 65536 := by
  rw [targets_split]
  exact sum_split_terms (fraction_lt u).le (fraction_lt v).le

/-- R98: a split weight lies in 0..65536, being one term of the sum. -/
theorem split_le_of_mem_targets {u v : Int} {t : Target} (ht : t ∈ targets u v) : t.split ≤ 65536 :=
  calc t.split ≤ ((targets u v).map Target.split).sum := List.le_sum_of_mem (List.mem_map_of_mem ht)
    _ = 65536 := targets_split_sum u v

/-! ### The weight of a share (R102) -/

theorem shareWeight_mono {split split' w w' : Nat} (hs : split ≤ split') (hw : w ≤ w') :
    shareWeight split w ≤ shareWeight split' w' :=
  Nat.div_le_div_right (Nat.mul_le_mul hs hw)

/-- R102: the greatest weight is that of a whole pixel under the greatest exposure weight. -/
theorem shareWeight_le {split w : Nat} (hs : split ≤ 65536) (hw : w ≤ 255) : shareWeight split w ≤ 65280 :=
  calc shareWeight split w ≤ shareWeight 65536 255 := shareWeight_mono hs hw
    _ = 65280 := rfl

/-- Settles O39: R97 for the position, R98 for its targets and their split weights, R102 for the weight of a share. -/
theorem splitWeightsOfAPosition : Obligations.SplitWeightsOfAPosition := by
  intro u v w
  obtain ⟨lower, upper⟩ := position_between u
  exact ⟨⟨lower, upper, fraction_lt u⟩, targets_split_sum u v, targets_offset u v, targets_split u v,
    fun hw _ ht => shareWeight_le (split_le_of_mem_targets ht) hw⟩

end Sys2Proof.Machine
end

section
/-! Obligations of chapter 7: the accumulator records of a field (R106). -/

namespace Sys2Proof.Machine

/-! ### The number of a cell (R106) -/

theorem Field.cellNo_lt {f : Field} {col row : Nat} (hc : col < f.cols) (hr : row < f.rows) :
    f.cellNo col row < f.cols * f.rows :=
  calc row * f.cols + col < row * f.cols + f.cols := Nat.add_lt_add_left hc _
    _ = f.cols * (row + 1) := by ring
    _ ≤ f.cols * f.rows := Nat.mul_le_mul_left _ hr

/-- R106: row order gives each cell a number of its own, since column and row are the remainder and the quotient of the number by the
columns. -/
theorem Field.cellNo_inj {f : Field} {col row col' row' : Nat} (hc : col < f.cols) (hc' : col' < f.cols)
    (h : f.cellNo col row = f.cellNo col' row') : col = col' ∧ row = row' := by
  have column {c r : Nat} (hlt : c < f.cols) : f.cellNo c r % f.cols = c := Nat.mul_add_mod_of_lt hlt
  have colEq : col = col' := by rw [← column hc, h, column hc']
  subst colEq
  have rowEq : row * f.cols = row' * f.cols := Nat.add_right_cancel h
  exact ⟨rfl, Nat.eq_of_mul_eq_mul_right (Nat.zero_lt_of_lt hc) rowEq⟩

/-! ### The number of a record (R106) -/

/-- R106: the number of sky pixel (i, j)'s record among the records of its field. -/
def Field.recordNo (f : Field) (i j : Nat) : Nat := f.cellNo (i / 256) (j / 256) * 65536 + (j % 256) * 256 + i % 256

theorem Field.recordOff_eq (f : Field) (i j : Nat) : f.recordOff i j = f.base + f.recordNo i j * 24 := rfl

theorem Field.regionBytes_eq (f : Field) : f.regionBytes = f.cols * f.rows * 65536 * 24 :=
  (Nat.mul_assoc _ 65536 24).symm

theorem Field.recordNo_lt {f : Field} {i j : Nat} (hi : i < 256 * f.cols) (hj : j < 256 * f.rows) :
    f.recordNo i j < f.cols * f.rows * 65536 := by
  have cell : f.cellNo (i / 256) (j / 256) < f.cols * f.rows :=
    Field.cellNo_lt (Nat.div_lt_of_lt_mul hi) (Nat.div_lt_of_lt_mul hj)
  unfold recordNo
  omega

/-- R106: a record's number tells its cell and its place in the cell, so two sky pixels of a field have different numbers. -/
theorem Field.recordNo_inj {f : Field} {i j i' j' : Nat} (hi : i < 256 * f.cols) (hi' : i' < 256 * f.cols)
    (h : f.recordNo i j = f.recordNo i' j') : i = i' ∧ j = j' := by
  unfold recordNo at h
  have cell : f.cellNo (i / 256) (j / 256) = f.cellNo (i' / 256) (j' / 256) := by omega
  obtain ⟨col, row⟩ := Field.cellNo_inj (Nat.div_lt_of_lt_mul hi) (Nat.div_lt_of_lt_mul hi') cell
  omega

/-! ### The bytes of a record (R106) -/

theorem Field.record_in_region {f : Field} {i j : Nat} (hi : i < 256 * f.cols) (hj : j < 256 * f.rows) :
    f.base ≤ f.recordOff i j ∧ f.recordOff i j + 24 ≤ f.base + f.regionBytes := by
  have number := Field.recordNo_lt hi hj
  rw [f.recordOff_eq, f.regionBytes_eq]
  omega

theorem Field.records_disjoint {f : Field} {i j i' j' : Nat} (hi : i < 256 * f.cols) (hi' : i' < 256 * f.cols)
    (hne : (i, j) ≠ (i', j')) : f.recordOff i j + 24 ≤ f.recordOff i' j' ∨ f.recordOff i' j' + 24 ≤ f.recordOff i j := by
  have number : f.recordNo i j ≠ f.recordNo i' j' := fun h => hne (Prod.ext_iff.mpr (Field.recordNo_inj hi hi' h))
  rw [f.recordOff_eq, f.recordOff_eq]
  omega

/-- Settles O40: a record begins 24 bytes times its number after the region base, and the numbers are below the count of records and
different for different sky pixels. -/
theorem recordsOfAFieldAreDisjoint : Obligations.RecordsOfAFieldAreDisjoint := by
  intro f i j i' j' _ hi hj hi' _
  obtain ⟨lower, upper⟩ := Field.record_in_region hi hj
  exact ⟨f.regionBytes_eq, rfl, lower, upper, Field.records_disjoint hi hi'⟩

end Sys2Proof.Machine
end

section
/-! Obligations of chapter 11: the acknowledgments made through ALERT (R176, R177), and a CONTROL write of CLEAR_MODE (R159). -/

namespace Sys2Proof.Machine

/-! ### Sets of causes (R172) -/

theorem Causes.eq_empty_of_any_eq_false {c : Causes} (h : c.any = false) : c = Causes.empty := by
  obtain ⟨fault, receive, mark, quiet⟩ := c
  simpa [Causes.any, Causes.empty, and_assoc] using h

theorem Causes.minus_self (c : Causes) : c.minus c = Causes.empty := by
  simp [Causes.minus, Causes.empty]

theorem Causes.empty_inter (d : Causes) : Causes.empty.inter d = Causes.empty := rfl

/-- A write names no cause exactly when the four bits of ALERT are written as 0. -/
theorem causesOf_any_eq_false_iff (v : BitVec 32) : (causesOf v).any = false ↔ v.setWidth 4 = 0#4 := by
  have low_bits : (causesOf v).any = ((v.setWidth 4).getLsbD 0 || (v.setWidth 4).getLsbD 1
      || (v.setWidth 4).getLsbD 2 || (v.setWidth 4).getLsbD 3) := by
    simp [Causes.any, causesOf]
  have four_bits : ∀ b : BitVec 4, (b.getLsbD 0 || b.getLsbD 1 || b.getLsbD 2 || b.getLsbD 3) = false ↔ b = 0#4 := by
    decide
  rw [low_bits]
  exact four_bits _

/-- R158: a write of the whole register acts on the low half as a write of that half does. -/
theorem lowHalf_whole (w : BitVec 64) : lowHalf (.whole w) = lowHalf (.low (w.setWidth 32)) := by
  simp [lowHalf, BitVec.extractLsb']

/-! ### An acknowledgment (R176, R177) -/

/-- R176: the acknowledgment count after an acknowledgment of `named`. -/
def State.countAfterAck (named : Causes) (s : State) : Nat :=
  if named.mark || named.quiet then 0 else s.alert.ackCount

/-- R177: the re-send test over the causes that stay pending. -/
def State.resends (left : Causes) (s : State) : Bool :=
  s.port.control.msgEn && (left.inter s.port.alertCfg.enables).any

/-- An acknowledgment writes the pending set, the count and the messages, and nothing else. -/
theorem State.acknowledge_eq (named : Causes) (s : State) :
    s.acknowledge named = { s with
      alert := { s.alert with pending := s.alert.pending.minus named, ackCount := s.countAfterAck named }
      messages := if s.resends (s.alert.pending.minus named) then s.messages + 1 else s.messages } := by
  unfold State.acknowledge State.resends
  dsimp only
  split
  · rfl
  · rfl

/-- R177: no cause stays pending, so no message is sent again. -/
theorem State.resends_empty (s : State) : s.resends Causes.empty = false := by
  unfold State.resends
  rw [Causes.empty_inter]
  exact Bool.and_false _

/-- R176, R177: an acknowledgment of the whole pending set empties it and sends no message. -/
theorem State.acknowledge_pending (s : State) :
    s.acknowledge s.alert.pending = { s with
      alert := { s.alert with pending := Causes.empty, ackCount := s.countAfterAck s.alert.pending } } := by
  rw [State.acknowledge_eq, Causes.minus_self, s.resends_empty]
  rfl

/-- With no cause pending there is nothing that an acknowledgment of the pending set changes. -/
theorem State.acknowledge_pending_of_any_eq_false {s : State} (h : s.alert.pending.any = false) :
    s.acknowledge s.alert.pending = s := by
  have none_pending : s.alert.pending = Causes.empty := Causes.eq_empty_of_any_eq_false h
  have count : s.countAfterAck s.alert.pending = s.alert.ackCount := by
    rw [State.countAfterAck, none_pending]
    rfl
  rw [State.acknowledge_pending, count, ← none_pending]

/-! ### Writes and reads of ALERT (R176) -/

theorem State.writeAlert_of_ignored {s : State} {v : BitVec 32}
    (h : s.port.control.clearMode = true ∨ v.setWidth 4 = 0#4) : s.writeAlert (.low v) = s := by
  refine if_pos ?_
  rw [Bool.or_eq_true, Bool.not_eq_true', causesOf_any_eq_false_iff]
  exact h

theorem State.writeAlert_of_named {s : State} {v : BitVec 32} (mode : s.port.control.clearMode = false)
    (named : v.setWidth 4 ≠ 0#4) : s.writeAlert (.low v) = s.acknowledge (causesOf v) := by
  refine if_neg ?_
  rw [Bool.or_eq_true, Bool.not_eq_true', causesOf_any_eq_false_iff, mode]
  exact not_or.mpr ⟨Bool.false_ne_true, named⟩

theorem State.writeAlert_whole (w : BitVec 64) (s : State) :
    s.writeAlert (.whole w) = s.writeAlert (.low (w.setWidth 32)) := by
  unfold State.writeAlert
  rw [lowHalf_whole]

/-- The part after a host read that returned `data`. -/
def State.returning (data : List Byte) (s : State) : State := { s with readData := data }

theorem State.readAlert_of_mode0 {s : State} (mode : s.port.control.clearMode = false) (p : RegPart) :
    s.readAlert p = s.returning (partBytes p s.alert.pending.bits) := by
  unfold State.readAlert
  rw [mode]
  rfl

/-- In CLEAR_MODE 1 a read is an acknowledgment of what it returned; where it returned nothing, an acknowledgment changes nothing. -/
theorem State.readAlert_acknowledges {s : State} (mode : s.port.control.clearMode = true) {p : RegPart}
    (returned : s.alertReturned p = s.alert.pending) :
    s.readAlert p = (s.returning (partBytes p s.alert.pending.bits)).acknowledge s.alert.pending := by
  unfold State.readAlert
  rw [mode, returned, Bool.true_and]
  cases pending : s.alert.pending.any with
  | true => rfl
  | false => exact (State.acknowledge_pending_of_any_eq_false
      (s := s.returning (partBytes p s.alert.pending.bits)) pending).symm

theorem State.readAlert_of_mode1 {s : State} (mode : s.port.control.clearMode = true) {p : RegPart}
    (returned : s.alertReturned p = s.alert.pending) :
    s.readAlert p = { s with
      readData := partBytes p s.alert.pending.bits
      alert := { s.alert with pending := Causes.empty, ackCount := s.countAfterAck s.alert.pending } } :=
  (State.readAlert_acknowledges mode returned).trans (State.acknowledge_pending (s.returning _))

/-! ### A CONTROL write that leaves the walker alone (R159, R162) -/

/-- R161, R162: the walker has nothing to follow up where each unit is busy as before. -/
theorem State.afterFlight_of_busy_eq {before after : State} (deposit : after.depositBusy = before.depositBusy)
    (service : after.serviceBusy = before.serviceBusy) : State.afterFlight before after = after := by
  refine if_neg ?_
  rw [deposit, service, Bool.and_not_self, Bool.and_not_self]
  exact Bool.false_ne_true

/-- A step whose effect keeps both units' orders and board memory is that effect: the walker has nothing to follow up, and no read under
way misses a change. -/
theorem State.stepWith_eq_effect {s t : State} {errs : List MemErr} {effect : State → State}
    (is_effect : effect { s with errs := errs } = t) (deposit : t.deposit = s.deposit) (service : t.service = s.service)
    (mem : t.mem = s.mem) : s.stepWith errs effect = t := by
  have deposit_busy : t.depositBusy = s.depositBusy := by
    rw [State.depositBusy, State.assembly, deposit]
    rfl
  have service_busy : t.serviceBusy = s.serviceBusy := congrArg Option.isSome service
  have no_follow_up : State.afterFlight { s with errs := errs } t = t :=
    State.afterFlight_of_busy_eq deposit_busy service_busy
  unfold State.stepWith
  dsimp only
  rw [is_effect, no_follow_up]
  exact noteMemory_of_mem_eq t _ mem

/-- R162: RUN acts on the walker only where it changes whether the walker is to run. -/
theorem State.applyRun_of_run_kept {s : State} {was : WalkerState}
    (run : s.port.control.run = decide (was ≠ .stopped)) : s.applyRun was = s := by
  cases was with
  | stopped => exact if_neg (by rw [run]; decide)
  | running => exact if_pos run
  | halted => exact if_pos run

theorem State.controlWrite_of_run_kept {s : State} {c : ControlWrite} (no_reset : c.softReset = false) (abort : c.abort = false)
    (run : c.run = decide (s.walker.state ≠ .stopped)) :
    s.controlWrite c = { s with port := { s.port with control := ⟨c.run, c.clearMode, c.msgEn⟩ } } := by
  unfold State.controlWrite
  simp only [no_reset, abort, Bool.false_eq_true, if_false]
  exact State.applyRun_of_run_kept run

/-! ### The commands -/

theorem exec_alertWrite (w : RegWrite) (s : State) : exec (.alertWrite w) s = .next (s.writeAlert w) := rfl

theorem exec_alertRead (p : RegPart) (s : State) : exec (.alertRead p) s = .next (s.readAlert p) := rfl

theorem exec_clearMode (x : ControlWord) (errs : List MemErr) (s : State) : exec (.clearMode x errs) s
    = .next (s.stepWith errs (State.controlWrite { controlFields x with softReset := false })) := rfl

/-- R159, R176: a CONTROL write that keeps RUN and has no ABORT writes the kept fields, CLEAR_MODE among them, and nothing else. -/
theorem exec_clearMode_of_run_kept {s : State} {x : ControlWord} (errs : List MemErr)
    (run : x.value.getLsbD 0 = decide (s.walker.state ≠ .stopped)) (abort : x.value.getLsbD 1 = false) :
    exec (.clearMode x errs) s = .next { s with
      errs := errs
      port := { s.port with control := ⟨x.value.getLsbD 0, x.value.getLsbD 3, x.value.getLsbD 4⟩ } } := by
  have written := State.controlWrite_of_run_kept (s := { s with errs := errs })
    (c := { controlFields x with softReset := false }) rfl abort run
  rw [exec_clearMode, State.stepWith_eq_effect written rfl rfl rfl]
  rfl

/-- Settles O12: R176's two clear modes, each a use or a refusal of one acknowledgment, with R177's re-send, and R159's change of
CLEAR_MODE. -/
theorem alertAcknowledgments : Obligations.AlertAcknowledgments := by
  intro v s
  refine ⟨fun ignored => ?_, fun mode named => ?_, fun w => ?_, fun mode => ⟨?_, ?_⟩, fun mode => ⟨?_, ?_⟩, fun x errs => ?_⟩
  · rw [exec_alertWrite, State.writeAlert_of_ignored ignored]
  · rw [exec_alertWrite, State.writeAlert_of_named mode named, State.acknowledge_eq]
    rfl
  · rw [exec_alertWrite, exec_alertWrite, State.writeAlert_whole]
  · rw [exec_alertRead, State.readAlert_of_mode0 mode]
    rfl
  · rw [exec_alertRead, State.readAlert_of_mode0 mode]
    rfl
  · rw [exec_alertRead, State.readAlert_of_mode1 mode rfl]
    rfl
  · rw [exec_alertRead, State.readAlert_of_mode1 mode rfl]
    rfl
  · exact fun run abort => exec_clearMode_of_run_kept errs run abort

end Sys2Proof.Machine
end

section
/-! What a change of the state keeps of the blocks' invariants (chapters 2, 4, 7, 8, 10 and 11): one relation for all blocks but the map
loader and the bank table, and the frame rule that gives it from what an operation touches. -/

-- One theorem at a time: the threads of a parallel elaboration reserve more memory than the check allows.
set_option Elab.async false

namespace Sys2Proof.Machine

variable {s t u : State} {ps : List Part}

/-- A change of the state keeps each block's invariant, and the bytes of the progress block when fields and orders in flight lie outside
it. -/
structure Keeps (s t : State) : Prop where
  memory : s.MemoryOk → t.MemoryOk
  links : s.LinksOk → t.LinksOk
  pool : s.PoolOk → t.PoolOk
  fields : s.FieldsOk → t.FieldsOk
  orders : s.OrdersOk → t.OrdersOk
  places : s.FieldsOk → s.PlacesOk → t.PlacesOk
  block : s.FieldsOk → s.PlacesOk → ∀ a < Config.generalBase, Memory.read t.mem a = Memory.read s.mem a
  walker : s.WalkerOk → t.WalkerOk
  alert : s.AlertOk → t.AlertOk

theorem Keeps.refl (s : State) : Keeps s s :=
  ⟨id, id, id, id, id, fun _ h => h, fun _ _ _ _ => rfl, id, id⟩

theorem Keeps.trans (h : Keeps s t) (g : Keeps t u) : Keeps s u where
  memory x := g.memory (h.memory x)
  links x := g.links (h.links x)
  pool x := g.pool (h.pool x)
  fields x := g.fields (h.fields x)
  orders x := g.orders (h.orders x)
  places f p := g.places (h.fields f) (h.places f p)
  block f p a ha := (g.block (h.fields f) (h.places f p) a ha).trans (h.block f p a ha)
  walker x := g.walker (h.walker x)
  alert x := g.alert (h.alert x)

theorem Keeps.ite {c : Prop} [Decidable c] (ht : c → Keeps s t) (hu : ¬c → Keeps s u) : Keeps s (if c then t else u) := by
  split
  · next h => exact ht h
  · next h => exact hu h

theorem Keeps.foldl {α : Type} (f : State → α → State) (h : ∀ s a, Keeps s (f s a)) (l : List α) (s : State) :
    Keeps s (l.foldl f s) := by
  induction l generalizing s with
  | nil => exact Keeps.refl s
  | cons a l ih => exact (h s a).trans (ih (f s a))

/-! ### The parts an invariant speaks of -/

theorem State.MemoryOk.congr (hm : t.mem = s.mem) (h : s.MemoryOk) : t.MemoryOk := by
  simpa only [State.MemoryOk, hm] using h

theorem State.LinksOk.congr (hl : t.links = s.links) (h : s.LinksOk) : t.LinksOk := by
  simpa only [State.LinksOk, hl] using h

theorem State.WalkerOk.congr (hw : t.walker = s.walker) (h : s.WalkerOk) : t.WalkerOk := by
  simpa only [State.WalkerOk, hw] using h

theorem State.AlertOk.congr (ha : t.alert = s.alert) (hp : t.port = s.port) (h : s.AlertOk) : t.AlertOk := by
  simpa only [State.AlertOk, ha, hp] using h

theorem State.PoolOk.congr (he : t.exposures = s.exposures) (hs : t.slots = s.slots) (h : s.PoolOk) : t.PoolOk := by
  simpa only [State.PoolOk, State.TableOk, State.SlotsOk, State.slotsNaming, State.entryOf, State.placeOf, he, hs] using h

theorem State.FieldsOk.congr (hf : t.fields = s.fields) (h : s.FieldsOk) : t.FieldsOk := by
  simpa only [State.FieldsOk, hf] using h

theorem State.OrdersOk.congr (hd : t.deposit = s.deposit) (hs : t.service = s.service) (h : s.OrdersOk) : t.OrdersOk := by
  simpa only [State.OrdersOk, State.assembly, hd, hs] using h

theorem State.PlacesOk.congr (hd : t.deposit = s.deposit) (hs : t.service = s.service) (h : s.PlacesOk) : t.PlacesOk := by
  simpa only [State.PlacesOk, State.assembly, hd, hs] using h

/-- The frame rule: after a change that keeps the invariants, an operation keeps those of the parts it does not touch, so that only those of
the parts it touches are left to show. -/
theorem Keeps.step (k : Keeps s t) (h : Touches ps t u)
    (memory : Part.mem ∈ ps → s.MemoryOk → u.MemoryOk := by exact fun h => absurd h (by decide))
    (links : Part.links ∈ ps → s.LinksOk → u.LinksOk := by exact fun h => absurd h (by decide))
    (pool : Part.exposures ∈ ps ∨ Part.slots ∈ ps → s.PoolOk → u.PoolOk := by exact fun h => absurd h (by decide))
    (fields : Part.fields ∈ ps → s.FieldsOk → u.FieldsOk := by exact fun h => absurd h (by decide))
    (orders : Part.deposit ∈ ps ∨ Part.service ∈ ps → s.OrdersOk → u.OrdersOk := by exact fun h => absurd h (by decide))
    (places : Part.deposit ∈ ps ∨ Part.service ∈ ps → s.FieldsOk → s.PlacesOk → u.PlacesOk := by
      exact fun h => absurd h (by decide))
    (block : Part.mem ∈ ps → s.FieldsOk → s.PlacesOk → ∀ a < Config.generalBase, Memory.read u.mem a = Memory.read t.mem a := by
      exact fun h => absurd h (by decide))
    (walker : Part.walker ∈ ps → s.WalkerOk → u.WalkerOk := by exact fun h => absurd h (by decide))
    (alert : Part.alert ∈ ps ∨ Part.port ∈ ps → s.AlertOk → u.AlertOk := by exact fun h => absurd h (by decide)) :
    Keeps s u := by
  have untouched (p q : Part) (hpq : ¬(p ∈ ps ∨ q ∈ ps)) : t.sameAt u p ∧ t.sameAt u q :=
    ⟨h p fun m => hpq (.inl m), h q fun m => hpq (.inr m)⟩
  constructor
  · by_cases m : Part.mem ∈ ps
    · exact memory m
    · exact fun ok => State.MemoryOk.congr (h .mem m) (k.memory ok)
  · by_cases m : Part.links ∈ ps
    · exact links m
    · exact fun ok => State.LinksOk.congr (h .links m) (k.links ok)
  · by_cases m : Part.exposures ∈ ps ∨ Part.slots ∈ ps
    · exact pool m
    · exact fun ok => State.PoolOk.congr (untouched _ _ m).1 (untouched _ _ m).2 (k.pool ok)
  · by_cases m : Part.fields ∈ ps
    · exact fields m
    · exact fun ok => State.FieldsOk.congr (h .fields m) (k.fields ok)
  · by_cases m : Part.deposit ∈ ps ∨ Part.service ∈ ps
    · exact orders m
    · exact fun ok => State.OrdersOk.congr (untouched _ _ m).1 (untouched _ _ m).2 (k.orders ok)
  · by_cases m : Part.deposit ∈ ps ∨ Part.service ∈ ps
    · exact places m
    · exact fun f ok => State.PlacesOk.congr (untouched _ _ m).1 (untouched _ _ m).2 (k.places f ok)
  · intro f p a ha
    rw [← k.block f p a ha]
    by_cases m : Part.mem ∈ ps
    · exact block m f p a ha
    · exact congrArg (Memory.read · a) (h .mem m : u.mem = t.mem)
  · by_cases m : Part.walker ∈ ps
    · exact walker m
    · exact fun ok => State.WalkerOk.congr (h .walker m) (k.walker ok)
  · by_cases m : Part.alert ∈ ps ∨ Part.port ∈ ps
    · exact alert m
    · exact fun ok => State.AlertOk.congr (untouched _ _ m).1 (untouched _ _ m).2 (k.alert ok)

/-! ### Alerts -/

theorem satAdd_le (n k : Nat) : satAdd n k ≤ Config.counterMax := Nat.min_le_right _ _

theorem queueMirror_keeps (off : Nat) (bytes : List Byte) : Keeps s (s.queueMirror off bytes) := (Keeps.refl s).step (queueMirror_touches s off bytes)

theorem mirrorIf_keeps (c : Bool) (off n v : Nat) : Keeps s (s.mirrorIf c off n v) := (Keeps.refl s).step (mirrorIf_touches s c off n v)

/-- An operation within the alert unit that keeps its counts at or below their maximum. -/
theorem Keeps.of_counts (h : Touches [.alert, .mirror, .messages] s t) (ack : s.alert.ackCount ≤ Config.counterMax →
    t.alert.ackCount ≤ Config.counterMax) (mem : (∀ i : Fin 6, s.alert.memErrors[i] ≤ Config.counterMax) →
    ∀ i : Fin 6, t.alert.memErrors[i] ≤ Config.counterMax) : Keeps s t :=
  (Keeps.refl s).step h (alert := fun _ ⟨a, m, g⟩ => ⟨ack a, mem m, by rw [h .port (by decide)]; exact g⟩)

theorem raise_keeps (c : Cause) : Keeps s (s.raise c) :=
  .of_counts (raise_touches s c).mono (by rw [raise_alert]; exact id) (by rw [raise_alert]; exact id)

theorem memError_keeps (src : MemSource) : Keeps s (s.memError src) := by
  refine .of_counts (memError_touches s src) (by rw [memError_alert]; exact id) fun bound i => ?_
  rw [memError_alert]
  show (s.alert.memErrors.set src.idx _)[i] ≤ _
  rw [Fin.getElem_fin, Vector.getElem_set]
  split
  · exact satAdd_le _ _
  · exact bound i

theorem testMark_alert (s : State) : s.testMark.alert.ackCount = s.alert.ackCount ∧ s.testMark.alert.memErrors = s.alert.memErrors := by
  unfold State.testMark
  split
  · simp [raise_alert]
  · exact ⟨rfl, rfl⟩

theorem alertRetirement_counts (s : State) : s.alertRetirement.alert.ackCount = satAdd s.alert.ackCount 1
    ∧ s.alertRetirement.alert.memErrors = s.alert.memErrors := testMark_alert _

theorem alertRetirement_keeps : Keeps s s.alertRetirement := by
  refine .of_counts (alertRetirement_touches s).mono (fun _ => ?_) (by rw [(alertRetirement_counts s).2]; exact id)
  rw [(alertRetirement_counts s).1]
  exact satAdd_le _ _

theorem acknowledge_keeps (named : Causes) : Keeps s (s.acknowledge named) := by
  refine .of_counts (acknowledge_touches s named).mono ?_ ?_ <;> rw [State.acknowledge_eq]
  · show _ → State.countAfterAck named s ≤ _
    unfold State.countAfterAck
    split
    · exact fun _ => Nat.zero_le _
    · exact id
  · exact id

/-! ### The walker and retirement -/

theorem setWalker_keeps {w : Walker} (h : s.WalkerOk → (w.state ≠ .running → w.pollTimer = none) ∧ w.retired < 4294967296) :
    Keeps s (s.setWalker w) :=
  (Keeps.refl s).step (setWalker_touches s w) (walker := fun _ ok => by rw [State.WalkerOk, setWalker_walker]; exact h ok)

theorem faultRecord_keeps (why : FaultReason) (off : Nat) : Keeps s (s.faultRecord why off) := by
  unfold State.faultRecord
  exact Keeps.trans (setWalker_keeps (by exact id)) (raise_keeps _)

theorem chainFault_keeps (why : FaultReason) (off : Nat) : Keeps s (s.chainFault why off) := by
  unfold State.chainFault
  exact Keeps.trans (setWalker_keeps (by exact fun ok => ⟨fun _ => rfl, ok.2⟩)) (faultRecord_keeps _ _)

theorem stopWalker_keeps : Keeps s s.stopWalker := setWalker_keeps fun ok => ⟨fun _ => rfl, ok.2⟩

/-! ### Board memory -/

/-- A change that keeps the invariants, followed by one of board memory alone, in canonical form and outside the progress block. -/
theorem Keeps.mem (k : Keeps s t) {m : List Host.Cell} (wf : Memory.wf t.mem → Memory.wf m)
    (block : s.FieldsOk → s.PlacesOk → ∀ a < Config.generalBase, Memory.read m a = Memory.read t.mem a) :
    Keeps s { t with mem := m } :=
  k.step (touches_mem t m) (memory := fun _ x => wf (k.memory x)) (block := fun _ => block)

theorem Keeps.writeBytes (k : Keeps s t) {off : Nat} (h : s.FieldsOk → s.PlacesOk → Config.generalBase ≤ off) (bytes : List Byte) :
    Keeps s { t with mem := Memory.writeBytes t.mem off bytes } :=
  k.mem (Memory.writeBytes_wf _ _ _) fun f p _ ha =>
    Memory.read_writeBytes_outside _ _ _ _ (.inl (Nat.lt_of_lt_of_le ha (h f p)))

theorem read_recordResults_below {off a : Nat} (h : a < off) (st : Status) (rs : List Nat) (time : Nat) (m : List Host.Cell) :
    Memory.read (recordResults off st rs time m) a = Memory.read m a := by
  unfold recordResults
  dsimp only
  rw [Memory.read_writeBytes_outside, Memory.read_writeBytes_outside, Memory.read_writeBytes_outside,
    Memory.read_writeBytes_outside] <;> omega

/-- R168: a change that keeps the invariants, followed by the retirement of a record outside the progress block. -/
theorem Keeps.retire (k : Keeps s t) {off : Nat} (h : s.FieldsOk → s.PlacesOk → Config.generalBase ≤ off) (st : Status)
    (rs : List Nat) : Keeps s (t.retire off st rs) := by
  unfold State.retire
  refine .ite (fun _ => (k.trans (memError_keeps _)).trans (faultRecord_keeps _ _)) fun _ =>
    .ite (fun _ => ?_) fun _ => k.trans (faultRecord_keeps _ _)
  have written : Keeps s { t with mem := recordResults off st rs t.timeBase t.mem } :=
    k.mem (recordResults_wf _ _ _ _ _) fun f p _ ha => read_recordResults_below (Nat.lt_of_lt_of_le ha (h f p)) _ _ _ _
  exact Keeps.trans (written.trans (setWalker_keeps (by exact fun ok => ⟨ok.1, Nat.mod_lt _ (by decide)⟩))) alertRetirement_keeps

end Sys2Proof.Machine
end

section
/-! The exposure table and the tile pool (R47, R56, R58, R62): what the shared operations make of each place and each slot, and that they
keep table and pool in agreement. -/

-- One theorem at a time: the threads of a parallel elaboration reserve more memory than the check allows.
set_option Elab.async false

namespace Sys2Proof.Machine

variable {s t : State} {tag : Tag}

/-! ### The place of a tag (R47) -/

theorem State.placeOf_some {p : Fin 4} (h : s.placeOf tag = some p) : ∃ e, s.exposures[p] = some e ∧ e.tag = tag := by
  have found := List.find?_some h
  split at found
  · next e he => exact ⟨e, he, of_decide_eq_true found⟩
  · cases found

theorem State.placeOf_none (h : s.placeOf tag = none) {p : Fin 4} {e : ExpEntry} (he : s.exposures[p] = some e) : e.tag ≠ tag := by
  have missed := List.find?_eq_none.mp h p (List.mem_finRange p)
  intro eq
  simp [he, eq] at missed

/-- R47: the tags of the entries present are distinct. -/
abbrev State.TagsDistinct (s : State) : Prop :=
  ∀ (p q : Fin 4) (d e : ExpEntry), s.exposures[p] = some d → s.exposures[q] = some e → d.tag = e.tag → p = q

theorem State.placeOf_eq (h : s.TagsDistinct) {p : Fin 4} {e : ExpEntry} (he : s.exposures[p] = some e) : s.placeOf e.tag = some p := by
  cases hq : s.placeOf e.tag with
  | none => exact absurd rfl (State.placeOf_none hq he)
  | some q =>
    obtain ⟨d, hd, same⟩ := State.placeOf_some hq
    rw [h q p d e hd he same]

theorem State.entryOf_isSome_iff : (s.entryOf tag).isSome = true ↔ ∃ (p : Fin 4) (e : ExpEntry), s.exposures[p] = some e ∧ e.tag = tag := by
  unfold State.entryOf
  constructor
  · intro h
    split at h
    · next p hp =>
      obtain ⟨e, he, same⟩ := State.placeOf_some hp
      exact ⟨p, e, he, same⟩
    · cases h
  · rintro ⟨p, e, he, same⟩
    split
    · next q hq =>
      obtain ⟨d, hd, -⟩ := State.placeOf_some hq
      simp [hd]
    · next hn => exact absurd same (State.placeOf_none hn he)

theorem State.entryOf_some {e : ExpEntry} (h : s.entryOf tag = some e) : ∃ p, s.placeOf tag = some p ∧ s.exposures[p] = some e ∧ e.tag = tag := by
  unfold State.entryOf at h
  split at h
  · next p hp =>
    obtain ⟨d, hd, same⟩ := State.placeOf_some hp
    rw [hd] at h
    cases h
    exact ⟨p, hp, hd, same⟩
  · cases h

theorem State.entryOf_none (h : s.entryOf tag = none) {p : Fin 4} {e : ExpEntry} (he : s.exposures[p] = some e) : e.tag ≠ tag := by
  intro same
  have := State.entryOf_isSome_iff.mpr ⟨p, e, he, same⟩
  simp [h] at this

theorem State.entryOf_eq (h : s.TagsDistinct) {p : Fin 4} {e : ExpEntry} (he : s.exposures[p] = some e) : s.entryOf e.tag = some e := by
  unfold State.entryOf
  rw [State.placeOf_eq h he]
  exact he

/-! ### What an operation makes of each place -/

theorem setPlace_getElem (p q : Fin 4) (new : Option ExpEntry) :
    (s.setPlace p new).exposures[q] = if q = p then new else s.exposures[q] := by
  rw [setPlace_exposures, Fin.getElem_fin, Vector.getElem_set]
  simp only [Fin.val_inj, eq_comm (a := p), Fin.getElem_fin]

/-- An operation on the entry for a tag acts on the place of that entry alone. -/
theorem mapEntry_getElem (h : s.TagsDistinct) (f : ExpEntry → ExpEntry) (p : Fin 4) :
    (s.mapEntry tag f).exposures[p] = (s.exposures[p]).map fun e => if e.tag = tag then f e else e := by
  unfold State.mapEntry
  cases hq : s.placeOf tag with
  | none =>
    cases he : s.exposures[p] with
    | none => rfl
    | some e => simp [State.placeOf_none hq he]
  | some q =>
    obtain ⟨d, hd, same⟩ := State.placeOf_some hq
    simp only [hd]
    rw [setPlace_getElem]
    split
    · next eq => simp [eq, hd, same]
    · next ne =>
      cases he : s.exposures[p] with
      | none => rfl
      | some e =>
        have other : e.tag ≠ tag := fun eq => ne (h p q e d he hd (eq.trans same.symm))
        simp [other]

/-- R56: what the removal check asks of an entry. -/
abbrev ExpEntry.Removable (e : ExpEntry) : Prop := (e.state = .assembled ∧ e.held = 0) ∨ e.state = .discarded

/-- R56: the removal check of a tag removes its entry where that is to go, and leaves every other place. -/
theorem removalCheck_getElem (h : s.TagsDistinct) (p : Fin 4) :
    (s.removalCheck tag).exposures[p] = (s.exposures[p]).filter fun e => !decide (e.tag = tag ∧ e.Removable) := by
  unfold State.removalCheck
  cases hq : s.placeOf tag with
  | none =>
    cases he : s.exposures[p] with
    | none => rfl
    | some e => rw [Option.filter_some, if_pos (by simp [State.placeOf_none hq he])]
  | some q =>
    obtain ⟨d, hd, same⟩ := State.placeOf_some hq
    simp only [hd]
    by_cases eq : p = q
    · subst eq
      split
      · next gone => rw [setPlace_getElem, hd, Option.filter_some]; simp [same, gone]
      · next stays => rw [hd, Option.filter_some]; simp [same, stays]
    · have kept : (s.exposures[p]).filter (fun e => !decide (e.tag = tag ∧ e.Removable)) = s.exposures[p] := by
        cases he : s.exposures[p] with
        | none => rfl
        | some e =>
          have other : e.tag ≠ tag := fun e' => eq (h p q e d he hd (e'.trans same.symm))
          simp [other]
      rw [kept]
      split
      · rw [setPlace_getElem, if_neg eq]
      · rfl

/-! ### The slots that name a tag -/

theorem setSlot_getElem (n m : SlotNo) (new : Option Slot) : (s.setSlot n new).slots[m] = if m = n then new else s.slots[m] := by
  rw [setSlot_slots, Fin.getElem_fin, Vector.getElem_set]
  simp only [Fin.val_inj, eq_comm (a := n), Fin.getElem_fin]

/-- A slot is not FREE and names the tag. -/
def namesTag (tag : Tag) : Option Slot → Bool
  | some sl => decide (sl.tag = tag)
  | none => false

theorem State.slotsNaming_eq (s : State) (tag : Tag) : s.slotsNaming tag = s.slots.toList.countP (namesTag tag) := rfl

/-- One slot replaced moves the number of slots that name a tag by that slot alone. -/
theorem slotsNaming_setSlot (n : SlotNo) (new : Option Slot) : (s.setSlot n new).slotsNaming tag + (namesTag tag s.slots[n]).toNat
    = s.slotsNaming tag + (namesTag tag new).toNat := by
  have here : n.val < s.slots.toList.length := by simp
  have counted : (namesTag tag s.slots[n]).toNat ≤ s.slots.toList.countP (namesTag tag) := by
    cases h : namesTag tag s.slots[n] with
    | false => exact Nat.zero_le _
    | true => exact List.countP_pos_iff.mpr ⟨_, List.getElem_mem here, by simpa using h⟩
  have toNat (b : Bool) : (if b = true then 1 else 0) = b.toNat := by cases b <;> rfl
  simp only [State.slotsNaming_eq, setSlot_slots, Vector.toList_set, List.countP_set here, Vector.getElem_toList, toNat]
  simp only [Fin.getElem_fin] at counted ⊢
  omega

theorem slotsNaming_pos {n : SlotNo} {sl : Slot} (h : s.slots[n] = some sl) : 0 < s.slotsNaming sl.tag :=
  List.countP_pos_iff.mpr ⟨some sl, by rw [← h]; simp [Fin.getElem_fin], by simp⟩

theorem slotsNaming_eq_zero (h : ∀ (n : SlotNo) (sl : Slot), s.slots[n] = some sl → sl.tag ≠ tag) : s.slotsNaming tag = 0 := by
  refine List.countP_eq_zero.mpr fun x hx => ?_
  obtain ⟨i, hi, rfl⟩ := List.mem_iff_getElem.mp hx
  simp only [Vector.getElem_toList]
  simp only [Vector.length_toList] at hi
  cases e : s.slots[i] with
  | none => simp
  | some sl => simpa using h ⟨i, hi⟩ sl e

theorem slotsNaming_congr (h : t.slots = s.slots) (tag : Tag) : t.slotsNaming tag = s.slotsNaming tag := by
  rw [State.slotsNaming, State.slotsNaming, h]

end Sys2Proof.Machine
end

section
/-! The exposure table and the tile pool agree (R47, R56, R58, R62), and the operations over them keep it so. -/

-- One theorem at a time: the threads of a parallel elaboration reserve more memory than the check allows.
set_option Elab.async false

namespace Sys2Proof.Machine

variable {s t u : State} {tag : Tag}

/-! ### The agreement, place by place and slot by slot -/

/-- R62: the rows stored ascend below the expected rows. -/
def Slot.RowsOk (sl : Slot) : Prop := sl.rows.Pairwise (· < ·) ∧ ∀ r ∈ sl.rows, r < sl.expected

/-- R58: no exposure and segment hold more than one slot that is FILLING or COMPLETE, and the rows stored ascend. -/
structure SlotsGood (slots : Vector (Option Slot) 128) : Prop where
  rows : ∀ (n : SlotNo) (sl : Slot), slots[n] = some sl → sl.RowsOk
  single : ∀ (m n : SlotNo) (x y : Slot), slots[m] = some x → slots[n] = some y →
    x.tag = y.tag → x.seg = y.seg → x.state ≠ .late → y.state ≠ .late → m = n

/-- The agreement of table and pool but for one tag, whose entry may be one that the removal check is to remove (R56). -/
structure State.PoolBut (s : State) (tag : Tag) : Prop where
  distinct : s.TagsDistinct
  held : ∀ (p : Fin 4) (e : ExpEntry), s.exposures[p] = some e → e.held = s.slotsNaming e.tag
  stays : ∀ (p : Fin 4) (e : ExpEntry), s.exposures[p] = some e → e.tag ≠ tag → ¬e.Removable
  discarded : ∀ (p : Fin 4) (e : ExpEntry), s.exposures[p] = some e → e.state = .discarded → e.held = 0
  present : ∀ (n : SlotNo) (sl : Slot), s.slots[n] = some sl → ∃ (p : Fin 4) (e : ExpEntry), s.exposures[p] = some e ∧ e.tag = sl.tag
  slots : SlotsGood s.slots

theorem ExpEntry.not_removable_iff (e : ExpEntry) : ¬e.Removable ↔ e.state ≠ .discarded ∧ (e.state = .assembled → 0 < e.held) := by
  unfold ExpEntry.Removable
  rw [not_or, not_and, Nat.pos_iff_ne_zero, and_comm]

theorem State.PoolBut.ok (h : s.PoolBut tag) (stays : ∀ (p : Fin 4) (e : ExpEntry), s.exposures[p] = some e → e.tag = tag → ¬e.Removable) :
    s.PoolOk := by
  refine ⟨⟨h.distinct, fun p e he => ⟨h.held p e he, (ExpEntry.not_removable_iff e).mp ?_⟩⟩, fun n sl hs => ⟨?_, h.slots.rows n sl hs⟩,
    h.slots.single⟩
  · by_cases same : e.tag = tag
    · exact stays p e he same
    · exact h.stays p e he same
  · exact State.entryOf_isSome_iff.mpr (h.present n sl hs)

theorem State.PoolOk.distinct (h : s.PoolOk) : s.TagsDistinct := h.1.1

theorem State.PoolOk.not_removable (h : s.PoolOk) {p : Fin 4} {e : ExpEntry} (he : s.exposures[p] = some e) : ¬e.Removable :=
  (ExpEntry.not_removable_iff e).mpr (h.1.2 p e he).2

theorem State.PoolOk.held (h : s.PoolOk) {p : Fin 4} {e : ExpEntry} (he : s.exposures[p] = some e) : e.held = s.slotsNaming e.tag :=
  (h.1.2 p e he).1

theorem State.PoolOk.present (h : s.PoolOk) {n : SlotNo} {sl : Slot} (hs : s.slots[n] = some sl) :
    ∃ (p : Fin 4) (e : ExpEntry), s.exposures[p] = some e ∧ e.tag = sl.tag := State.entryOf_isSome_iff.mp (h.2.1 n sl hs).1

theorem State.PoolOk.slots (h : s.PoolOk) : SlotsGood s.slots := ⟨fun n sl hs => (h.2.1 n sl hs).2, h.2.2⟩

theorem State.PoolOk.but (h : s.PoolOk) (tag : Tag) : s.PoolBut tag where
  distinct := h.distinct
  held _ _ he := h.held he
  stays _ _ he _ := h.not_removable he
  discarded _ _ he d := absurd (.inr d) (h.not_removable he)
  present _ _ hs := h.present hs
  slots := h.slots

/-! ### The entry of one tag -/

/-- R56: the removal check brings table and pool back into agreement. -/
theorem State.PoolBut.removalCheck (h : s.PoolBut tag) : (s.removalCheck tag).PoolOk := by
  have slots : (s.removalCheck tag).slots = s.slots := removalCheck_touches s tag .slots (by decide)
  have entry {p : Fin 4} {e : ExpEntry} (he : (s.removalCheck tag).exposures[p] = some e) :
      s.exposures[p] = some e ∧ ¬(e.tag = tag ∧ e.Removable) := by
    rw [removalCheck_getElem h.distinct, Option.filter_eq_some_iff] at he
    refine ⟨he.1, fun gone => ?_⟩
    rw [decide_eq_true gone] at he
    exact absurd he.2 Bool.false_ne_true
  refine State.PoolBut.ok (tag := tag) ⟨fun p q d e hd he => h.distinct p q d e (entry hd).1 (entry he).1, fun p e he => ?_,
    fun p e he => h.stays p e (entry he).1, fun p e he => h.discarded p e (entry he).1, fun n sl hs => ?_, slots ▸ h.slots⟩
    fun p e he same gone => (entry he).2 ⟨same, gone⟩
  · rw [slotsNaming_congr slots]
    exact h.held p e (entry he).1
  · rw [slots] at hs
    obtain ⟨p, e, he, same⟩ := h.present n sl hs
    refine ⟨p, e, ?_, same⟩
    have some_held : 0 < e.held := by rw [h.held p e he, same]; exact slotsNaming_pos hs
    have kept : ¬e.Removable := by
      rintro (⟨-, none_held⟩ | d)
      · omega
      · have := h.discarded p e he d
        omega
    rw [removalCheck_getElem h.distinct, he, Option.filter_some]
    simp only [kept, and_false, decide_false, Bool.not_false, if_true]

/-- The entry of a tag changed by an operation that keeps its tag: what is left to show of that entry is the slots it holds. -/
theorem mapEntry_poolBut (h : u.TagsDistinct) {f : ExpEntry → ExpEntry} (keeps_tag : ∀ e, (f e).tag = e.tag)
    (other : ∀ (p : Fin 4) (e : ExpEntry), u.exposures[p] = some e → e.tag ≠ tag → e.held = u.slotsNaming e.tag ∧ ¬e.Removable)
    (mine : ∀ (p : Fin 4) (e : ExpEntry), u.exposures[p] = some e → e.tag = tag →
      (f e).held = u.slotsNaming tag ∧ ((f e).state = .discarded → (f e).held = 0))
    (present : ∀ (n : SlotNo) (sl : Slot), u.slots[n] = some sl → ∃ (p : Fin 4) (e : ExpEntry), u.exposures[p] = some e ∧ e.tag = sl.tag)
    (slots : SlotsGood u.slots) : (u.mapEntry tag f).PoolBut tag := by
  have same_slots : (u.mapEntry tag f).slots = u.slots := mapEntry_touches u tag f .slots (by decide)
  have entry {p : Fin 4} {e : ExpEntry} (he : (u.mapEntry tag f).exposures[p] = some e) :
      ∃ d, u.exposures[p] = some d ∧ e.tag = d.tag ∧ e = if d.tag = tag then f d else d := by
    rw [mapEntry_getElem h] at he
    obtain ⟨d, hd, rfl⟩ := Option.map_eq_some_iff.mp he
    refine ⟨d, hd, ?_, rfl⟩
    split
    · exact keeps_tag d
    · rfl
  constructor
  · intro p q d e hd he same
    obtain ⟨d', hd', td, -⟩ := entry hd
    obtain ⟨e', he', te, -⟩ := entry he
    exact h p q d' e' hd' he' (td.symm.trans (same.trans te))
  · intro p e he
    obtain ⟨d, hd, td, rfl⟩ := entry he
    rw [slotsNaming_congr same_slots, td]
    split
    · next eq => rw [(mine p d hd eq).1, eq]
    · next ne => exact (other p d hd ne).1
  · intro p e he ne
    obtain ⟨d, hd, td, rfl⟩ := entry he
    rw [td] at ne
    rw [if_neg ne]
    exact (other p d hd ne).2
  · intro p e he gone
    obtain ⟨d, hd, td, rfl⟩ := entry he
    split at gone
    · next eq => rw [if_pos eq]; exact (mine p d hd eq).2 gone
    · next ne => exact absurd (.inr gone) (other p d hd ne).2
  · intro n sl hs
    rw [same_slots] at hs
    obtain ⟨p, e, he, same⟩ := present n sl hs
    refine ⟨p, _, (mapEntry_getElem h f p).trans (congrArg _ he), ?_⟩
    dsimp only
    split
    · exact (keeps_tag e).trans same
    · exact same
  · rw [same_slots]
    exact slots

/-- An operation on one entry that keeps its tag and its slots held, and makes it none that is to be removed. -/
theorem State.PoolOk.mapEntry (h : s.PoolOk) {f : ExpEntry → ExpEntry} (keeps_tag : ∀ e, (f e).tag = e.tag)
    (keeps_held : ∀ e, (f e).held = e.held) (keeps : ∀ e, ¬e.Removable → ¬(f e).Removable) : (s.mapEntry tag f).PoolOk := by
  refine State.PoolBut.ok (mapEntry_poolBut (tag := tag) h.distinct keeps_tag (fun p e he _ => ⟨h.held he, h.not_removable he⟩)
    (fun p e he same => ⟨by rw [keeps_held, h.held he, same], fun d => absurd (.inr d) (keeps e (h.not_removable he))⟩)
    (fun n sl hs => h.present hs) h.slots) fun p e he _ => ?_
  rw [mapEntry_getElem h.distinct] at he
  obtain ⟨d, hd, rfl⟩ := Option.map_eq_some_iff.mp he
  have kept := h.not_removable hd
  split
  · exact keeps d kept
  · exact kept

/-- R56, R140: an entry becomes ASSEMBLED, and is removed if it holds no slot. -/
theorem State.PoolOk.assembled (h : s.PoolOk) : ((s.mapEntry tag fun e => { e with state := .assembled }).removalCheck tag).PoolOk :=
  (mapEntry_poolBut (f := fun e => { e with state := .assembled }) h.distinct (fun _ => rfl)
    (fun _ _ he _ => ⟨h.held he, h.not_removable he⟩) (fun _ _ he same => ⟨(h.held he).trans (same ▸ rfl), fun d => nomatch d⟩) (fun _ _ hs => h.present hs) h.slots).removalCheck

/-- R67, step 2: an entry that no slot names becomes DISCARDED and is removed. -/
theorem State.PoolOk.discarded (h : s.PoolOk) (freed : ∀ (n : SlotNo) (sl : Slot), s.slots[n] = some sl → sl.tag ≠ tag) :
    ((s.mapEntry tag fun e => { e with state := .discarded }).removalCheck tag).PoolOk :=
  (mapEntry_poolBut (f := fun e => { e with state := .discarded }) h.distinct (fun _ => rfl)
    (fun _ _ he _ => ⟨h.held he, h.not_removable he⟩) (fun _ _ he same => ⟨(h.held he).trans (same ▸ rfl), fun _ => (h.held he).trans (same ▸ slotsNaming_eq_zero freed)⟩)
    (fun _ _ hs => h.present hs) h.slots).removalCheck

/-! ### One slot -/

/-- A slot replaced keeps the pool good when its rows ascend and no other slot of its exposure and segment is FILLING or COMPLETE beside
it. -/
theorem SlotsGood.setSlot (h : SlotsGood s.slots) {n : SlotNo} {new : Option Slot} (rows : ∀ sl, new = some sl → sl.RowsOk)
    (single : ∀ sl, new = some sl → sl.state ≠ .late → ∀ (m : SlotNo) (y : Slot), m ≠ n → s.slots[m] = some y → y.tag = sl.tag →
      y.seg = sl.seg → y.state = .late) : SlotsGood (s.setSlot n new).slots := by
  constructor
  · intro m sl hs
    rw [setSlot_getElem] at hs
    split at hs
    · exact rows sl hs
    · exact h.rows m sl hs
  · intro m k x y hx hy tags segs lx ly
    rw [setSlot_getElem] at hx hy
    split at hx <;> split at hy
    · next em ek => exact em.trans ek.symm
    · next em ek => exact absurd (single x hx lx k y ek hy tags.symm segs.symm) ly
    · next em ek => exact absurd (single y hy ly m x em hx tags segs) lx
    · exact h.single m k x y hx hy tags segs lx ly

theorem SlotsGood.free (h : SlotsGood s.slots) (n : SlotNo) : SlotsGood (s.setSlot n none).slots :=
  h.setSlot (fun _ e => nomatch e) (fun _ e => nomatch e)

theorem setSlot_exposures (s : State) (n : SlotNo) (new : Option Slot) : (s.setSlot n new).exposures = s.exposures :=
  setSlot_touches s n new .exposures (by decide)

/-- A slot changed in place keeps its exposure and segment, and does not leave LATE. -/
theorem State.PoolOk.setSlot (h : s.PoolOk) {n : SlotNo} {old new : Slot} (here : s.slots[n] = some old) (tags : new.tag = old.tag)
    (segs : new.seg = old.seg) (late : old.state = .late → new.state = .late) (rows : new.RowsOk) : (s.setSlot n (some new)).PoolOk := by
  have counts (t : Tag) : (s.setSlot n (some new)).slotsNaming t = s.slotsNaming t := by
    have moved := slotsNaming_setSlot (s := s) (tag := t) n (some new)
    simp only [here, namesTag, tags] at moved
    omega
  refine State.PoolBut.ok (tag := new.tag) ?_ fun p e he _ => h.not_removable (by rwa [setSlot_exposures] at he)
  constructor
  · simpa only [State.TagsDistinct, setSlot_exposures] using h.distinct
  · simpa only [setSlot_exposures, counts] using fun p e he => h.held he
  · simpa only [setSlot_exposures] using fun p e he _ => h.not_removable he
  · simpa only [setSlot_exposures] using fun p e he d => absurd (.inr d) (h.not_removable he)
  · intro m sl hs
    rw [setSlot_getElem] at hs
    rw [setSlot_exposures]
    split at hs
    · cases hs
      rw [tags]
      exact h.present here
    · exact h.present hs
  · refine h.slots.setSlot (fun sl e => by cases e; exact rows) fun sl e l m y ne hy ty gy => ?_
    cases e
    by_contra ly
    exact ne (h.slots.single m n y old hy here (ty.trans tags) (gy.trans segs) ly fun lo => l (late lo))

/-- R66: freeing a slot keeps table and pool in agreement: its entry holds one slot less, and goes where none is left of an ASSEMBLED
one. -/
theorem State.PoolOk.freeSlotAs (h : s.PoolOk) (why : FreeReason) (n : SlotNo) : (s.freeSlotAs why n).PoolOk := by
  unfold State.freeSlotAs
  split
  · exact h
  next sl here =>
  refine (mapEntry_poolBut (u := (s.queueMirror _ _).setSlot n none) (f := fun e => { e with held := e.held - 1 }) ?_ (fun _ => rfl)
    ?_ ?_ ?_ (SlotsGood.free (s := s.queueMirror _ _) h.slots n)).removalCheck
  all_goals try simp only [setSlot_exposures, State.queueMirror_exposures]
  · simpa only [State.TagsDistinct, setSlot_exposures, State.queueMirror_exposures] using h.distinct
  · intro p e he ne
    refine ⟨?_, h.not_removable he⟩
    have moved := slotsNaming_setSlot (s := s.queueMirror (reportOff sl.seg) (reportBytes why sl)) (tag := e.tag) n none
    simp only [State.queueMirror_slots, here, namesTag, decide_eq_false ne.symm, Bool.toNat_false, Nat.add_zero] at moved
    rw [moved]
    exact h.held he
  · intro p e he same
    have moved := slotsNaming_setSlot (s := s.queueMirror (reportOff sl.seg) (reportBytes why sl)) (tag := sl.tag) n none
    simp only [State.queueMirror_slots, here, namesTag, decide_true, Bool.toNat_true, Bool.toNat_false, Nat.add_zero] at moved
    have : e.held = s.slotsNaming sl.tag := same ▸ h.held he
    have : (s.queueMirror (reportOff sl.seg) (reportBytes why sl)).slotsNaming sl.tag = s.slotsNaming sl.tag := rfl
    exact ⟨by omega, fun d => absurd (.inr d) (h.not_removable he)⟩
  · intro m y hs
    rw [setSlot_getElem] at hs
    split at hs
    · cases hs
    · exact h.present hs

/-- R59: a slot is taken for a segment that holds none FILLING or COMPLETE: its entry, which is present, holds one slot more. -/
theorem State.PoolOk.takeSlot (h : s.PoolOk) {n : SlotNo} {new : Slot} (here : s.slots[n] = none) (rows : new.RowsOk)
    (entry : (s.entryOf new.tag).isSome = true)
    (single : ∀ (m : SlotNo) (y : Slot), s.slots[m] = some y → y.tag = new.tag → y.seg = new.seg → y.state = .late) :
    ((s.setSlot n (some new)).mapEntry new.tag fun e => { e with held := e.held + 1 }).PoolOk := by
  have distinct : (s.setSlot n (some new)).TagsDistinct := by
    simpa only [State.TagsDistinct, setSlot_exposures] using h.distinct
  have counts (t : Tag) : (s.setSlot n (some new)).slotsNaming t = s.slotsNaming t + (decide (new.tag = t)).toNat := by
    have moved := slotsNaming_setSlot (s := s) (tag := t) n (some new)
    simpa only [here, namesTag, Bool.toNat_false, Nat.add_zero] using moved
  refine State.PoolBut.ok (mapEntry_poolBut (f := fun e => { e with held := e.held + 1 }) distinct (fun _ => rfl) ?_ ?_ ?_ ?_) fun p e he same => ?_
  all_goals try simp only [setSlot_exposures]
  · intro p e he ne
    rw [counts, decide_eq_false ne.symm]
    exact ⟨h.held he, h.not_removable he⟩
  · intro p e he same
    rw [counts, decide_eq_true rfl, ← same]
    exact ⟨by rw [h.held he]; rfl, fun d => absurd (.inr d) (h.not_removable he)⟩
  · intro m y hs
    rw [setSlot_getElem] at hs
    split at hs
    · cases hs
      exact State.entryOf_isSome_iff.mp entry
    · exact h.present hs
  · exact h.slots.setSlot (fun sl e => by cases e; exact rows) fun sl e _ m y _ hy ty gy => by cases e; exact single m y hy ty gy
  · rw [mapEntry_getElem distinct, setSlot_exposures] at he
    obtain ⟨d, hd, rfl⟩ := Option.map_eq_some_iff.mp he
    have kept := h.not_removable hd
    split
    · exact fun gone => gone.elim (fun a => absurd a.2 (Nat.succ_ne_zero _)) fun d => kept (.inr d)
    · exact kept

/-! ### A new entry and an emptied table -/

theorem setPlace_slots (s : State) (p : Fin 4) (new : Option ExpEntry) : (s.setPlace p new).slots = s.slots :=
  setPlace_touches s p new .slots (by decide)

/-- R49: a free place takes a new entry, for a tag that has none. -/
theorem State.PoolOk.openPlace (h : s.PoolOk) {p : Fin 4} (l : LinkNo) (free : s.exposures[p] = none) (absent : s.entryOf tag = none) :
    (s.setPlace p (some (newEntry l tag))).PoolOk := by
  have entry {q : Fin 4} {e : ExpEntry} (he : (s.setPlace p (some (newEntry l tag))).exposures[q] = some e) :
      (q = p ∧ e = newEntry l tag) ∨ (s.exposures[q] = some e ∧ e.tag ≠ tag) := by
    rw [setPlace_getElem] at he
    split at he
    · next eq => cases he; exact .inl ⟨eq, rfl⟩
    · exact .inr ⟨he, State.entryOf_none absent he⟩
  have none_held : s.slotsNaming tag = 0 := slotsNaming_eq_zero fun n sl hs same => by
    obtain ⟨q, e, he, te⟩ := h.present hs
    exact State.entryOf_none absent he (te.trans same)
  refine State.PoolBut.ok (tag := tag) ?_ fun q e he _ => ?_
  · constructor
    · intro q r d e hd he same
      rcases entry hd with ⟨rfl, rfl⟩ | ⟨hd, nd⟩ <;> rcases entry he with ⟨rfl, rfl⟩ | ⟨he, ne⟩
      · rfl
      · exact absurd same.symm ne
      · exact absurd same nd
      · exact h.distinct q r d e hd he same
    · intro q e he
      rw [slotsNaming_congr (setPlace_slots s p _)]
      rcases entry he with ⟨-, rfl⟩ | ⟨he, -⟩
      · exact none_held.symm
      · exact h.held he
    · intro q e he ne
      rcases entry he with ⟨-, rfl⟩ | ⟨he, -⟩
      · exact absurd rfl ne
      · exact h.not_removable he
    · intro q e he d
      rcases entry he with ⟨-, rfl⟩ | ⟨he, -⟩
      · cases d
      · exact absurd (.inr d) (h.not_removable he)
    · intro n sl hs
      rw [setPlace_slots] at hs
      obtain ⟨q, e, he, te⟩ := h.present hs
      refine ⟨q, e, ?_, te⟩
      rw [setPlace_getElem, if_neg fun eq => by rw [eq, free] at he; cases he]
      exact he
    · rw [setPlace_slots]
      exact h.slots
  · rcases entry he with ⟨-, rfl⟩ | ⟨he, -⟩
    · exact fun gone => gone.elim (fun a => nomatch a.1) fun d => nomatch d
    · exact h.not_removable he

/-- R69: with no entry and every slot FREE there is nothing to disagree. -/
theorem State.PoolOk.of_empty (he : s.exposures = Vector.replicate 4 none) (hs : s.slots = Vector.replicate 128 none) : s.PoolOk := by
  have no_entry (p : Fin 4) : s.exposures[p] = none := by rw [he]; simp
  have no_slot (n : SlotNo) : s.slots[n] = none := by rw [hs]; simp
  refine ⟨⟨?_, ?_⟩, ?_, ?_⟩ <;> simp [no_entry, no_slot]

end Sys2Proof.Machine
end

section
/-! The sky canvas and the deposit unit keep every invariant (chapters 7 and 8). -/

-- One theorem at a time: the threads of a parallel elaboration reserve more memory than the check allows.
set_option Elab.async false

namespace Sys2Proof.Machine

variable {s t u : State}

/-! ### Entries and slots -/

/-- A change that keeps the invariants, followed by an operation on entries and slots after which table and pool agree. -/
theorem Keeps.pool_step (k : Keeps s t) (h : Touches [.exposures, .slots, .mirror] t u) (pool : s.PoolOk → u.PoolOk) : Keeps s u :=
  k.step h (pool := fun _ => pool)

/-- An operation on entries and slots that keeps table and pool in agreement. -/
theorem Keeps.of_pool (h : Touches [.exposures, .slots, .mirror] s t) (pool : s.PoolOk → t.PoolOk) : Keeps s t :=
  (Keeps.refl s).pool_step h pool

theorem mapEntry_keeps {tag : Tag} {f : ExpEntry → ExpEntry} (keeps_tag : ∀ e, (f e).tag = e.tag) (keeps_held : ∀ e, (f e).held = e.held)
    (keeps : ∀ e, ¬e.Removable → ¬(f e).Removable) : Keeps s (s.mapEntry tag f) :=
  .of_pool (mapEntry_touches s tag f).mono fun h => h.mapEntry keeps_tag keeps_held keeps

/-- An entry whose state stays, or becomes one that is not to be removed. -/
theorem ExpEntry.not_removable_of_state {e d : ExpEntry} (held : d.held = e.held) (state : d.state = e.state ∨ d.state ≠ .assembled ∧ d.state ≠ .discarded)
    (h : ¬e.Removable) : ¬d.Removable := by
  rcases state with same | ⟨a, g⟩
  · rwa [ExpEntry.Removable, same, held]
  · exact fun gone => gone.elim (fun x => a x.1) g

theorem settle_keeps (tag : Tag) (seg : SegNo) (out : SegOutcome) : Keeps s (s.settle tag seg out) :=
  mapEntry_keeps (by exact fun _ => rfl) (by exact fun _ => rfl) (by exact fun _ h => h)

theorem freeSlotAs_keeps (why : FreeReason) (n : SlotNo) : Keeps s (s.freeSlotAs why n) :=
  .of_pool (freeSlotAs_touches s why n) fun h => h.freeSlotAs why n

theorem setSlot_keeps {n : SlotNo} {old new : Slot} (here : s.slots[n] = some old) (tags : new.tag = old.tag) (segs : new.seg = old.seg)
    (late : old.state = .late → new.state = .late) (rows : old.RowsOk → new.RowsOk) : Keeps s (s.setSlot n (some new)) :=
  .of_pool (setSlot_touches s n _).mono fun h => h.setSlot here tags segs late (rows (h.slots.rows n old here))

theorem requestLate_keeps (n : SlotNo) (tag : Tag) (seg : SegNo) : Keeps s (s.requestLate n tag seg) := by
  unfold State.requestLate
  split
  · next sl here => exact .ite (fun _ => setSlot_keeps here rfl rfl (fun _ => rfl) id) fun _ => .refl s
  · exact .refl s

theorem setCursor_keeps (n : SlotNo) (k : Nat) : Keeps s (s.setCursor n k) := by
  unfold State.setCursor
  split
  · next sl here => exact setSlot_keeps here rfl rfl id id
  · exact .refl s

/-! ### The order the unit holds -/

/-- The unit holds another order, or none: an order it then holds has its record outside the progress block, and no service order names its
field. -/
theorem setDeposit_keeps {d : DepositUnit} (h : ∀ o', ({ s with deposit := d } : State).assembly = some o' →
    (s.FieldsOk → s.PlacesOk → Config.generalBase ≤ o'.record)
      ∧ (s.OrdersOk → ∀ x, s.service = some x → x.field? ≠ some o'.field.val)) : Keeps s { s with deposit := d } :=
  (Keeps.refl s).step (touches_deposit s d) (orders := fun _ ok o' x held service => (h o' held).2 ok x service)
    (places := fun _ fields ok => ⟨fun o' held => (h o' held).1 fields ok, ok.2⟩)

theorem idle_keeps : Keeps s { s with deposit := .idle } := setDeposit_keeps fun _ h => nomatch h

theorem mapServing_keeps {g : Assembly → Assembly} (record : ∀ o, (g o).record = o.record) (field : ∀ o, (g o).field = o.field) :
    Keeps s (s.mapServing g) := by
  unfold State.mapServing
  split
  · next o serving =>
    have held : s.assembly = some o := by rw [State.assembly, serving]
    refine setDeposit_keeps fun o' h => ?_
    cases h
    rw [record, field]
    exact ⟨fun _ ok => ok.1 o held, fun ok x => ok o x held⟩
  · exact .refl s

theorem mapResults_keeps (g : Results → Results) : Keeps s (s.mapResults g) :=
  mapServing_keeps (by exact fun _ => rfl) (by exact fun _ => rfl)

/-- The order in flight has its record outside the progress block. -/
theorem State.PlacesOk.serving {o : Assembly} (h : s.deposit = .serving o) (_ : s.FieldsOk) (ok : s.PlacesOk) :
    Config.generalBase ≤ o.record := ok.1 o (by rw [State.assembly, h])

theorem State.PlacesOk.waiting {o : Assembly} (h : s.deposit = .waiting o) (_ : s.FieldsOk) (ok : s.PlacesOk) :
    Config.generalBase ≤ o.record := ok.1 o (by rw [State.assembly, h])

/-! ### Settling, finishing and the end of an ASSEMBLE -/

theorem settleMissing_keeps (tag : Tag) (seg : SegNo) : Keeps s (s.settleMissing tag seg) :=
  (settle_keeps _ _ _).trans (mapResults_keeps _)

theorem makeLate_keeps (n : SlotNo) (seg : SegNo) : Keeps s (s.makeLate n seg) := by
  unfold State.makeLate
  split
  · dsimp only
    split
    · refine .ite (fun _ => ?_) fun _ => requestLate_keeps _ _ _
      exact (((requestLate_keeps _ _ _).trans (settle_keeps _ _ _)).trans (mapResults_keeps _)).trans
        (mapServing_keeps (by exact fun _ => rfl) (by exact fun _ => rfl))
    · exact requestLate_keeps _ _ _
  · exact .refl s

theorem examineSlot_keeps (n : SlotNo) : Keeps s (s.examineSlot n) := by
  unfold State.examineSlot
  split
  · split
    · refine .ite (fun _ => ?_) fun _ => .refl s
      split
      · exact .ite (fun _ => ((settleMissing_keeps _ _).trans (mapResults_keeps _)).trans (freeSlotAs_keeps _ _)) fun _ =>
          .ite (fun _ => makeLate_keeps _ _) fun _ => .refl s
      · exact .refl s
    · exact .refl s
  · exact .refl s

theorem finishTest_keeps (n : SlotNo) : Keeps s (s.finishTest n) := by
  unfold State.finishTest
  split
  · split
    · refine .ite (fun _ => ?_) fun _ => .refl s
      exact (((settle_keeps _ _ _).trans (mapResults_keeps _)).trans (freeSlotAs_keeps _ _)).trans
        (mapServing_keeps (by exact fun _ => rfl) (by exact fun _ => rfl))
    · exact .refl s
  · exact .refl s

theorem endAssembly_keeps {o : Assembly} (h : s.deposit = .serving o) : Keeps s (s.endAssembly o) := by
  have settled : Keeps s ((s.mapEntry o.tag fun e => { e with state := .assembled }).removalCheck o.tag) :=
    .of_pool (((mapEntry_touches s _ _).trans (removalCheck_touches _ _)).mono) fun ok => ok.assembled
  exact (settled.trans idle_keeps).retire (State.PlacesOk.serving h) _ _

theorem endTest_keeps : Keeps s s.endTest := by
  unfold State.endTest
  split
  · next o serving => exact .ite (fun _ => .refl s) fun _ => endAssembly_keeps serving
  · exact .refl s

theorem chooseTile_keeps (fuel : Nat) : Keeps s (s.chooseTile fuel) := by
  induction fuel generalizing s with
  | zero => exact .refl s
  | succ fuel ih =>
    have set (seg : SegNo) : Keeps s (s.mapServing fun o => { o with current := some seg }) :=
      mapServing_keeps (by exact fun _ => rfl) (by exact fun _ => rfl)
    unfold State.chooseTile
    split
    · refine .ite (fun _ => ?_) fun _ => .refl s
      split
      · dsimp only
        split
        · exact ((set _).trans (finishTest_keeps _)).trans ih
        · exact set _
      · exact .refl s
    · exact .refl s

theorem choose_keeps : Keeps s s.choose := chooseTile_keeps 65

/-! ### What table and pool tell the unit -/

theorem tellTaken_keeps (n : SlotNo) : Keeps s (s.tellTaken n) := by
  unfold State.tellTaken
  split
  · split
    · exact .ite (fun _ => (examineSlot_keeps n).trans endTest_keeps) fun _ => .refl s
    · exact .refl s
  · exact .refl s

theorem tellComplete_keeps (tag : Tag) (ns : List SlotNo) : Keeps s (s.tellComplete tag ns) := by
  unfold State.tellComplete
  split
  · exact .ite (fun _ => ((Keeps.foldl _ (fun _ n => finishTest_keeps n) ns s).trans choose_keeps).trans endTest_keeps) fun _ => .refl s
  · exact .refl s

theorem settleUnbegun_keeps (o : Assembly) : Keeps s (s.settleUnbegun o) :=
  Keeps.foldl _ (fun t _ => .ite (fun _ => settleMissing_keeps _ _) fun _ => .refl t) _ s

theorem tellClosed_keeps (tag : Tag) : Keeps s (s.tellClosed tag) := by
  unfold State.tellClosed
  split
  · exact .ite (fun _ => ((settleUnbegun_keeps _).trans choose_keeps).trans endTest_keeps) fun _ => .refl s
  · exact .refl s

theorem bindSegment_keeps (c : Bool) (o : Assembly) (seg : SegNo) : Keeps s (State.bindSegment c o s seg) := by
  unfold State.bindSegment
  refine .ite (fun _ => ?_) fun _ => .refl s
  split
  · exact (examineSlot_keeps _).trans (finishTest_keeps _)
  · exact .ite (fun _ => settleMissing_keeps _ _) fun _ => .refl s

/-- R129: an order is bound whose record lies outside the progress block and whose field no service order names. -/
theorem bind_keeps {o : Assembly} (record : s.FieldsOk → s.PlacesOk → Config.generalBase ≤ o.record)
    (apart : s.OrdersOk → ∀ x, s.service = some x → x.field? ≠ some o.field.val) : Keeps s (s.bind o) := by
  have entry : Keeps s (s.mapEntry o.tag fun e => { e with state := .assembling }) :=
    mapEntry_keeps (by exact fun _ => rfl) (by exact fun _ => rfl)
      (by exact fun _ => ExpEntry.not_removable_of_state rfl (.inr ⟨nofun, nofun⟩))
  have frame := mapEntry_touches s o.tag fun e => { e with state := .assembling }
  have bound : Keeps s { s.mapEntry o.tag (fun e => { e with state := .assembling }) with
      deposit := .serving { o with turn := 0, current := none } } := by
    have service : (s.mapEntry o.tag fun e => { e with state := .assembling }).service = s.service := frame .service (by decide)
    refine { entry with orders := fun ok o' x held hx => ?_, places := fun f ok => ⟨fun o' held => ?_, (entry.places f ok).2⟩ }
    · cases held
      exact apart ok x (service ▸ hx)
    · cases held
      exact record f ok
  unfold State.bind
  exact ((bound.trans (Keeps.foldl _ (fun _ seg => bindSegment_keeps _ o seg) _ _)).trans choose_keeps).trans endTest_keeps

theorem tellMade_keeps (tag : Tag) : Keeps s (s.tellMade tag) := by
  unfold State.tellMade
  split
  · next o waiting =>
    exact .ite (fun _ => bind_keeps (State.PlacesOk.waiting waiting) fun ok x => ok o x (by rw [State.assembly, waiting])) fun _ => .refl s
  · exact .refl s

/-! ### Deadline, ABORT and take-up -/

theorem lateFilling_keeps (o : Assembly) : Keeps s (s.lateFilling o) :=
  Keeps.foldl _ (fun t _ => .ite (fun _ => by
    split
    · exact makeLate_keeps _ _
    · exact .refl t) fun _ => .refl t) _ s

theorem deadline_keeps : Keeps s s.deadline := by
  unfold State.deadline
  split
  · exact .refl s
  · next o waiting =>
    split
    · exact .ite (fun _ => idle_keeps.retire (State.PlacesOk.waiting waiting) _ _) fun _ => .refl s
    · exact .refl s
  · split
    · refine .ite (fun _ => ?_) fun _ => .refl s
      exact ((((mapServing_keeps (by exact fun _ => rfl) (by exact fun _ => rfl)).trans (lateFilling_keeps _)).trans
        (settleUnbegun_keeps _)).trans choose_keeps).trans endTest_keeps
    · exact .refl s

theorem unbind_keeps (tag : Tag) : Keeps s (s.unbind tag) :=
  mapEntry_keeps (by exact fun _ => rfl) (by exact fun _ => rfl)
    (by exact fun e => ExpEntry.not_removable_of_state rfl (.inr (by dsimp only; split <;> exact ⟨nofun, nofun⟩)))

theorem abortDeposit_keeps : Keeps s s.abortDeposit := by
  unfold State.abortDeposit
  split
  · exact .refl s
  · next o waiting => exact idle_keeps.retire (State.PlacesOk.waiting waiting) _ _
  · next o serving => exact ((unbind_keeps _).trans idle_keeps).retire (State.PlacesOk.serving serving) _ _

theorem dropDeposit_keeps : Keeps s s.dropDeposit := by
  unfold State.dropDeposit
  split
  · exact (unbind_keeps _).trans idle_keeps
  · exact idle_keeps

/-- An order that passes the take-up checks is held under its record's offset and its field's number. -/
theorem checkAssemble_ok {off : Nat} {tag : Tag} {fieldNo bankNo : Nat} {o : Assembly} (h : s.checkAssemble off tag fieldNo bankNo = .ok o) :
    o.record = off ∧ o.field.val = fieldNo := by
  unfold State.checkAssemble at h
  split at h
  · cases h
  next k hk =>
  have number : k.val = fieldNo := by
    unfold idx? at hk
    split at hk <;> cases hk
    rfl
  dsimp only at h
  repeat' split at h
  all_goals try cases h
  exact ⟨rfl, number⟩

theorem takeAssemble_keeps {off fieldNo : Nat} (tag : Tag) (bankNo : Nat) (place : Config.generalBase ≤ off)
    (apart : s.serviceNames fieldNo = false) : Keeps s (s.takeAssemble off tag fieldNo bankNo) := by
  unfold State.takeAssemble
  split
  · exact (Keeps.refl s).retire (fun _ _ => place) _ _
  · next o checked =>
    obtain ⟨record, field⟩ := checkAssemble_ok checked
    have named (x : ServiceOrder) (hx : s.service = some x) : x.field? ≠ some o.field.val := by
      simpa [State.serviceNames, hx, field] using apart
    split
    · exact bind_keeps (fun _ _ => record ▸ place) fun _ => named
    · refine setDeposit_keeps fun o' held => ?_
      cases held
      exact ⟨fun _ _ => record ▸ place, fun _ => named⟩

end Sys2Proof.Machine
end

section
/-! Delivered packets keep every invariant (chapters 3 and 4), and leave each link in its phase with its settings. -/

-- One theorem at a time: the threads of a parallel elaboration reserve more memory than the check allows.
set_option Elab.async false

namespace Sys2Proof.Machine

variable {s t u : State} {l : LinkNo}

/-! ### Links in their phases -/

/-- Every link stays in its phase with its settings. -/
def PhasesKept (s t : State) : Prop := ∀ m : LinkNo, t.links[m].phase = s.links[m].phase ∧ t.links[m].settings = s.links[m].settings

theorem PhasesKept.refl (s : State) : PhasesKept s s := fun _ => ⟨rfl, rfl⟩

theorem PhasesKept.trans (h : PhasesKept s t) (g : PhasesKept t u) : PhasesKept s u :=
  fun m => ⟨(g m).1.trans (h m).1, (g m).2.trans (h m).2⟩

theorem PhasesKept.of_links (h : t.links = s.links) : PhasesKept s t := fun m => by rw [h]; exact ⟨rfl, rfl⟩

theorem PhasesKept.of_touches {ps : List Part} (h : Touches ps s t) (free : Part.links ∉ ps := by decide) : PhasesKept s t :=
  .of_links (h .links free)

theorem links_set_getElem (links : Vector Link 4) (l m : LinkNo) (k : Link) : (links.set l k)[m] = if m = l then k else links[m] := by
  rw [Fin.getElem_fin, Vector.getElem_set]
  simp only [Fin.val_inj, eq_comm (a := l), Fin.getElem_fin]

theorem PhasesKept.of_set {k : Link} (h : t.links = s.links.set l k) (phase : k.phase = s.links[l].phase)
    (settings : k.settings = s.links[l].settings) : PhasesKept s t := fun m => by
  rw [h, links_set_getElem]
  split
  · next eq => subst eq; exact ⟨phase, settings⟩
  · exact ⟨rfl, rfl⟩

theorem PhasesKept.ite {c : Prop} [Decidable c] (ht : c → PhasesKept s t) (hu : ¬c → PhasesKept s u) :
    PhasesKept s (if c then t else u) := by
  split
  · next h => exact ht h
  · next h => exact hu h

theorem count_phases (c : LinkCounter) (n : Nat) : PhasesKept s (s.count l c n) := .of_set (count_links s l c n) rfl rfl

theorem setNames_phases (c r : Option Tag) : PhasesKept s (s.setNames l c r) := .of_set (k := { s.links[l] with current := c, refused := r }) rfl rfl rfl

/-- R53: a close takes the current exposure from its link, and leaves the links otherwise. -/
theorem closeFor_links (s : State) (l : LinkNo) (tag : Tag) : (s.closeFor l tag).links = s.links.set l { s.links[l] with current := none } := by
  unfold State.closeFor
  split
  · rfl
  · have closed : ((List.finRange 128).foldl (State.closeSlot l tag) s).links = s.links :=
      Touches.foldl _ (fun t n => closeSlot_touches t l tag n) _ s .links (by decide)
    have entry : (((List.finRange 128).foldl (State.closeSlot l tag) s).mapEntry tag (ExpEntry.closeBy l)).links = s.links :=
      Eq.trans (mapEntry_touches _ _ _ .links (by decide)) closed
    have told (v : State) (c : Bool) (ns : List SlotNo) : (if c = true then (v.tellComplete tag ns).tellClosed tag else v.tellComplete tag ns).links = v.links := by
      have complete : (v.tellComplete tag ns).links = v.links := tellComplete_touches v tag ns .links (by decide)
      split
      · exact Eq.trans (tellClosed_touches _ tag .links (by decide)) complete
      · exact complete
    dsimp only
    rw [told, State.setNames, State.setLink_links, entry, closed]

theorem closeFor_phases (tag : Tag) : PhasesKept s (s.closeFor l tag) := .of_set (closeFor_links s l tag) rfl rfl

theorem closeExposure_phases (tag : Tag) : PhasesKept s (s.closeExposure l tag) :=
  .ite (fun _ => (count_phases _ _).trans (setNames_phases _ _)) fun _ => .ite (fun _ => closeFor_phases tag) fun _ => .refl s

theorem clearWay_phases (tag : Tag) : PhasesKept s (s.clearWay l tag) := by
  have closed : PhasesKept s (match s.links[l].current with
      | some c => if c = tag then s else s.closeFor l c
      | none => s) := by
    split
    · exact .ite (fun _ => .refl s) fun _ => closeFor_phases _
    · exact .refl s
  unfold State.clearWay
  exact .ite (fun _ => closed) fun _ => closed.trans (setNames_phases _ _)

theorem openByTable_phases (tag : Tag) : PhasesKept s (s.openByTable l tag) := by
  have refused (c : LinkCounter) : PhasesKept s (((s.setNames l none (some tag)).count l c 1).raise .receive) :=
    ((setNames_phases _ _).trans (count_phases _ _)).trans (.of_touches (raise_touches _ _))
  unfold State.openByTable
  split
  · split
    · exact ((PhasesKept.of_touches (setPlace_touches s _ _)).trans (setNames_phases _ _)).trans (.of_touches (tellMade_touches _ _))
    · exact refused _
  · exact .ite (fun _ => (PhasesKept.of_touches (mapEntry_touches s _ _)).trans (setNames_phases _ _)) fun _ => refused _

theorem openExposure_phases (tag : Tag) : PhasesKept s (s.openExposure l tag) :=
  .ite (fun _ => (clearWay_phases tag).trans (count_phases _ _)) fun _ => .ite (fun _ => clearWay_phases tag) fun _ =>
    (clearWay_phases tag).trans (openByTable_phases tag)

theorem takeSlot_phases (new : Slot) : PhasesKept s (s.takeSlot l new) := by
  unfold State.takeSlot
  split
  · exact (count_phases _ _).trans (.of_touches (raise_touches _ _))
  · have taken (n : SlotNo) : PhasesKept s ((s.setSlot n (some new)).mapEntry new.tag fun e => { e with held := e.held + 1 }) :=
      (PhasesKept.of_touches (setSlot_touches s _ _)).trans (.of_touches (mapEntry_touches _ _ _))
    dsimp only
    split
    · exact .ite (fun _ => (taken _).trans (.of_touches (tellTaken_touches _ _))) fun _ => taken _
    · exact taken _

theorem beginSegment_phases (g : StreamEntry) (n : Nat) : PhasesKept s (s.beginSegment l g n) := by
  unfold State.beginSegment
  refine .ite (fun _ => count_phases _ _) fun _ => ?_
  split
  · exact .refl s
  split
  · exact count_phases _ _
  refine .ite (fun _ => count_phases _ _) fun _ => ?_
  split
  · exact ((count_phases _ _).trans (.of_touches (freeSlotAs_touches _ _ _))).trans (takeSlot_phases _)
  · exact takeSlot_phases _

theorem storeRow_phases (seg : SegNo) (rowLen r : Nat) (samples : List Nat) : PhasesKept s (s.storeRow l seg rowLen r samples) := by
  unfold State.storeRow
  refine .ite (fun _ => count_phases _ _) fun _ => ?_
  split
  · exact count_phases _ _
  split
  · exact count_phases _ _
  split
  · exact count_phases _ _
  refine .ite (fun _ => count_phases _ _) fun _ => .ite (fun _ => count_phases _ _) fun _ => .ite (fun _ => count_phases _ _) fun _ => ?_
  exact (PhasesKept.of_touches (touches_mem s _)).trans (.of_touches (setSlot_touches _ _ _))

theorem endSegment_phases (seg : SegNo) (k : Nat) : PhasesKept s (s.endSegment l seg k) := by
  unfold State.endSegment
  refine .ite (fun _ => count_phases _ _) fun _ => ?_
  split
  · exact .refl s
  split
  · exact .refl s
  split
  · exact .refl s
  split
  · exact (PhasesKept.of_touches (setSlot_touches s _ _)).trans (.of_touches (tellComplete_touches _ _ _))
  · exact (PhasesKept.of_touches (setSlot_touches s _ _)).trans (.of_touches (freeSlotAs_touches _ _ _))
  · exact .refl s

theorem deliver_phases (h : Header) (payload : List Byte) : PhasesKept s (s.deliver l h payload) := by
  unfold State.deliver
  split
  · exact openExposure_phases _
  · exact closeExposure_phases _
  · split
    · exact beginSegment_phases _ _
    · exact .refl s
  · split
    · exact endSegment_phases _ _
    · exact .refl s
  · split
    · exact storeRow_phases _ _ _ _
    · exact .refl s
  · exact .refl s

theorem fate_phases (p : Packet) : PhasesKept s (s.fate l p) := by
  unfold State.fate
  exact .ite (fun _ => count_phases _ _) fun _ => .ite (fun _ => count_phases _ _) fun _ => .ite (fun _ => count_phases _ _) fun _ =>
    .ite (fun _ => count_phases _ _) fun _ => .ite (fun _ => count_phases _ _) fun _ => deliver_phases _ _

theorem setEndMark_phases (on : Bool) : PhasesKept s (s.setEndMark l on) :=
  .of_set (k := { s.links[l] with endMark := on }) rfl rfl rfl

theorem completePacket_phases (p : Packet) : PhasesKept s (s.completePacket l p) :=
  (setEndMark_phases _).trans (fate_phases p)

/-! ### One link -/

/-- An operation that changes one link receiver, and keeps it good. -/
theorem Keeps.of_link {k : Link} (h : Touches [.links, .mirror] s t) (links : t.links = s.links.set l k)
    (good : s.links[l].bounded → s.links[l].named → k.bounded ∧ k.named) : Keeps s t :=
  (Keeps.refl s).step h (links := fun _ ok m => by
    rw [links, links_set_getElem]
    split
    · exact good (ok l).1 (ok l).2
    · exact ok m)

theorem setLink_keeps {k : Link} (good : s.links[l].bounded → s.links[l].named → k.bounded ∧ k.named) : Keeps s (s.setLink l k) :=
  .of_link (setLink_touches s l k).mono rfl good

/-- R26: a counter that stops at its maximum keeps a link within its bounds. -/
theorem counted_bounded {k : Link} (h : k.bounded) (i : Fin 14) (a n : Nat) : { k with counters := k.counters.set i (satAdd a n) }.bounded := by
  obtain ⟨lanes, hdr, cur, counters⟩ := h
  refine ⟨lanes, hdr, cur, fun c => ?_⟩
  rw [Fin.getElem_fin, Vector.getElem_set]
  split
  · exact satAdd_le _ _
  · exact counters c

theorem count_keeps (c : LinkCounter) (n : Nat) : Keeps s (s.count l c n) :=
  .of_link (count_touches s l c n) (count_links s l c n) fun bounded named => ⟨counted_bounded bounded _ _ _, named⟩

theorem setNames_keeps {c r : Option Tag} (h : s.links[l].named → (s.links[l].phase = .off → c = none ∧ r = none) ∧ (c = none ∨ r = none)) :
    Keeps s (s.setNames l c r) :=
  setLink_keeps fun bounded named => ⟨bounded, named.1, h named⟩

/-- R52, R53: a link may always cease to name its current exposure. -/
theorem setNames_none_keeps : Keeps s (s.setNames l none s.links[l].refused) :=
  setNames_keeps fun ⟨_, off, _⟩ => ⟨fun o => ⟨rfl, (off o).2⟩, .inl rfl⟩

/-! ### Closing and opening -/

theorem closeSlot_keeps (tag : Tag) (n : SlotNo) : Keeps s (State.closeSlot l tag s n) := by
  unfold State.closeSlot
  split
  · next sl here =>
    refine .ite (fun _ => ?_) fun _ => .refl s
    split
    · next filling => exact setSlot_keeps here rfl rfl (by rw [filling]; exact nofun) id
    · exact .refl s
    · exact freeSlotAs_keeps _ _
  · exact .refl s

theorem closeFor_keeps (tag : Tag) : Keeps s (s.closeFor l tag) := by
  unfold State.closeFor
  split
  · exact setNames_none_keeps
  · have entry (t : State) : Keeps t (t.mapEntry tag (ExpEntry.closeBy l)) := by
      refine mapEntry_keeps (fun _ => rfl) (fun _ => rfl) fun e => ExpEntry.not_removable_of_state rfl ?_
      unfold ExpEntry.closeBy
      dsimp only
      split
      · exact .inr ⟨nofun, nofun⟩
      · exact .inl rfl
    have told (v : State) (c : Bool) (ns : List SlotNo) :
        Keeps v (if c = true then (v.tellComplete tag ns).tellClosed tag else v.tellComplete tag ns) :=
      .ite (fun _ => (tellComplete_keeps tag ns).trans (tellClosed_keeps tag)) fun _ => tellComplete_keeps tag ns
    have slots := Keeps.foldl _ (fun _ n => closeSlot_keeps (l := l) tag n) (List.finRange 128) s
    dsimp only
    refine ((slots.trans (entry _)).trans ?_).trans (told _ _ _)
    have same (t : State) : (t.mapEntry tag (ExpEntry.closeBy l)).links = t.links := mapEntry_touches _ _ _ .links (by decide)
    rw [← same]
    exact setNames_none_keeps

theorem closeExposure_keeps (tag : Tag) : Keeps s (s.closeExposure l tag) := by
  refine .ite (fun _ => Keeps.trans (count_keeps (l := l) .refused 1) ?_) fun _ => .ite (fun _ => closeFor_keeps tag) fun _ => .refl s
  have same : (s.count l .refused 1).links[l].current = s.links[l].current := by rw [count_links, links_set_getElem, if_pos rfl]
  exact setNames_keeps fun ⟨_, off, _⟩ => ⟨fun o => ⟨same ▸ (off o).1, rfl⟩, .inr rfl⟩

theorem clearWay_keeps (tag : Tag) : Keeps s (s.clearWay l tag) := by
  have closed : Keeps s (match s.links[l].current with
      | some c => if c = tag then s else s.closeFor l c
      | none => s) := by
    split
    · exact .ite (fun _ => .refl s) fun _ => closeFor_keeps _
    · exact .refl s
  unfold State.clearWay
  exact .ite (fun _ => closed) fun _ => closed.trans (setNames_keeps fun ⟨_, off, _⟩ => ⟨fun o => ⟨(off o).1, rfl⟩, .inr rfl⟩)

/-- A link that is not OFF names an exposure as current or as refused, not both. -/
theorem setNames_on_keeps {c r : Option Tag} (on : s.links[l].phase ≠ .off) (one : c = none ∨ r = none) : Keeps s (s.setNames l c r) :=
  setNames_keeps fun _ => ⟨fun o => absurd o on, one⟩

theorem openByTable_keeps (tag : Tag) (on : s.links[l].phase ≠ .off) : Keeps s (s.openByTable l tag) := by
  have refused (c : LinkCounter) : Keeps s (((s.setNames l none (some tag)).count l c 1).raise .receive) :=
    ((setNames_on_keeps on (.inl rfl)).trans (count_keeps _ _)).trans (raise_keeps _)
  unfold State.openByTable
  split
  · next absent =>
    split
    · next p found =>
      have free : s.exposures[p] = none := Option.isNone_iff_eq_none.mp (List.find?_some (p := fun p : Fin 4 => s.exposures[p].isNone) found)
      have made : Keeps s (s.setPlace p (some (newEntry l tag))) :=
        .of_pool (setPlace_touches s _ _).mono fun ok => ok.openPlace l free absent
      have still : (s.setPlace p (some (newEntry l tag))).links[l].phase ≠ .off := by
        rw [setPlace_touches s _ _ .links (by decide)]
        exact on
      exact (made.trans (setNames_on_keeps still (.inr rfl))).trans (tellMade_keeps tag)
    · exact refused _
  · have joined : Keeps s (s.mapEntry tag fun e => { e with openedBy := e.openedBy ||| linkBit l }) :=
      mapEntry_keeps (by exact fun _ => rfl) (by exact fun _ => rfl) (by exact fun _ h => h)
    have still : (s.mapEntry tag fun e => { e with openedBy := e.openedBy ||| linkBit l }).links[l].phase ≠ .off := by
      rw [mapEntry_touches s _ _ .links (by decide)]
      exact on
    exact .ite (fun _ => joined.trans (setNames_on_keeps still (.inr rfl))) fun _ => refused _

theorem openExposure_keeps (tag : Tag) (on : s.links[l].phase ≠ .off) : Keeps s (s.openExposure l tag) := by
  have still : (s.clearWay l tag).links[l].phase ≠ .off := by rw [(clearWay_phases tag l).1]; exact on
  exact .ite (fun _ => (clearWay_keeps tag).trans (count_keeps _ _)) fun _ => .ite (fun _ => clearWay_keeps tag) fun _ =>
    (clearWay_keeps tag).trans (openByTable_keeps tag still)

end Sys2Proof.Machine
end

section
/-! The tile pool at a delivered packet, and the link receivers, keep every invariant (chapters 2 to 4). -/

-- One theorem at a time: the threads of a parallel elaboration reserve more memory than the check allows.
set_option Elab.async false

namespace Sys2Proof.Machine

variable {s t : State} {l : LinkNo}

/-! ### Slots found (R58, R59) -/

theorem State.findSlot_some {test : Slot → Bool} {n : SlotNo} (h : s.findSlot test = some n) : ∃ sl, s.slots[n] = some sl ∧ test sl = true := by
  have found := List.find?_some h
  split at found
  · next sl here => exact ⟨sl, here, found⟩
  · cases found

theorem State.findSlot_none {test : Slot → Bool} (h : s.findSlot test = none) {n : SlotNo} {sl : Slot} (here : s.slots[n] = some sl) :
    test sl = false := by
  have missed := List.find?_eq_none.mp h n (List.mem_finRange n)
  simpa [here] using missed

theorem State.slotIn_some {tag : Tag} {seg : SegNo} {states : List SlotState} {n : SlotNo} (h : s.slotIn tag seg states = some n) :
    ∃ sl, s.slots[n] = some sl ∧ sl.tag = tag ∧ sl.seg = seg ∧ sl.state ∈ states := by
  obtain ⟨sl, here, test⟩ := State.findSlot_some h
  simp only [Bool.and_eq_true, decide_eq_true_eq] at test
  exact ⟨sl, here, test.1.1, test.1.2, test.2⟩

theorem State.slotIn_none {tag : Tag} {seg : SegNo} {states : List SlotState} (h : s.slotIn tag seg states = none) {n : SlotNo} {sl : Slot}
    (here : s.slots[n] = some sl) (tags : sl.tag = tag) (segs : sl.seg = seg) : sl.state ∉ states := by
  have test := State.findSlot_none h here
  simpa [tags, segs] using test

theorem State.freeSlot_some {n : SlotNo} (h : s.freeSlot = some n) : s.slots[n] = none :=
  Option.isNone_iff_eq_none.mp (List.find?_some (p := fun n : SlotNo => s.slots[n].isNone) h)

/-- A slot neither FILLING nor COMPLETE is LATE. -/
theorem SlotState.eq_late {x : SlotState} (h : x ∉ [SlotState.filling, SlotState.complete]) : x = .late := by
  cases x <;> simp at h ⊢

/-- R66: what a slot freed makes of each place: one slot less at its entry, which goes where the removal check has it go. -/
theorem freeSlotAs_getElem (h : s.TagsDistinct) (why : FreeReason) {n : SlotNo} {sl : Slot} (here : s.slots[n] = some sl) (p : Fin 4) :
    (s.freeSlotAs why n).exposures[p] = ((s.exposures[p]).map fun e => if e.tag = sl.tag then { e with held := e.held - 1 } else e).filter
      fun e => !decide (e.tag = sl.tag ∧ e.Removable) := by
  have freed : ((s.queueMirror (reportOff sl.seg) (reportBytes why sl)).setSlot n none).exposures = s.exposures := setSlot_exposures _ _ _
  have distinct : ((s.queueMirror (reportOff sl.seg) (reportBytes why sl)).setSlot n none).TagsDistinct := by
    simpa only [State.TagsDistinct, freed] using h
  have still : (((s.queueMirror (reportOff sl.seg) (reportBytes why sl)).setSlot n none).mapEntry sl.tag
      fun e => { e with held := e.held - 1 }).TagsDistinct := by
    intro p q d e hd he same
    rw [mapEntry_getElem distinct] at hd he
    obtain ⟨d', hd', rfl⟩ := Option.map_eq_some_iff.mp hd
    obtain ⟨e', he', rfl⟩ := Option.map_eq_some_iff.mp he
    have tag (x : ExpEntry) : (if x.tag = sl.tag then { x with held := x.held - 1 } else x).tag = x.tag := by split <;> rfl
    rw [tag, tag] at same
    exact distinct p q d' e' hd' he' same
  unfold State.freeSlotAs
  rw [here]
  dsimp only
  rw [removalCheck_getElem still, mapEntry_getElem distinct, freed]

/-! ### Segments and rows (R59 to R64) -/

/-- R59: a slot is taken, after a change that keeps the invariants, for a segment whose entry is present and that holds no slot FILLING or
COMPLETE. -/
theorem Keeps.takeSlot (k : Keeps s t) {new : Slot} (rows : new.rows = [])
    (entry : s.PoolOk → (t.entryOf new.tag).isSome = true)
    (single : s.PoolOk → ∀ (m : SlotNo) (y : Slot), t.slots[m] = some y → y.tag = new.tag → y.seg = new.seg → y.state = .late) :
    Keeps s (t.takeSlot l new) := by
  unfold State.takeSlot
  split
  · exact (k.trans (count_keeps _ _)).trans (raise_keeps _)
  · next n found =>
    have taken : Keeps s ((t.setSlot n (some new)).mapEntry new.tag fun e => { e with held := e.held + 1 }) :=
      k.pool_step (((setSlot_touches t _ _).andThen (mapEntry_touches _ _ _))) fun ok =>
        (k.pool ok).takeSlot (State.freeSlot_some found) (by rw [Slot.RowsOk, rows]; simp) (entry ok) (single ok)
    dsimp only
    split
    · exact .ite (fun _ => taken.trans (tellTaken_keeps n)) fun _ => taken
    · exact taken

theorem beginSegment_keeps (g : StreamEntry) (n : Nat) : Keeps s (s.beginSegment l g n) := by
  unfold State.beginSegment
  refine .ite (fun _ => count_keeps _ _) fun _ => ?_
  split
  · exact .refl s
  next tag _ =>
  split
  · exact count_keeps _ _
  next e found =>
  refine .ite (fun _ => count_keeps _ _) fun begins => ?_
  obtain ⟨p, -, he, tag_e⟩ := State.entryOf_some found
  split
  · next old held =>
    obtain ⟨sl, here, tags, segs, state⟩ := State.slotIn_some held
    have here' : (s.count l .restarts 1).slots[old] = some sl := by rw [count_touches s _ _ _ .slots (by decide)]; exact here
    have exposures : (s.count l .restarts 1).exposures = s.exposures := count_touches s _ _ _ .exposures (by decide)
    have slots : ((s.count l .restarts 1).freeSlotAs .restart old).slots = s.slots.set old none := by
      rw [freeSlotAs_slots _ _ _ _ here', count_touches s _ _ _ .slots (by decide)]
    unfold State.restartSlot
    refine ((count_keeps .restarts 1).trans (freeSlotAs_keeps .restart old)).takeSlot rfl (fun ok => ?_) fun ok m y hy ty gy => ?_
    · have distinct : (s.count l .restarts 1).TagsDistinct := by simpa only [State.TagsDistinct, exposures] using ok.distinct
      refine State.entryOf_isSome_iff.mpr ⟨p, { e with held := e.held - 1 }, ?_, tag_e⟩
      rw [freeSlotAs_getElem distinct _ here', exposures, he, Option.map_some, if_pos (tag_e.trans tags.symm), Option.filter_some]
      have stays : ¬({ e with held := e.held - 1 } : ExpEntry).Removable := by
        rintro (⟨assembled, -⟩ | gone)
        · exact begins (.inl assembled)
        · exact ok.not_removable he (.inr gone)
      simp only [stays, and_false, decide_false, Bool.not_false, if_true]
    · rw [slots, Fin.getElem_fin, Vector.getElem_set] at hy
      split at hy
      · cases hy
      next ne =>
      by_contra other
      have not_late : sl.state ≠ .late := fun late => by simp [late] at state
      exact ne (congrArg Fin.val (ok.slots.single m old y sl hy here (ty.trans tags.symm) (gy.trans segs.symm) other not_late)).symm
  · next none_held =>
    refine (Keeps.refl s).takeSlot rfl (fun _ => ?_) fun _ m y hy ty gy => SlotState.eq_late (State.slotIn_none none_held hy ty gy)
    show (s.entryOf tag).isSome = true
    rw [found]
    rfl

/-- R62: a row is stored above the highest stored row and below the expected rows. -/
theorem Slot.RowsOk.store {sl : Slot} (h : sl.RowsOk) {r : Nat} (below : r < sl.expected) (above : ∀ top, sl.highest = some top → top < r) :
    { sl with rows := sl.rows ++ [r] }.RowsOk := by
  obtain ⟨ascending, bounded⟩ := h
  have all_below : ∀ q ∈ sl.rows, q < r := fun q hq => by
    obtain ⟨init, top, rows⟩ := List.eq_nil_or_concat sl.rows |>.resolve_left (List.ne_nil_of_mem hq)
    have last := above top (by rw [Slot.highest, rows]; simp)
    rw [List.concat_eq_append] at rows
    rw [rows, List.mem_append, List.mem_singleton] at hq
    rcases hq with hq | rfl
    · rw [rows] at ascending
      exact ((List.pairwise_append.mp ascending).2.2 q hq top (by simp)).trans last
    · exact last
  refine ⟨List.pairwise_append.mpr ⟨ascending, by simp, fun q hq x hx => ?_⟩, fun q hq => ?_⟩
  · rw [List.mem_singleton.mp hx]
    exact all_below q hq
  · rcases List.mem_append.mp hq with hq | hq
    · exact bounded q hq
    · rw [List.mem_singleton.mp hq]
      exact below

theorem storeRow_keeps (seg : SegNo) (rowLen r : Nat) (samples : List Nat) : Keeps s (s.storeRow l seg rowLen r samples) := by
  unfold State.storeRow
  refine .ite (fun _ => count_keeps _ _) fun _ => ?_
  split
  · exact count_keeps _ _
  split
  · exact count_keeps _ _
  next n _ =>
  split
  · exact count_keeps _ _
  next sl here =>
  refine .ite (fun _ => count_keeps _ _) fun _ => .ite (fun _ => count_keeps _ _) fun below => .ite (fun _ => count_keeps _ _) fun above => ?_
  refine Keeps.trans ((Keeps.refl s).writeBytes (off := rowOff n r) (fun _ _ => ?_) _) (setSlot_keeps here rfl rfl id fun rows => ?_)
  · unfold rowOff Config.generalBase Config.poolBase
    omega
  · refine rows.store (Nat.lt_of_not_le below) fun top found => ?_
    rw [found] at above
    simpa using above

theorem endSegment_keeps (seg : SegNo) (k : Nat) : Keeps s (s.endSegment l seg k) := by
  unfold State.endSegment
  refine .ite (fun _ => count_keeps _ _) fun _ => ?_
  split
  · exact .refl s
  split
  · exact .refl s
  split
  · exact .refl s
  next sl here =>
  split
  · next filling => exact Keeps.trans (setSlot_keeps here (by rfl) (by rfl) (by rw [filling]; exact nofun) (by exact id)) (tellComplete_keeps _ _)
  · exact Keeps.trans (setSlot_keeps here (by rfl) (by rfl) (by exact id) (by exact id)) (freeSlotAs_keeps _ _)
  · exact .refl s

/-! ### Packets (R38) -/

theorem deliver_keeps (h : Header) (payload : List Byte) (on : s.links[l].phase ≠ .off) : Keeps s (s.deliver l h payload) := by
  unfold State.deliver
  split
  · exact openExposure_keeps _ on
  · exact closeExposure_keeps _
  · split
    · exact beginSegment_keeps _ _
    · exact .refl s
  · split
    · exact endSegment_keeps _ _
    · exact .refl s
  · split
    · exact storeRow_keeps _ _ _ _
    · exact .refl s
  · exact .refl s

theorem fate_keeps (p : Packet) (on : s.links[l].phase ≠ .off) : Keeps s (s.fate l p) := by
  unfold State.fate
  exact .ite (fun _ => count_keeps _ _) fun _ => .ite (fun _ => count_keeps _ _) fun _ => .ite (fun _ => count_keeps _ _) fun _ =>
    .ite (fun _ => count_keeps _ _) fun _ => .ite (fun _ => count_keeps _ _) fun _ => deliver_keeps _ _ on

theorem completePacket_keeps (p : Packet) (on : s.links[l].phase ≠ .off) : Keeps s (s.completePacket l p) := by
  have marked : Keeps s (s.setEndMark l (decide (p.header.kind = 5))) := setLink_keeps fun bounded named => ⟨bounded, named⟩
  exact marked.trans (fate_keeps p (by rw [(setEndMark_phases _ l).1]; exact on))

theorem packetArrives_keeps (h : Header) (payload : List Byte) : Keeps s (s.packetArrives l h payload) :=
  .ite (fun _ => .refl s) fun on => completePacket_keeps _ on

/-! ### DISCARD_EXPOSURE (R67) -/

/-- R66: a slot freed is FREE, and every other slot stands. -/
theorem freeSlotAs_slot_getElem (s : State) (why : FreeReason) (n m : SlotNo) :
    (s.freeSlotAs why n).slots[m] = if m = n then none else s.slots[m] := by
  cases here : s.slots[n] with
  | none =>
    have same : s.freeSlotAs why n = s := by unfold State.freeSlotAs; rw [here]
    rw [same]
    split
    · next eq => rw [eq, here]
    · rfl
  | some sl =>
    simp only [freeSlotAs_slots s why n sl here, Fin.getElem_fin, Vector.getElem_set, Fin.val_inj, eq_comm (a := n)]

/-- R67, step 1, for one slot. -/
theorem discardSlot_slot_getElem (tag : Tag) (a : State × Nat) (n m : SlotNo) :
    (State.discardSlot tag a n).1.slots[m] = if m = n ∧ namesTag tag a.1.slots[m] = true then none else a.1.slots[m] := by
  by_cases eq : m = n
  · subst eq
    unfold State.discardSlot
    cases here : a.1.slots[m] with
    | none => simp [here]
    | some sl =>
      by_cases same : sl.tag = tag
      · simp only [same, if_true, freeSlotAs_slot_getElem, namesTag, decide_true, and_self]
      · simp [same, here, namesTag]
  · unfold State.discardSlot
    split
    · split
      · simp only [freeSlotAs_slot_getElem, eq, if_false, false_and]
      · simp [eq]
    · simp [eq]

/-- R67, step 1: the slots of a tag among those gone through are freed, and the others stand. -/
theorem discardSlots_slot_getElem (tag : Tag) (ns : List SlotNo) (a : State × Nat) (m : SlotNo) :
    (ns.foldl (State.discardSlot tag) a).1.slots[m]
      = if m ∈ ns ∧ namesTag tag a.1.slots[m] = true then none else a.1.slots[m] := by
  induction ns generalizing a with
  | nil => simp
  | cons n ns ih =>
    rw [List.foldl_cons, ih, discardSlot_slot_getElem]
    cases names : namesTag tag a.1.slots[m] with
    | false => simp only [names, Bool.false_eq_true, and_false, if_false]
    | true =>
      by_cases eq : m = n
      · simp only [eq, and_true, if_true, List.mem_cons, true_or, ite_self]
      · simp only [eq, if_false, names, and_true, List.mem_cons, false_or]

theorem discardSlots_keeps (tag : Tag) (ns : List SlotNo) (a : State × Nat) : Keeps a.1 (ns.foldl (State.discardSlot tag) a).1 := by
  induction ns generalizing a with
  | nil => exact .refl _
  | cons n ns ih =>
    refine Keeps.trans ?_ (ih _)
    unfold State.discardSlot
    split
    · split
      · exact freeSlotAs_keeps _ _
      · exact .refl _
    · exact .refl _

theorem refuseLink_keeps (tag : Tag) : Keeps s (State.refuseLink tag s l) :=
  .ite (fun names => setNames_keeps fun ⟨_, off, _⟩ => ⟨fun o => absurd ((off o).1.symm.trans names) nofun, .inl rfl⟩) fun _ => .refl s

theorem takeDiscard_keeps {off : Nat} (tag : Tag) (place : Config.generalBase ≤ off) : Keeps s (s.takeDiscard off tag) := by
  unfold State.takeDiscard
  split
  · exact (Keeps.refl s).retire (fun _ _ => place) _ _
  · have freed := discardSlots_keeps tag (List.finRange 128) (s, 0)
    have none_named (n : SlotNo) (sl : Slot) (here : ((List.finRange 128).foldl (State.discardSlot tag) (s, 0)).1.slots[n] = some sl) :
        sl.tag ≠ tag := by
      rw [discardSlots_slot_getElem] at here
      split at here
      · cases here
      · next kept => simpa [here, namesTag] using kept
    have removed := freed.trans (Keeps.of_pool ((mapEntry_touches _ tag fun e => { e with state := .discarded }).trans
      (removalCheck_touches _ tag)).mono fun ok => ok.discarded none_named)
    exact (removed.trans (Keeps.foldl _ (fun _ _ => refuseLink_keeps tag) _ _)).retire (fun _ _ => place) _ _

end Sys2Proof.Machine
end

section
/-! The link receivers keep every invariant: settings, parser, merge and burst (chapters 1 to 3). -/

-- One theorem at a time: the threads of a parallel elaboration reserve more memory than the check allows.
set_option Elab.async false

namespace Sys2Proof.Machine

variable {s t : State} {l : LinkNo}

@[simp] theorem vecOf_getElem {α : Type} {n : Nat} (f : Fin n → α) (i : Nat) (h : i < n) : (vecOf f)[i] = f ⟨i, h⟩ := by
  simp [vecOf]

/-! ### What a link holds (R19, R35) -/

/-- R35: a parser that has not yet completed the packet it takes. -/
def Parser.Good (p : Parser) : Prop :=
  p.hdr.length ≤ 3 ∧ ∀ h, p.cur = some h → h.long = true ∧ h.value.toNat ≤ Config.payloadMax ∧ p.buffer.length < h.value.toNat + 2

theorem Parser.good_of_cur_none {p : Parser} (hdr : p.hdr.length ≤ 3) (cur : p.cur = none) : p.Good := ⟨hdr, fun h eq => by simp [cur] at eq⟩

/-- A parser at the start of a packet, discarding or not. -/
theorem Parser.good_start (discarding : Bool) : { Parser.start with discarding := discarding }.Good :=
  Parser.good_of_cur_none (Nat.zero_le _) rfl

/-- What a link holds is bounded when its lanes, its parser and its counters are. -/
theorem Link.bounded_of {k : Link} (lanes : ∀ n : LaneNo, k.lanes[n].held.length ≤ Config.laneLimit) (parser : k.parser.Good)
    (counters : ∀ i : Fin 14, k.counters[i] ≤ Config.counterMax) : k.bounded := ⟨lanes, parser.1, parser.2, counters⟩

/-! ### Settings (R11, R25) -/

/-- A link changed once more. -/
theorem mapLink_links_of_set {k : Link} (h : t.links = s.links.set l k) (g : Link → Link) : (t.mapLink l g).links = s.links.set l (g k) := by
  have here : t.links[l] = k := by rw [h, links_set_getElem, if_pos rfl]
  rw [State.mapLink, State.setLink_links, here, h]
  simp

theorem mapLink_keeps {g : Link → Link} (good : s.links[l].bounded → s.links[l].named → (g s.links[l]).bounded ∧ (g s.links[l]).named) :
    Keeps s (s.mapLink l g) := setLink_keeps good

theorem enterOff_keeps : Keeps s (s.enterOff l) := by
  have closed : Keeps s (match s.links[l].current with
      | some c => s.closeFor l c
      | none => s) := by
    split
    · exact closeFor_keeps _
    · exact .refl s
  unfold State.enterOff
  exact Keeps.trans closed (mapLink_keeps (by exact fun bounded _ => ⟨bounded, ⟨fun _ => rfl, fun _ => rfl⟩, fun _ => ⟨rfl, rfl⟩, .inl rfl⟩))

theorem takeSettings_keeps : Keeps s (s.takeSettings l) := by
  unfold State.takeSettings
  split
  · exact mapLink_keeps fun bounded named => ⟨bounded, ⟨nofun, nofun⟩, nofun, named.2.2⟩
  · exact enterOff_keeps

theorem linkReplaced_keeps : Keeps s (State.linkReplaced s l) := by
  unfold State.linkReplaced
  split
  · exact mapLink_keeps fun bounded named => ⟨bounded, named⟩
  · exact takeSettings_keeps
  · exact takeSettings_keeps

theorem tellLinks_keeps : Keeps s s.tellLinks := Keeps.foldl _ (fun _ _ => linkReplaced_keeps) _ s

theorem queueMirrors_keeps {α : Type} (off : α → Nat) (bytes : α → List Byte) (l : List α) :
    Keeps s (l.foldl (fun t c => t.queueMirror (off c) (bytes c)) s) := Keeps.foldl _ (fun _ _ => queueMirror_keeps _ _) l s

theorem softResetLink_keeps : Keeps s (State.softResetLink s l) := by
  refine Keeps.trans (mapLink_keeps ?_) (queueMirrors_keeps (fun c : Fin 14 => 0x100 + 0x40 * l.val + 4 * c.val) (fun _ => leBytes 4 0) _)
  intro _ _
  refine ⟨Link.bounded_of (fun n => by simp [Link.start, Lane.start]) (Parser.good_start false) (fun i => by simp [Link.start]), ?_,
    fun _ => ⟨rfl, rfl⟩, .inl rfl⟩
  cases drawSettings s.loader.inUse l <;> simp

/-! ### The parser (R30 to R35) -/

/-- R35, R26: an operation that gives one link another parser and end-mark state, and counts, keeps it good. -/
theorem Keeps.of_parsed (h : Touches [.links, .mirror] s t) {q : Parser} {e : Bool} {cs : Vector Nat 14}
    (links : t.links = s.links.set l { s.links[l] with parser := q, endMark := e, counters := cs }) (parser : s.links[l].bounded → q.Good)
    (counters : s.links[l].bounded → ∀ i : Fin 14, cs[i] ≤ Config.counterMax) : Keeps s t :=
  .of_link h links fun bounded named => ⟨⟨bounded.1, (parser bounded).1, (parser bounded).2, counters bounded⟩, named⟩

/-- R26: the counters of a link after one of them has gained. -/
def Link.gained (k : Link) (c : LinkCounter) (n : Nat) : Vector Nat 14 := k.counters.set c.idx (satAdd k.counters[c.idx] n)

theorem Link.bounded.gained {k : Link} (h : k.bounded) (c : LinkCounter) (n : Nat) (i : Fin 14) : (k.gained c n)[i] ≤ Config.counterMax :=
  (counted_bounded h c.idx _ n).2.2.2 i

/-- R31 to R34: the four header bytes, of a link whose parser has just taken the last of them, are settled. -/
theorem parseHeader_keeps {p : Parser} {e : Bool} (hdr : List Byte) (on : s.links[l].phase ≠ .off) :
    Keeps s ((s.mapLink l fun k => { k with parser := p, endMark := e }).parseHeader l hdr) := by
  have changed (g : Link → Link) : Touches [.links, .mirror] s (s.mapLink l g) := (mapLink_touches s l g).mono
  have counted (c : LinkCounter) : ((s.mapLink l fun k => { k with parser := p, endMark := e }).count l c 1).links
      = s.links.set l { s.links[l] with parser := p, endMark := e, counters := s.links[l].gained c 1 } := by
    rw [count_links]
    simp [State.mapLink, Link.gained]
  have lost : Keeps s ((s.mapLink l fun k => { k with parser := p, endMark := e }).loseHeader l) := by
    refine .of_parsed (l := l) (q := { Parser.start with discarding := true }) (e := e) (cs := s.links[l].gained .headersLost 1)
      ((changed _).trans (loseHeader_touches _ l)) ?_ (fun _ => Parser.good_start _) fun bounded => bounded.gained _ _
    exact mapLink_links_of_set (counted _) _
  unfold State.parseHeader
  split
  · exact lost
  next h fixed _ =>
  refine .ite (fun _ => lost) fun fits => ?_
  have settled (q : Parser) (good : q.Good) : Keeps s ((if fixed = true then
      (s.mapLink l fun k => { k with parser := p, endMark := e }).count l .headersFixed 1
      else s.mapLink l fun k => { k with parser := p, endMark := e }).mapLink l fun k => { k with parser := q }) := by
    have within : Touches [.links, .mirror] s (if fixed = true then
        (s.mapLink l fun k => { k with parser := p, endMark := e }).count l .headersFixed 1
        else s.mapLink l fun k => { k with parser := p, endMark := e }) :=
      Touches.ite ((changed _).trans (count_touches _ _ _ _)) (changed _)
    refine .of_parsed (l := l) (q := q) (e := e) (cs := if fixed = true then s.links[l].gained .headersFixed 1 else s.links[l].counters)
      (within.trans (mapLink_touches _ _ _).mono) ?_ (fun _ => good) ?_
    · split
      · exact mapLink_links_of_set (counted _) _
      · exact mapLink_links_of_set (k := { s.links[l] with parser := p, endMark := e }) rfl _
    · intro bounded
      split
      · exact bounded.gained _ _
      · exact bounded.2.2.2
  dsimp only
  split
  · next long =>
    refine settled _ ⟨Nat.zero_le _, fun h' same => ?_⟩
    cases same
    refine ⟨long, ?_, by simp [Parser.start]⟩
    simpa [long] using fits
  · have done := settled Parser.start (Parser.good_start false)
    have taken : PhasesKept s (s.mapLink l fun k => { k with parser := p, endMark := e }) :=
      .of_set (k := { s.links[l] with parser := p, endMark := e }) rfl rfl rfl
    have phases (t : State) : PhasesKept t ((if fixed = true then t.count l .headersFixed 1 else t).mapLink l
        fun k => { k with parser := Parser.start }) :=
      (PhasesKept.ite (fun _ => count_phases _ _) fun _ => .refl t).trans
        (.of_set (k := { (if fixed = true then t.count l .headersFixed 1 else t).links[l] with parser := Parser.start }) rfl rfl rfl)
    refine done.trans (completePacket_keeps _ ?_)
    rw [(taken.trans (phases _) l).1]
    exact on

theorem parseByte_keeps (b : Byte) (on : s.links[l].phase ≠ .off) : Keeps s (s.parseByte l b) := by
  have changed (g : Link → Link) : Touches [.links, .mirror] s (s.mapLink l g) := (mapLink_touches s l g).mono
  unfold State.parseByte
  refine .ite (fun _ => .refl s) fun _ => ?_
  split
  · next none_cur =>
    refine .ite (fun _ => parseHeader_keeps _ on) fun short => ?_
    refine .of_parsed (l := l) (q := { s.links[l].parser with hdr := s.links[l].parser.hdr ++ [b] }) (e := false) (cs := s.links[l].counters)
      (changed _) rfl (fun bounded => Parser.good_of_cur_none ?_ none_cur) fun bounded => bounded.2.2.2
    have := bounded.2.1
    simp only [List.length_append, List.length_singleton] at short ⊢
    omega
  · next h cur =>
    refine .ite (fun _ => ?_) fun short => ?_
    · refine Keeps.trans (.of_parsed (l := l) (q := Parser.start) (e := s.links[l].endMark) (cs := s.links[l].counters) (changed _) rfl
        (fun _ => Parser.good_start _) fun bounded => bounded.2.2.2) (completePacket_keeps _ ?_)
      rw [State.mapLink, State.setLink_links, links_set_getElem, if_pos rfl]
      exact on
    · refine .of_parsed (l := l) (q := { s.links[l].parser with buffer := s.links[l].parser.buffer ++ [b] }) (e := s.links[l].endMark)
        (cs := s.links[l].counters) (changed _) rfl (fun bounded => ⟨bounded.2.1, fun h' same => ?_⟩) fun bounded => bounded.2.2.2
      rw [cur] at same
      cases same
      obtain ⟨long, most, filled⟩ := bounded.2.2.1 h cur
      refine ⟨long, most, ?_⟩
      simp only [List.length_append, List.length_singleton] at short ⊢
      omega

theorem parseHeader_phases (hdr : List Byte) : PhasesKept s (s.parseHeader l hdr) := by
  have lost : PhasesKept s (s.loseHeader l) := (count_phases _ _).trans (.of_set (k := { (s.count l .headersLost 1).links[l] with
    parser := { Parser.start with discarding := true } }) rfl rfl rfl)
  have parser (t : State) (q : Parser) : PhasesKept t (t.mapLink l fun k => { k with parser := q }) :=
    .of_set (k := { t.links[l] with parser := q }) rfl rfl rfl
  unfold State.parseHeader
  split
  · exact lost
  next h fixed _ =>
  have counted : PhasesKept s (if fixed = true then s.count l .headersFixed 1 else s) := .ite (fun _ => count_phases _ _) fun _ => .refl s
  exact .ite (fun _ => lost) fun _ => .ite (fun _ => counted.trans (parser _ _)) fun _ =>
    (counted.trans (parser _ _)).trans (completePacket_phases _)

theorem parseByte_phases (b : Byte) : PhasesKept s (s.parseByte l b) := by
  have changed (g : Link → Link) (phase : (g s.links[l]).phase = s.links[l].phase) (settings : (g s.links[l]).settings = s.links[l].settings) :
      PhasesKept s (s.mapLink l g) := .of_set rfl phase settings
  unfold State.parseByte
  refine .ite (fun _ => .refl s) fun _ => ?_
  split
  · exact .ite (fun _ => (changed _ rfl rfl).trans (parseHeader_phases _)) fun _ => changed _ rfl rfl
  · exact .ite (fun _ => (changed _ rfl rfl).trans (completePacket_phases _)) fun _ => changed _ rfl rfl

/-! ### The merge and the burst (R16 to R21) -/

/-- R19: one lane replaced, with no more bytes held than a lane can keep. -/
theorem Link.bounded.setLane {k : Link} (h : k.bounded) (n : LaneNo) {x : Lane} (held : x.held.length ≤ Config.laneLimit) :
    (k.setLane n x).bounded := by
  refine ⟨fun m => ?_, h.2⟩
  show (k.lanes.set n x)[m].held.length ≤ _
  rw [Fin.getElem_fin, Vector.getElem_set]
  split
  · exact held
  · exact h.1 m

theorem setLane_keeps {n : LaneNo} {g : Link → Lane} (held : s.links[l].bounded → (g s.links[l]).held.length ≤ Config.laneLimit) :
    Keeps s (s.mapLink l fun k => k.setLane n (g k)) :=
  mapLink_keeps fun bounded named => ⟨bounded.setLane n (held bounded), named⟩

theorem endMerge_keeps : Keeps s (s.endMerge l) := by
  have counted (t : State) (P : Prop) [Decidable P] (c : LinkCounter) (n : Nat) : Keeps t (if P then t.count l c n else t) :=
    .ite (fun _ => count_keeps c n) fun _ => .refl t
  unfold State.endMerge
  refine (((counted _ _ _ _).trans (counted _ _ _ _)).trans (counted _ _ _ _)).trans (mapLink_keeps fun bounded named =>
    ⟨Link.bounded_of (fun n => ?_) (Parser.good_start _) bounded.2.2.2, named⟩)
  simp [Lane.afterMerge]

theorem mergeLoop_keeps (fuel : Nat) (on : s.links[l].phase ≠ .off) : Keeps s (s.mergeLoop l fuel) := by
  induction fuel generalizing s with
  | zero => exact .refl s
  | succ fuel ih =>
    unfold State.mergeLoop
    refine .ite (fun _ => ?_) fun _ => .refl s
    split
    · next b bs head =>
      have taken : Keeps s (s.mapLink l fun k =>
          { k.setLane k.turn { k.lanes[k.turn] with held := bs } with merged := k.merged + 1, turn := k.nextTurn }) := by
        refine mapLink_keeps fun bounded named => ⟨⟨(bounded.setLane _ ?_).1, bounded.2⟩, named⟩
        have := bounded.1 s.links[l].turn
        rw [head] at this
        exact Nat.le_of_succ_le this
      have still : (s.mapLink l fun k => { k.setLane k.turn { k.lanes[k.turn] with held := bs } with
          merged := k.merged + 1, turn := k.nextTurn }).links[l].phase ≠ .off := by
        rw [State.mapLink, State.setLink_links, links_set_getElem, if_pos rfl]
        exact on
      exact (taken.trans (parseByte_keeps b still)).trans (ih (by rw [(parseByte_phases b l).1]; exact still))
    · exact .ite (fun _ => endMerge_keeps) fun _ => .refl s

theorem merge_keeps (on : s.links[l].phase ≠ .off) : Keeps s (s.merge l) := mergeLoop_keeps _ on

theorem closeCheck_keeps : Keeps s (s.closeCheck l) := by
  unfold State.closeCheck
  refine .ite (fun burst => .ite (fun _ => takeSettings_keeps) fun _ => mapLink_keeps fun bounded named => ⟨bounded, ?_⟩) fun _ => .refl s
  refine ⟨⟨nofun, fun none => ?_⟩, nofun, named.2.2⟩
  have off := named.1.mpr none
  exact absurd (burst.1.symm.trans off) nofun

theorem endLane_keeps (n : LaneNo) (r : Bool) (on : s.links[l].phase ≠ .off) : Keeps s (s.endLane l n r) := by
  have ended : Keeps s (s.mapLink l fun k => k.setLane n { k.lanes[n] with phase := .ended, restarted := r }) :=
    setLane_keeps fun bounded => bounded.1 n
  refine (ended.trans (merge_keeps ?_)).trans closeCheck_keeps
  rw [State.mapLink, State.setLink_links, links_set_getElem, if_pos rfl]
  exact on

theorem laneStart_keeps (n : LaneNo) : Keeps s (s.laneStart l n) := by
  unfold State.laneStart
  refine .ite (fun _ => .refl s) fun used => ?_
  split
  · exact .refl s
  · refine mapLink_keeps fun bounded named => ⟨Link.bounded_of (fun m => ?_) (Parser.good_start false) bounded.2.2.2,
      ⟨nofun, fun none => ?_⟩, nofun, named.2.2⟩
    · show ((Vector.replicate 4 Lane.start).set n ⟨.opened, false, []⟩)[m].held.length ≤ _
      rw [Fin.getElem_fin, Vector.getElem_set]
      split <;> simp [Lane.start]
    · have unset : s.links[l].settings = Option.none := none
      rw [Link.inUse, unset] at used
      exact absurd rfl used
  · next burst =>
    split
    · exact setLane_keeps fun bounded => bounded.1 n
    · exact endLane_keeps n true (by rw [burst]; exact nofun)
    · exact setLane_keeps fun bounded => bounded.1 n

theorem laneEnd_keeps (n : LaneNo) : Keeps s (s.laneEnd l n) := by
  unfold State.laneEnd
  refine .ite (fun _ => .refl s) fun _ => ?_
  split
  · exact .refl s
  · exact .refl s
  · next burst =>
    split
    · exact .refl s
    · exact endLane_keeps n false (by rw [burst]; exact nofun)
    · exact .refl s

theorem laneByte_keeps (n : LaneNo) (b : Byte) : Keeps s (s.laneByte l n b) := by
  unfold State.laneByte
  refine .ite (fun _ => .refl s) fun _ => ?_
  split
  · exact .refl s
  · exact .refl s
  next burst =>
  split
  · exact .refl s
  · refine .ite (fun _ => count_keeps _ _) fun _ => .ite (fun _ => ((count_keeps _ _).trans endMerge_keeps).trans closeCheck_keeps) fun room => ?_
    have held : Keeps s (s.mapLink l fun k => k.setLane n { k.lanes[n] with held := k.lanes[n].held ++ [b] }) :=
      setLane_keeps fun _ => by
        simp only [List.length_append, List.length_singleton]
        omega
    refine (held.trans (merge_keeps ?_)).trans closeCheck_keeps
    rw [State.mapLink, State.setLink_links, links_set_getElem, if_pos rfl]
    show s.links[l].phase ≠ .off
    rw [burst]
    exact nofun
  · exact .ite (fun _ => count_keeps _ _) fun _ => .refl s

end Sys2Proof.Machine
end

section
/-! The sky canvas, the row deposit and the service unit keep every invariant (chapters 5, 7 and 9). -/

-- One theorem at a time: the threads of a parallel elaboration reserve more memory than the check allows.
set_option Elab.async false

namespace Sys2Proof.Machine

variable {s t : State}

/-! ### Fields and their cells (R105 to R109) -/

theorem Field.Ok.base_le {f : Field} (h : f.Ok) : Config.generalBase ≤ f.base := by
  obtain ⟨-, -, -, region, -⟩ := h
  exact region.1

theorem fields_set_getElem (fields : Vector (Option Field) 4) (f i : Fin 4) (x : Option Field) :
    (fields.set f x)[i] = if i = f then x else fields[i] := by
  rw [Fin.getElem_fin, Vector.getElem_set]
  simp only [Fin.val_inj, eq_comm (a := f), Fin.getElem_fin]

/-- A field replaced by one that is good and lies apart from every other. -/
theorem State.FieldsOk.setField (h : s.FieldsOk) {f : Fin 4} {x : Option Field} (good : ∀ d, x = some d → d.Ok)
    (apart : ∀ d, x = some d → ∀ (j : Fin 4) (g : Field), j ≠ f → s.fields[j] = some g →
      d.base + d.regionBytes ≤ g.base ∨ g.base + g.regionBytes ≤ d.base) : (s.setField f x).FieldsOk := by
  refine ⟨fun i d hd => ?_, fun i j d g hd hg ne => ?_⟩
  · rw [State.setField_fields, fields_set_getElem] at hd
    split at hd
    · exact good d hd
    · exact h.1 i d hd
  · rw [State.setField_fields, fields_set_getElem] at hd hg
    split at hd <;> split at hg
    · next ei ej => exact absurd (ei.trans ej.symm) ne
    · next ei ej => exact apart d hd j g ej hg
    · next ei ej => exact (apart g hg i d ei hd).symm
    · exact h.2 i j d g hd hg ne

theorem List.mem_modify_cases {α : Type} {l : List α} {i : Nat} {g : α → α} {x : α} (h : x ∈ l.modify i g) : x ∈ l ∨ ∃ y ∈ l, x = g y := by
  obtain ⟨j, hj, rfl⟩ := List.mem_iff_getElem.mp h
  rw [List.length_modify] at hj
  rw [List.getElem_modify]
  split
  · exact .inr ⟨_, List.getElem_mem hj, rfl⟩
  · exact .inl (List.getElem_mem hj)

/-- A directory entry changed by an operation that keeps directory entries good. -/
theorem mapCell_keeps {f : Fin 4} {c : Nat} {g : DirCell → DirCell} (good : ∀ d, d.Ok → (g d).Ok) : Keeps s (s.mapCell f c g) := by
  refine (Keeps.refl s).step (mapCell_touches s f c g) (fields := fun _ ok => ?_)
  unfold State.mapCell
  split
  · next fd here =>
    obtain ⟨cols, rows, aligned, region, count, cells⟩ := ok.1 f fd here
    refine ok.setField (fun d eq => ?_) fun d eq j other ne hj => ?_
    · cases eq
      refine ⟨cols, rows, aligned, region, (List.length_modify ..).trans count, fun d hd => ?_⟩
      rcases List.mem_modify_cases hd with hd | ⟨e, he, rfl⟩
      · exact cells d hd
      · exact good e (cells e he)
    · cases eq
      exact ok.2 f j fd other here hj ne.symm
  · exact ok

theorem DirCell.Ok.setState {d : DirCell} (h : d.Ok) {x : CellState} (x_not_vacant : x ≠ .vacant) : { d with state := x }.Ok :=
  ⟨h.1, h.2.1, fun v => absurd v x_not_vacant, h.2.2.2⟩

theorem mapCell_setState_keeps {f : Fin 4} {c : Nat} {x : CellState} (x_not_vacant : x ≠ .vacant) :
    Keeps s (s.mapCell f c fun d => { d with state := x }) := mapCell_keeps fun _ ok => ok.setState x_not_vacant

theorem DirCell.vacant_ok : DirCell.vacant.Ok := ⟨Nat.zero_le _, List.nodup_nil, fun _ => rfl, Nat.zero_le _⟩

theorem DirCell.Ok.noteExposure {d : DirCell} (h : d.Ok) (tag : Tag) : (d.noteExposure tag).Ok := by
  obtain ⟨length, nodup, last, deposits⟩ := h
  unfold DirCell.noteExposure
  split
  · exact ⟨length, nodup, last, deposits⟩
  next new =>
  split
  · next room =>
    refine ⟨by simpa using room, ?_, last, deposits⟩
    exact List.nodup_append.mpr ⟨nodup, List.nodup_singleton _, fun a ha b hb eq => new (List.mem_singleton.mp hb ▸ eq ▸ ha)⟩
  · exact ⟨length, nodup, last, deposits⟩

theorem DirCell.Ok.productWritten {d : DirCell} (h : d.Ok) (off : Nat) : (d.productWritten off).Ok := by
  obtain ⟨length, nodup, last, deposits⟩ := h
  unfold DirCell.productWritten
  split
  · exact ⟨length, nodup, last, deposits⟩
  · exact ⟨length, nodup, nofun, deposits⟩
  · next finalized => exact ⟨length, nodup, fun v => absurd (finalized.symm.trans v) nofun, deposits⟩
  · next spoiled => exact ⟨length, nodup, fun v => absurd (spoiled.symm.trans v) nofun, deposits⟩

/-! ### Touches of a cell (R110 to R120) -/

theorem zeroCell_keeps (f : Fin 4) (c : Nat) : Keeps s (s.zeroCell f c) := by
  unfold State.zeroCell
  split
  · next fd here =>
    have zeroed : Keeps s { s with mem := Memory.zero s.mem (fd.base + c * Config.cellBytes) Config.cellBytes } :=
      (Keeps.refl s).mem (Memory.zero_wf _ _ _) fun ok _ a ha => Memory.read_zero_outside _ _ _ _ (.inl (by
        have := (ok.1 f fd here).base_le
        omega))
    exact zeroed.trans (mapCell_setState_keeps (by decide))
  · exact .refl s

theorem writeStale_keeps (off : Nat) : Keeps s (s.writeStale off) := by
  refine .ite (fun guard => (Keeps.refl s).writeBytes (fun _ _ => ?_) _) fun _ => .refl s
  simp only [inGeneral, Bool.and_eq_true, decide_eq_true_eq] at guard
  exact guard.1.1

theorem prepareCell_keeps (f : Fin 4) (c : Nat) : Keeps s (s.prepareCell f c) := by
  unfold State.prepareCell
  split
  · split
    · exact zeroCell_keeps f c
    · dsimp only
      split
      · exact (writeStale_keeps _).trans (mapCell_setState_keeps (by decide))
      · exact mapCell_setState_keeps (by decide)
    · exact .refl s
    · exact .refl s
  · exact .refl s

theorem spoilCell_keeps (f : Fin 4) (c : Nat) : Keeps s (s.spoilCell f c) := by
  unfold State.spoilCell
  exact Keeps.trans (mapCell_setState_keeps (by decide)) (memError_keeps _)

/-- R114: a share on a record outside the progress block, after a change that keeps the invariants. -/
theorem Keeps.takeShare (k : Keeps s t) {off : Nat} (place : s.FieldsOk → Config.generalBase ≤ off) (f : Fin 4) (c : Nat) (tag : Tag) (V : Int)
    (w : Nat) (cl : Bool) : Keeps s (t.takeShare f c off tag V w cl).1 := by
  unfold State.takeShare
  split
  · exact k
  split
  · exact k
  split
  · exact k.trans (spoilCell_keeps f c)
  · have written := k.writeBytes (fun fields _ => place fields) ((readRecord t.mem off).share V w cl).1.bytes
    dsimp only
    split
    · exact written.trans (mapCell_keeps fun _ ok => ok.noteExposure tag)
    · exact written

theorem Keeps.takeMask (k : Keeps s t) {off : Nat} (place : s.FieldsOk → Config.generalBase ≤ off) (f : Fin 4) (c : Nat) (flag : MaskFlag) :
    Keeps s (t.takeMask f c off flag) := by
  unfold State.takeMask
  split
  · exact k
  split
  · exact k
  split
  · exact k.trans (spoilCell_keeps f c)
  · exact k.writeBytes (fun fields _ => place fields) _

theorem Field.recordOff_ge (f : Field) (i j : Nat) : f.base ≤ f.recordOff i j := Nat.le_add_right _ _

theorem touchShare_keeps (f : Fin 4) (i j : Nat) (tag : Tag) (V : Int) (w : Nat) (cl : Bool) :
    Keeps s (s.touchShare f i j tag V w cl).1 := by
  unfold State.touchShare
  split
  · exact .refl s
  · next fd here => exact (prepareCell_keeps _ _).takeShare (fun ok => (ok.1 f fd here).base_le.trans (fd.recordOff_ge i j)) _ _ _ _ _ _

theorem touchMask_keeps (f : Fin 4) (i j : Nat) (flag : MaskFlag) : Keeps s (s.touchMask f i j flag) := by
  unfold State.touchMask
  split
  · exact .refl s
  · next fd here => exact (prepareCell_keeps _ _).takeMask (fun ok => (ok.1 f fd here).base_le.trans (fd.recordOff_ge i j)) _ _ _

theorem noteDeposits_keeps (f : Fin 4) (cells : List Nat) : Keeps s (s.noteDeposits f cells) :=
  Keeps.foldl _ (fun _ _ => mapCell_keeps (by exact fun _ ok => ⟨ok.1, ok.2.1, ok.2.2.1, satAdd_le _ _⟩)) cells s

/-! ### The row deposit (R90, R132 to R135) -/

theorem depositTarget_keeps (o : Assembly) (v : Int) (cl : Bool) (a : RowRun) (x : Target) : Keeps a.st (depositTarget o v cl a x).st := by
  unfold depositTarget
  split
  · exact .refl _
  split
  · dsimp only
    split
    · exact .refl _
    · split <;> exact touchShare_keeps _ _ _ _ _ _ _
  · exact .refl _

theorem maskTarget_keeps (o : Assembly) (flag : MaskFlag) (a : RowRun) (x : Target) : Keeps a.st (maskTarget o flag a x).st := by
  unfold maskTarget
  split
  · exact .refl _
  split
  · exact touchMask_keeps _ _ _ _
  · exact .refl _

theorem rowFold_keeps {α : Type} (f : RowRun → α → RowRun) (h : ∀ a x, Keeps a.st (f a x).st) (l : List α) (a : RowRun) :
    Keeps a.st (l.foldl f a).st := by
  induction l generalizing a with
  | nil => exact .refl _
  | cons x l ih => exact (h a x).trans (ih (f a x))

theorem depositPixel_keeps (o : Assembly) (p : Placement) (x y : Nat) (out : PixelOutcome) (a : RowRun) :
    Keeps a.st (depositPixel o p x y out a).st := by
  unfold depositPixel
  dsimp only
  split
  · exact rowFold_keeps _ (maskTarget_keeps o _) _ { a with res := { a.res with saturated := satAdd a.res.saturated 1 } }
  · exact rowFold_keeps _ (maskTarget_keeps o _) _ { a with res := { a.res with bad := satAdd a.res.bad 1 } }
  · split
    · exact rowFold_keeps _ (depositTarget_keeps o _ _) _ { a with res := { a.res with clamped := satAdd a.res.clamped 1 } }
    · exact rowFold_keeps _ (depositTarget_keeps o _ _) _ a

theorem serveRow_keeps (views : List RowView) (o : Assembly) (n : SlotNo) (seg : SegNo) (r : Nat) : Keeps s (s.serveRow views o n seg r) := by
  unfold State.serveRow
  split
  · dsimp only
    refine .ite (fun _ => ?_) fun _ => ?_
    · exact ((Keeps.foldl _ (fun _ _ => memError_keeps _) _ s).trans (mapResults_keeps _)).trans (setCursor_keeps _ _)
    · refine (((rowFold_keeps _ (fun a x => depositPixel_keeps o _ x r _ a) _ ⟨s, _, _, _⟩).trans (noteDeposits_keeps _ _)).trans
        (mapServing_keeps ?_ ?_)).trans (setCursor_keeps _ _)
      · exact fun _ => rfl
      · exact fun _ => rfl
  · exact .refl s

theorem searchRow_keeps (views : List RowView) (l : List SegNo) : Keeps s (s.searchRow views l) := by
  induction l generalizing s with
  | nil => exact .refl s
  | cons seg l ih =>
    unfold State.searchRow
    split
    · split
      · split
        · split
          · refine ((serveRow_keeps _ _ _ _ _).trans (mapServing_keeps ?_ ?_)).trans (finishTest_keeps _)
            · exact fun _ => rfl
            · exact fun _ => rfl
          · exact (finishTest_keeps _).trans ih
        · exact ih
      · exact ih
    · exact .refl s

theorem checkCurrent_keeps : Keeps s s.checkCurrent := by
  unfold State.checkCurrent
  split
  · split
    · exact .ite (fun _ => .refl s) fun _ => mapServing_keeps (by exact fun _ => rfl) (by exact fun _ => rfl)
    · exact .refl s
  · exact .refl s

theorem tileRow_keeps (views : List RowView) : Keeps s (s.tileRow views) := by
  have chosen : Keeps s s.checkCurrent.choose := checkCurrent_keeps.trans choose_keeps
  unfold State.tileRow
  dsimp only
  split
  · split
    · split
      · split
        · split
          · exact chosen.trans (((serveRow_keeps _ _ _ _ _).trans (finishTest_keeps _)).trans choose_keeps)
          · exact chosen
        · exact chosen
      · exact chosen
    · exact chosen
  · exact chosen

theorem rowEvent_keeps (views : List RowView) : Keeps s (s.rowEvent views) := by
  unfold State.rowEvent
  split
  · split
    · exact (tileRow_keeps views).trans endTest_keeps
    · exact (searchRow_keeps views _).trans endTest_keeps
  · exact .refl s

/-! ### The order of the service unit -/

/-- R145, R165: a service order lies outside the progress block with its record, and with its products when it is a FINALIZE. -/
def ServiceOrder.Placed (x : ServiceOrder) : Prop := Config.generalBase ≤ x.record ∧ ∀ o, x = .finalize o → Config.generalBase ≤ o.base

theorem State.PlacesOk.placed {x : ServiceOrder} (h : s.service = some x) (ok : s.PlacesOk) : x.Placed :=
  ⟨ok.2.1 x h, fun o eq => ok.2.2 o (eq ▸ h)⟩

/-- The service unit holds another order, or none: an order it then holds lies outside the progress block, and does not name the field of
an ASSEMBLE in flight. -/
theorem setService_keeps {x : Option ServiceOrder} (h : ∀ y, x = some y → (s.FieldsOk → s.PlacesOk → y.Placed)
    ∧ (s.OrdersOk → ∀ o, s.assembly = some o → y.field? ≠ some o.field.val)) : Keeps s { s with service := x } :=
  (Keeps.refl s).step (touches_service s x) (orders := fun _ ok o y held hy => (h y hy).2 ok o held)
    (places := fun _ fields ok => ⟨ok.1, fun y hy => ((h y hy).1 fields ok).1, fun o ho => ((h _ ho).1 fields ok).2 o rfl⟩)

theorem noService_keeps : Keeps s { s with service := none } := setService_keeps fun _ h => nomatch h

/-- The order of the service unit goes on with its record, its field and its products. -/
theorem sameService_keeps {x y : ServiceOrder} (here : s.service = some x) (field : y.field? = x.field?)
    (placed : x.Placed → y.Placed) : Keeps s { s with service := some y } := by
  refine setService_keeps fun z eq => ?_
  cases eq
  rw [field]
  exact ⟨fun _ ok => placed (ok.placed here), fun ok o held => ok o x held here⟩

/-- R168: the order of the service unit leaves it and retires. -/
theorem retireService_keeps {x : ServiceOrder} (here : s.service = some x) (k : Keeps s t) (st : Status) (rs : List Nat) :
    Keeps s (({ t with service := none } : State).retire x.record st rs) :=
  (k.trans noService_keeps).retire (fun _ ok => (ok.placed here).1) st rs

/-! ### Banks and maps -/

theorem setBanks_keeps (x : Vector (Option Bank) 8) : Keeps s { s with banks := x } := (Keeps.refl s).step (touches_banks s x)

theorem startReads_keeps : Keeps s s.startReads := (Keeps.refl s).step (startReads_touches s)

theorem finishDefine_keeps (early : List EarlyRead) : Keeps s (s.finishDefine early) := by
  unfold State.finishDefine
  split
  · next rec _ _ _ here =>
    have left : Keeps s { s with service := none } := noService_keeps
    dsimp only
    split
    · exact (left.trans (setBanks_keeps _)).retire (fun _ ok => (ok.placed here).1) _ _
    · exact left.retire (fun _ ok => (ok.placed here).1) _ _
    · exact (left.trans (memError_keeps _)).retire (fun _ ok => (ok.placed here).1) _ _
  · exact .refl s

theorem takeDefineBank_keeps {off : Nat} (k : Nat) (place : Config.generalBase ≤ off) : Keeps s (s.takeDefineBank off k) := by
  unfold State.takeDefineBank
  split
  · exact (Keeps.refl s).retire (fun _ _ => place) _ _
  · dsimp only
    split
    · exact (setBanks_keeps _).retire (fun _ _ => place) _ _
    · next bank _ _ m _ =>
      refine Keeps.trans ?_ startReads_keeps
      refine (setBanks_keeps (s.banks.set bank none)).trans (setService_keeps (s := { s with banks := s.banks.set bank none }) fun y eq => ?_)
      cases eq
      exact ⟨fun _ _ => ⟨place, nofun⟩, fun _ _ _ => nofun⟩

theorem beginLoad_keeps (o : Bool) (p : LoadPhase) : Keeps s (s.beginLoad o p) := (Keeps.refl s).step (beginLoad_touches s o p)

theorem loadMap_placed {off : Nat} (place : Config.generalBase ≤ off) (image : Option Nat) (begun : Bool) :
    (ServiceOrder.loadMap off image begun).Placed := ⟨place, nofun⟩

theorem takeLoadMap_keeps {off : Nat} (place : Config.generalBase ≤ off) : Keeps s (s.takeLoadMap off) := by
  have taken (image : Option Nat) (begun : Bool) : Keeps s { s with service := some (.loadMap off image begun) } :=
    setService_keeps fun y eq => by
      cases eq
      exact ⟨fun _ _ => loadMap_placed place image begun, fun _ _ _ => nofun⟩
  unfold State.takeLoadMap
  refine .ite (fun _ => ?_) fun _ => (Keeps.refl s).retire (fun _ _ => place) _ _
  dsimp only
  split
  · exact (taken _ _).trans (beginLoad_keeps _ _)
  · exact taken _ _

theorem beginWaitingLoad_keeps : Keeps s s.beginWaitingLoad := by
  unfold State.beginWaitingLoad
  split
  · next here _ => exact Keeps.trans (sameService_keeps here (by rfl) (by exact fun p => loadMap_placed p.1 _ _)) (beginLoad_keeps _ _)
  · exact .refl s

theorem dropLoad_keeps : Keeps s s.dropLoad := (Keeps.refl s).step (dropLoad_touches s)

theorem installMap_keeps (m : FocalMap) : Keeps s (s.installMap m) := (Keeps.refl s).step (installMap_touches s m)

theorem endLoadOrder_keeps (o : Bool) (st : Status) : Keeps s (s.endLoadOrder o st) := by
  unfold State.endLoadOrder
  split
  · next here => exact .ite (fun _ => retireService_keeps here (.refl s) _ _) fun _ => .refl s
  · exact .refl s

theorem endStaged_keeps (o : Bool) (m : FocalMap) : Keeps s (s.endStaged o m) := by
  have installed := installMap_keeps (s := s) m
  have counted : Keeps s { s.installMap m with freeTaken := (s.installMap m).freeTaken + 1 } :=
    installed.trans ((Keeps.refl _).step (touches_freeTaken _ _))
  exact .ite (fun _ => .ite (fun _ => (counted.trans (endLoadOrder_keeps _ _)).trans tellLinks_keeps)
    fun _ => (counted.trans tellLinks_keeps).trans (endLoadOrder_keeps _ _))
    fun _ => (installed.trans tellLinks_keeps).trans (endLoadOrder_keeps _ _)

theorem endLoad_keeps (o : Bool) (out : LoadEnd) : Keeps s (s.endLoad o out) := by
  unfold State.endLoad
  split
  · exact endStaged_keeps _ _
  · exact dropLoad_keeps.trans (endLoadOrder_keeps _ _)
  · exact ((memError_keeps _).trans dropLoad_keeps).trans (endLoadOrder_keeps _ _)

theorem flashTimeout_keeps : Keeps s s.flashTimeout := by
  unfold State.flashTimeout
  split
  · exact .ite (fun _ => endLoad_keeps _ _) fun _ => .refl s
  · exact .refl s

theorem finishLoad_keeps (flash : List Byte) (early : List EarlyRead) : Keeps s (s.finishLoad flash early) := by
  unfold State.finishLoad
  split
  · exact endLoad_keeps _ _
  · exact endLoad_keeps _ _
  · exact .refl s

/-! ### DEFINE_FIELD and CLEAR_FIELD -/

theorem idx?_some {k n : Nat} {i : Fin k} (h : idx? k n = some i) : i.val = n := by
  unfold idx? at h
  split at h <;> cases h
  rfl

theorem overlaps_eq_false_iff {a n b m : Nat} (hn : 0 < n) (hm : 0 < m) : overlaps a n b m = false ↔ a + n ≤ b ∨ b + m ≤ a := by
  simp only [overlaps, hn, hm, decide_true, Bool.true_and, Bool.and_eq_false_iff, decide_eq_false_iff_not, Nat.not_lt]
  exact or_comm

theorem Field.Ok.regionBytes_pos {f : Field} (h : f.Ok) : 0 < f.regionBytes := by
  obtain ⟨cols, rows, -⟩ := h
  exact Nat.mul_pos (Nat.mul_pos cols.1 rows.1) (by decide)

/-- R107, check 3: a field that is not DEFINED has no cell to be other than VACANT. -/
def State.vacantAt (s : State) (k : Fin 4) : Bool :=
  match s.fields[k] with
  | some f => f.allVacant
  | none => true

/-- R107: the checks of a DEFINE_FIELD, once its field number is one of the four. -/
theorem checkDefine_of_number {fieldNo : Nat} {k : Fin 4} (h : idx? 4 fieldNo = some k) (s : State) (cols rows : Nat) (ou ov : Int) (base : Nat) :
    s.checkDefine fieldNo cols rows ou ov base
      = if !sizeFits cols rows then .error .badField
        else if s.vacantAt k = false then .error .fieldBusy
        else if cols = 0 then .ok (k, none)
        else if ¬(base % 4096 = 0 ∧ inGeneral base (cols * rows * Config.cellBytes) = true) then .error .regionRange
        else if !s.clearOfOthers k base (cols * rows * Config.cellBytes) then .error .regionOverlap
        else .ok (k, some (newField ou ov cols rows base)) := by
  unfold State.checkDefine
  rw [h]
  rfl

/-- R107, R108: what the checks of a DEFINE_FIELD pass is an undefined field, or a good one that lies apart from every other. -/
theorem checkDefine_ok {fieldNo cols rows base : Nat} {ou ov : Int} {k : Fin 4} {x : Option Field}
    (h : s.checkDefine fieldNo cols rows ou ov base = .ok (k, x)) (ok : s.FieldsOk) : (s.setField k x).FieldsOk := by
  cases number : idx? 4 fieldNo with
  | none => rw [State.checkDefine, number] at h; cases h
  | some i =>
  rw [checkDefine_of_number number] at h
  split at h
  · cases h
  next sizes =>
  split at h
  · cases h
  split at h
  · cases h
    exact ok.setField nofun nofun
  next some_cols =>
  split at h
  · cases h
  next place =>
  split at h
  · cases h
  next clear =>
  cases h
  simp only [Bool.not_eq_true, Bool.not_eq_false', sizeFits, Bool.or_eq_true, decide_eq_true_eq, some_cols, false_and, false_or] at sizes
  simp only [not_not, inGeneral, Bool.and_eq_true, decide_eq_true_eq] at place
  simp only [Bool.not_eq_true, Bool.not_eq_false', State.clearOfOthers, List.all_eq_true, List.mem_finRange, true_implies, Bool.or_eq_true,
    decide_eq_true_eq] at clear
  have good : (newField ou ov cols rows base).Ok :=
    ⟨⟨sizes.1, sizes.2.1⟩, sizes.2.2, place.1, place.2, List.length_replicate, fun d hd => List.eq_of_mem_replicate hd ▸ DirCell.vacant_ok⟩
  refine ok.setField (fun d eq => ?_) fun d eq j g ne hg => ?_
  · cases eq
    exact good
  · cases eq
    have apart := (clear j).resolve_left ne
    rw [hg, Bool.not_eq_true'] at apart
    exact (overlaps_eq_false_iff (n := cols * rows * Config.cellBytes) good.regionBytes_pos (ok.1 j g hg).regionBytes_pos).mp apart

theorem takeDefineField_keeps {off : Nat} (fieldNo : Nat) (place : Config.generalBase ≤ off) : Keeps s (s.takeDefineField off fieldNo) := by
  unfold State.takeDefineField
  split
  · exact (Keeps.refl s).retire (fun _ _ => place) _ _
  · next k x checked =>
    exact ((Keeps.refl s).step (setField_touches s k x) (fields := fun _ => checkDefine_ok checked)).retire (fun _ _ => place) _ _

theorem fieldNo?_some {fieldNo : Nat} {k : Fin 4} {f : Field} (h : s.fieldNo? fieldNo = some (k, f)) : k.val = fieldNo ∧ s.fields[k] = some f := by
  unfold State.fieldNo? at h
  split at h
  · next i number =>
    obtain ⟨g, here, eq⟩ := Option.map_eq_some_iff.mp h
    cases eq
    exact ⟨idx?_some number, here⟩
  · cases h

/-- R166: no ASSEMBLE into the field of a number is in flight. -/
def State.FieldFree (s : State) (fieldNo : Nat) : Prop := ∀ o, s.assembly = some o → o.field.val ≠ fieldNo

theorem takeClear_keeps {off fieldNo : Nat} (place : Config.generalBase ≤ off) (free : s.FieldFree fieldNo) : Keeps s (s.takeClear off fieldNo) := by
  unfold State.takeClear
  split
  · exact (Keeps.refl s).retire (fun _ _ => place) _ _
  · next k f found =>
    refine .ite (fun _ => setService_keeps fun y eq => ?_) fun _ => (Keeps.refl s).retire (fun _ _ => place) _ _
    cases eq
    refine ⟨fun _ _ => ⟨place, nofun⟩, fun _ o held same => free o held ?_⟩
    rw [← (fieldNo?_some found).1]
    exact (Option.some.inj same).symm

theorem clearNext_keeps : Keeps s s.clearNext := by
  unfold State.clearNext
  split
  · next rec f r k here =>
    have cleared (c : Nat) : Keeps s (s.mapCell f c fun _ => DirCell.vacant) := mapCell_keeps fun _ _ => DirCell.vacant_ok
    have still (c : Nat) : (s.mapCell f c fun _ => DirCell.vacant).service = some (.clearField rec f r k) := by
      rw [mapCell_touches s f c _ .service (by decide)]
      exact here
    refine .ite (fun _ => (cleared _).trans (sameService_keeps (still _) rfl fun p => ⟨p.1, nofun⟩)) fun _ => ?_
    exact retireService_keeps here (cleared _) _ _
  · exact .refl s

/-! ### FINALIZE -/

theorem takeFinalize_keeps {off fieldNo : Nat} (place : Config.generalBase ≤ off) (free : s.FieldFree fieldNo) :
    Keeps s (s.takeFinalize off fieldNo) := by
  have failed (st : Status) : Keeps s (s.retire off st []) := (Keeps.refl s).retire (fun _ _ => place) st []
  unfold State.takeFinalize
  split
  · exact failed _
  next k f found =>
  refine .ite (fun _ => failed _) fun _ => .ite (fun _ => failed _) fun region => .ite (fun _ => failed _) fun _ => setService_keeps fun y eq => ?_
  cases eq
  refine ⟨fun _ _ => ⟨place, fun o eq => ?_⟩, fun _ o held same => free o held ?_⟩
  · cases eq
    simp only [not_not, inGeneral, Bool.and_eq_true, decide_eq_true_eq] at region
    exact region.2.1
  · rw [← (fieldNo?_some found).1]
    exact (Option.some.inj same).symm

/-- R146: the products of a FINALIZE in flight lie outside the progress block. -/
theorem Finalize.product_ge {o : Finalize} (here : s.service = some (.finalize o)) (_ : s.FieldsOk) (ok : s.PlacesOk) :
    Config.generalBase ≤ o.product := (ok.2.2 o here).trans (Nat.le_add_right _ _)

theorem finalize_placed {o o' : Finalize} (record : o'.record = o.record) (base : o'.base = o.base) (h : (ServiceOrder.finalize o).Placed) :
    (ServiceOrder.finalize o').Placed := by
  refine ⟨?_, fun x eq => ?_⟩
  · show Config.generalBase ≤ o'.record
    rw [record]
    exact h.1
  · cases eq
    rw [base]
    exact h.2 o rfl

theorem openCell_keeps : Keeps s s.openCell := by
  unfold State.openCell
  split
  · next o here =>
    split
    · have written := (Keeps.refl s).writeBytes (Finalize.product_ge here) (leBytes 4 1)
      refine written.trans (sameService_keeps (s := { s with mem := _ }) here ?_ (finalize_placed ?_ ?_))
      all_goals rfl
    · exact .refl s
  · exact .refl s

theorem writePlanes_wf {m : List Host.Cell} (product q : Nat) (px : List Published) (h : Memory.wf m) : Memory.wf (writePlanes product q px m) :=
  Memory.writeBytes_wf _ _ _ (Memory.writeBytes_wf _ _ _ (Memory.writeBytes_wf _ _ _ h))

theorem read_writePlanes_below {product a : Nat} (h : a < product) (q : Nat) (px : List Published) (m : List Host.Cell) :
    Memory.read (writePlanes product q px m) a = Memory.read m a := by
  unfold writePlanes
  dsimp only
  rw [Memory.read_writeBytes_outside, Memory.read_writeBytes_outside, Memory.read_writeBytes_outside] <;> omega

theorem publishRow_keeps : Keeps s s.publishRow := by
  unfold State.publishRow
  split
  · next o here =>
    split
    · split
      · exact .refl s
      dsimp only
      refine .ite (fun _ => ?_) fun _ => ?_
      · refine (spoilCell_keeps o.field _).trans (sameService_keeps (x := .finalize o) ?_ ?_ (finalize_placed ?_ ?_))
        · rw [spoilCell_touches s _ _ .service (by decide)]
          exact here
        all_goals rfl
      · refine Keeps.trans ((Keeps.refl s).mem (writePlanes_wf o.product _ _) fun f p a ha => ?_)
          (sameService_keeps (s := { s with mem := _ }) here ?_ (finalize_placed ?_ ?_))
        · exact read_writePlanes_below (Nat.lt_of_lt_of_le ha (Finalize.product_ge here f p)) _ _ _
        all_goals rfl
    · exact .refl s
  · exact .refl s

theorem closeCell_keeps : Keeps s s.closeCell := by
  unfold State.closeCell
  split
  · next o here =>
    split
    · split
      · exact .refl s
      next fd _ =>
      have written (bytes : List Byte) (c : Nat) : Keeps s (({ s with mem := Memory.writeBytes s.mem o.product bytes } : State).mapCell
          o.field c (DirCell.productWritten o.product)) :=
        ((Keeps.refl s).writeBytes (Finalize.product_ge here) bytes).trans (mapCell_keeps fun _ ok => ok.productWritten _)
      have still (bytes : List Byte) (c : Nat) : (({ s with mem := Memory.writeBytes s.mem o.product bytes } : State).mapCell
          o.field c (DirCell.productWritten o.product)).service = some (.finalize o) := by
        rw [mapCell_touches _ o.field c _ .service (by decide)]
        exact here
      dsimp only
      refine .ite (fun _ => (written _ _).trans (sameService_keeps (still _ _) ?_ (finalize_placed ?_ ?_))) fun _ => ?_
      · rfl
      · rfl
      · rfl
      · exact retireService_keeps here (written _ _) _ _
    · exact .refl s
  · exact .refl s

/-! ### ABORT and resets at the service unit -/

theorem abortService_keeps : Keeps s s.abortService := by
  unfold State.abortService
  split
  · exact .refl s
  · next here => exact retireService_keeps here (.refl s) _ _
  · next here => exact retireService_keeps here (.refl s) _ _
  · next here => exact retireService_keeps here (.refl s) _ _
  · next rec _ begun here =>
    dsimp only
    split
    · exact (noService_keeps.trans dropLoad_keeps).retire (fun _ ok => (ok.placed here).1) _ _
    · exact retireService_keeps here (.refl s) _ _

theorem dropService_keeps : Keeps s s.dropService := by
  unfold State.dropService
  split
  · exact noService_keeps.trans dropLoad_keeps
  · exact noService_keeps

end Sys2Proof.Machine
end

section
/-! What the walker's examinations, the host port and the resets keep, and with them every command: the invariants of chapters 2, 4, 7, 10
and 11 hold after each step, and the progress block is written by mirror writes alone (O52 to O54, O56 to O60). -/

-- One theorem at a time: the threads of a parallel elaboration reserve more memory than the check allows.
set_option Elab.async false

namespace Sys2Proof.Machine

variable {s t u : State} {ps : List Part}

/-! ### What an order's take-up leaves of the walker -/

/-- Between two states the walker keeps its state, its cursor, whether it is parked, and its poll timer. -/
structure WalkerSteady (s t : State) : Prop where
  state : t.walker.state = s.walker.state
  cursor : t.walker.cursor = s.walker.cursor
  parked : t.walker.parked = s.walker.parked
  pollTimer : t.walker.pollTimer = s.walker.pollTimer

theorem WalkerSteady.trans (h : WalkerSteady s t) (g : WalkerSteady t u) : WalkerSteady s u :=
  ⟨g.state.trans h.state, g.cursor.trans h.cursor, g.parked.trans h.parked, g.pollTimer.trans h.pollTimer⟩

theorem WalkerSteady.of_eq (h : t.walker = s.walker) : WalkerSteady s t := ⟨by rw [h], by rw [h], by rw [h], by rw [h]⟩

theorem WalkerSteady.refl (s : State) : WalkerSteady s s := .of_eq rfl

theorem WalkerSteady.frame (h : Touches ps s t) (untouched : Part.walker ∉ ps := by decide) : WalkerSteady s t := .of_eq (h .walker untouched)

theorem faultRecord_steady (why : FaultReason) (off : Nat) : WalkerSteady s (s.faultRecord why off) := by
  unfold State.faultRecord
  exact WalkerSteady.trans (t := s.setWalker _) ⟨by rw [setWalker_walker], by rw [setWalker_walker], by rw [setWalker_walker],
    by rw [setWalker_walker]⟩ (.frame (raise_touches _ _))

theorem retire_steady (off : Nat) (st : Status) (rs : List Nat) : WalkerSteady s (s.retire off st rs) := by
  unfold State.retire
  split
  · exact (WalkerSteady.frame (memError_touches _ _)).trans (faultRecord_steady _ _)
  · split
    · exact WalkerSteady.trans (t := State.setWalker _ _) ⟨by rw [setWalker_walker], by rw [setWalker_walker], by rw [setWalker_walker],
        by rw [setWalker_walker]⟩ (.frame (alertRetirement_touches _))
    · exact faultRecord_steady _ _

theorem endTest_steady : WalkerSteady s s.endTest := by
  unfold State.endTest
  split
  · split
    · exact .refl s
    · next o _ _ => exact (WalkerSteady.frame (((mapEntry_touches s o.tag _).trans (removalCheck_touches _ _)).andThen (touches_deposit _ .idle) :
        Touches [.exposures, .mirror, .deposit] _ _)).trans (retire_steady _ _ _)
  · exact .refl s

theorem bind_steady (o : Assembly) : WalkerSteady s (s.bind o) := by
  unfold State.bind
  exact (WalkerSteady.frame (((((mapEntry_touches s _ _).andThen (touches_deposit _ _) : Touches [.exposures, .slots, .mirror, .deposit] _ _)).trans
    (Touches.foldl _ (fun t seg => bindSegment_touches t _ o seg) _ _)).trans (choose_touches _))).trans endTest_steady

theorem takeAssemble_steady (off : Nat) (tag : Tag) (f b : Nat) : WalkerSteady s (s.takeAssemble off tag f b) := by
  unfold State.takeAssemble
  split
  · exact retire_steady _ _ _
  · split
    · exact bind_steady _
    · exact .of_eq rfl

theorem takeFinalize_steady (off f : Nat) : WalkerSteady s (s.takeFinalize off f) := by
  unfold State.takeFinalize
  split
  · exact retire_steady _ _ _
  · dsimp only
    split
    · exact retire_steady _ _ _
    split
    · exact retire_steady _ _ _
    split
    · exact retire_steady _ _ _
    · exact .of_eq rfl

theorem takeClear_steady (off f : Nat) : WalkerSteady s (s.takeClear off f) := by
  unfold State.takeClear
  split
  · exact retire_steady _ _ _
  · dsimp only
    split
    · exact .of_eq rfl
    · exact retire_steady _ _ _

theorem takeDefineField_steady (off f : Nat) : WalkerSteady s (s.takeDefineField off f) := by
  unfold State.takeDefineField
  split
  · exact retire_steady _ _ _
  · exact (WalkerSteady.frame (setField_touches s _ _)).trans (retire_steady _ _ _)

theorem takeDefineBank_steady (off k : Nat) : WalkerSteady s (s.takeDefineBank off k) := by
  unfold State.takeDefineBank
  split
  · exact retire_steady _ _ _
  · dsimp only
    split
    · exact (WalkerSteady.frame (touches_banks s _)).trans (retire_steady _ _ _)
    · exact .of_eq rfl

theorem takeDiscard_steady (off : Nat) (tag : Tag) : WalkerSteady s (s.takeDiscard off tag) := by
  unfold State.takeDiscard
  split
  · exact retire_steady _ _ _
  · exact (WalkerSteady.frame ((((discardSlots_touches tag _ (s, 0)).andThen (mapEntry_touches _ _ _) :
      Touches [.exposures, .slots, .mirror] _ _).andThen (removalCheck_touches _ _) :
      Touches [.exposures, .slots, .mirror] _ _).andThen
      (Touches.foldl _ (fun t l => refuseLink_touches t tag l) _ _) : Touches [.links, .exposures, .slots, .mirror] _ _)).trans
      (retire_steady _ _ _)

theorem takeLoadMap_steady (off : Nat) : WalkerSteady s (s.takeLoadMap off) := by
  unfold State.takeLoadMap
  dsimp only
  split
  · split
    · exact WalkerSteady.trans (t := { s with service := some _ }) (.of_eq rfl) (.frame (beginLoad_touches _ _ _))
    · exact .of_eq rfl
  · exact retire_steady _ _ _

theorem failUnread_steady (off : Nat) (h : OrderHead) : WalkerSteady s (s.failUnread off h) := by
  unfold State.failUnread
  refine WalkerSteady.trans ?_ (retire_steady _ _ _)
  split
  · exact (WalkerSteady.frame (emptyBank_touches s _)).trans (.frame (memError_touches _ _))
  · exact .frame (memError_touches _ _)

theorem dispatch_steady (off : Nat) (h : OrderHead) : WalkerSteady s (s.dispatch off h) := by
  unfold State.dispatch
  split
  · exact retire_steady _ _ _
  split
  · exact failUnread_steady _ _
  split
  · exact takeAssemble_steady _ _ _ _
  split
  · exact takeFinalize_steady _ _
  split
  · exact takeClear_steady _ _
  split
  · exact takeDefineField_steady _ _
  split
  · exact takeDefineBank_steady _ _
  split
  · exact takeDiscard_steady _ _
  · exact takeLoadMap_steady _

/-! ### Take-up -/

theorem emptyBank_keeps (k : Nat) : Keeps s (s.emptyBank k) := (Keeps.refl s).step (emptyBank_touches s k)

theorem failUnread_keeps {off : Nat} (h : OrderHead) (place : Config.generalBase ≤ off) : Keeps s (s.failUnread off h) := by
  unfold State.failUnread
  have emptied : Keeps s (if h.kind = 5 then s.emptyBank h.bank else s) := .ite (fun _ => emptyBank_keeps _) fun _ => .refl s
  exact (emptied.trans (memError_keeps _)).retire (fun _ _ => place) _ _

/-- R166: an ASSEMBLE that is not held names no field that a service order names. -/
theorem State.serviceNames_of_not_held {h : OrderHead} (free : s.held h = false) (kind : h.kind = 1) : s.serviceNames h.field = false := by
  simp only [State.held, kind, if_true, Bool.or_eq_false_iff] at free
  exact free.1.1.1.1.2.2

/-- R166: a FINALIZE, CLEAR_FIELD or DEFINE_FIELD that is not held names another field than the ASSEMBLE in flight. -/
theorem State.fieldFree_of_not_held {h : OrderHead} (free : s.held h = false) (kind : h.kind = 2 ∨ h.kind = 3 ∨ h.kind = 4) :
    s.FieldFree h.field := by
  intro o held eq
  simp only [State.held, kind, decide_true, Bool.true_and, Bool.or_eq_false_iff, State.assemblyHas, held, eq] at free
  exact absurd free.1.1.1.2 (by decide)

theorem dispatch_keeps {off : Nat} {h : OrderHead} (place : Config.generalBase ≤ off) (free : s.held h = false) : Keeps s (s.dispatch off h) := by
  unfold State.dispatch
  split
  · exact (Keeps.refl s).retire (fun _ _ => place) _ _
  split
  · exact failUnread_keeps h place
  split
  · next kind => exact takeAssemble_keeps _ _ place (State.serviceNames_of_not_held free kind)
  split
  · next kind => exact takeFinalize_keeps place (State.fieldFree_of_not_held free (.inl kind))
  split
  · next kind => exact takeClear_keeps place (State.fieldFree_of_not_held free (.inr (.inl kind)))
  split
  · exact takeDefineField_keeps _ place
  split
  · exact takeDefineBank_keeps _ place
  split
  · exact takeDiscard_keeps _ place
  · exact takeLoadMap_keeps place

/-! ### Examinations -/

theorem offsetPasses_iff {off : Nat} : offsetPasses off = true ↔ off % 128 = 0 ∧ Config.generalBase ≤ off ∧ off + 128 ≤ Config.poolBase := by
  simp [offsetPasses, inGeneral]

theorem markTaken_keeps {off : Nat} (place : Config.generalBase ≤ off) : Keeps s (s.markTaken off) := by
  have taken := (Keeps.refl s).writeBytes (fun _ _ => place) (leBytes 4 2)
  exact taken.writeBytes (fun _ _ => Nat.le_add_right_of_le place) (leBytes 8 s.timeBase)

theorem held_markTaken (off : Nat) (h : OrderHead) : (s.markTaken off).held h = s.held h := rfl

/-- An examination moves on only in a walker that stays RUNNING. -/
theorem followNext_keeps : Keeps s s.followNext.1 ∧ (s.followNext.2 = true → s.followNext.1.walker.state = s.walker.state) := by
  unfold State.followNext
  dsimp only
  split
  · exact ⟨(memError_keeps _).trans (chainFault_keeps _ _), nofun⟩
  split
  · exact ⟨setWalker_keeps id, nofun⟩
  split
  · exact ⟨setWalker_keeps id, fun _ => by rw [setWalker_walker]⟩
  · dsimp only
    exact ⟨chainFault_keeps _ _, nofun⟩

theorem examineRecord_keeps : Keeps s s.examineRecord.1 ∧ (s.examineRecord.2 = true → s.examineRecord.1.walker.state = s.walker.state) := by
  unfold State.examineRecord
  dsimp only
  split
  · exact ⟨chainFault_keeps _ _, nofun⟩
  next passes =>
  split
  · exact ⟨(memError_keeps _).trans (chainFault_keeps _ _), nofun⟩
  split
  · exact ⟨.refl s, nofun⟩
  split
  · split
    · exact ⟨.refl s, nofun⟩
    · next free =>
      have place : Config.generalBase ≤ s.walker.cursor := (offsetPasses_iff.mp (by simpa using passes)).2.1
      have taken : Keeps s ((s.markTaken s.walker.cursor).dispatch s.walker.cursor (readHead s.mem s.walker.cursor)) :=
        (markTaken_keeps place).trans (dispatch_keeps place ((held_markTaken _ _).trans (by simpa using free)))
      refine ⟨taken.trans followNext_keeps.1, fun moves => (followNext_keeps.2 moves).trans ?_⟩
      exact ((WalkerSteady.of_eq rfl : WalkerSteady s (s.markTaken s.walker.cursor)).trans (dispatch_steady _ _)).state
  · exact ⟨chainFault_keeps _ _, nofun⟩

theorem startPoll_keeps (running : s.walker.state = .running) : Keeps s s.startPoll :=
  (Keeps.refl s).step (startPoll_touches s) (walker := fun _ ok => ⟨fun h => absurd running h, ok.2⟩)

theorem examineOnce_keeps (running : s.walker.state = .running) :
    Keeps s s.examineOnce.1 ∧ (s.examineOnce.2 = true → s.examineOnce.1.walker.state = .running) := by
  have started := startPoll_keeps running
  unfold State.examineOnce
  dsimp only
  split
  · exact ⟨started.trans followNext_keeps.1, fun moves => (followNext_keeps.2 moves).trans running⟩
  · exact ⟨started.trans examineRecord_keeps.1, fun moves => (examineRecord_keeps.2 moves).trans running⟩

theorem examineLoop_keeps (fuel : Nat) (running : s.walker.state = .running) : Keeps s (s.examineLoop fuel) := by
  induction fuel generalizing s with
  | zero => exact .refl s
  | succ fuel ih =>
    have once := examineOnce_keeps running
    unfold State.examineLoop
    exact .ite (fun moves => once.1.trans (ih (once.2 moves))) fun _ => once.1

theorem examine_keeps : Keeps s s.examine := by
  unfold State.examine
  exact .ite (fun h => examineLoop_keeps _ h.1) fun _ => .refl s

theorem afterFlight_keeps : Keeps t (State.afterFlight s t) := by
  unfold State.afterFlight
  exact .ite (fun _ => .ite (fun _ => examine_keeps) fun _ => .ite (fun _ => .refl t) fun _ => stopWalker_keeps) fun _ => .refl t

theorem noteMemory_keeps : Keeps t (t.noteMemory s) := (Keeps.refl t).step (noteMemory_touches t s)

theorem stepWith_keeps {errs : List MemErr} {effect : State → State} (h : ∀ t, Keeps t (effect t)) : Keeps s (s.stepWith errs effect) := by
  unfold State.stepWith
  exact ((((Keeps.refl s).step (touches_errs s errs)).trans (h _)).trans afterFlight_keeps).trans noteMemory_keeps

/-! ### The host port -/

theorem startWalker_keeps : Keeps s s.startWalker :=
  Keeps.trans (setWalker_keeps (by exact fun ok => ⟨fun h => absurd rfl h, ok.2⟩)) examine_keeps

theorem abortAll_keeps : Keeps s s.abortAll := by
  unfold State.abortAll
  refine .ite (fun _ => ?_) fun _ => abortDeposit_keeps.trans abortService_keeps
  have free : Keeps s { s with freeTaken := s.freeTaken + 1 } := (Keeps.refl s).step (touches_freeTaken s _)
  exact .ite (fun _ => (free.trans abortService_keeps).trans abortDeposit_keeps) fun _ =>
    (free.trans abortDeposit_keeps).trans abortService_keeps

theorem applyRun_keeps (was : WalkerState) : Keeps s (s.applyRun was) := by
  unfold State.applyRun
  split
  · exact .ite (fun _ => startWalker_keeps) fun _ => .refl s
  · refine .ite (fun _ => .refl s) fun _ => .ite (fun _ => ?_) fun _ => stopWalker_keeps
    exact (Keeps.refl s).step (touches_walker s _) (walker := fun _ ok => ⟨fun _ => rfl, ok.2⟩)

/-- A change of the registers that keeps the guard drop count at or below its maximum. -/
theorem setPort_keeps {x : HostPort} (h : s.port.guardDrops ≤ Config.counterMax → x.guardDrops ≤ Config.counterMax) :
    Keeps s { s with port := x } :=
  (Keeps.refl s).step (touches_port s x) (alert := fun _ ⟨ack, mem, drops⟩ => ⟨ack, mem, h drops⟩)

theorem controlWrite_keeps (c : ControlWrite) (soft : c.softReset = false) : Keeps s (s.controlWrite c) := by
  unfold State.controlWrite
  rw [if_neg (by simp [soft])]
  have kept : Keeps s { s with port := { s.port with control := ⟨c.run, c.clearMode, c.msgEn⟩ } } := setPort_keeps id
  exact kept.trans ((Keeps.ite (fun _ => abortAll_keeps) fun _ => .refl _).trans (applyRun_keeps _))

theorem writeChainStart_keeps (w : RegWrite) : Keeps s (s.writeChainStart w) := by
  unfold State.writeChainStart
  exact .ite (fun _ => setPort_keeps (by exact id)) fun _ => .refl s

theorem testMark_keeps : Keeps s s.testMark :=
  .of_counts (testMark_touches s).mono (by rw [(testMark_alert s).1]; exact id) (by rw [(testMark_alert s).2]; exact id)

theorem quietStopped_keeps : Keeps s { s with alert := { s.alert with quietTimer := none } } :=
  (Keeps.refl s).step (touches_alert s _) (alert := fun _ ok => ok)

theorem writeAlertCfg_keeps (w : RegWrite) : Keeps s (s.writeAlertCfg w) := by
  have kept : Keeps s { s with port := { s.port with alertCfg := alertCfgAfter s.port.alertCfg w } } := setPort_keeps id
  unfold State.writeAlertCfg
  dsimp only
  split
  · exact kept
  · exact kept.trans (.ite (fun _ => testMark_keeps.trans quietStopped_keeps) fun _ => testMark_keeps)

theorem writeAlert_keeps (w : RegWrite) : Keeps s (s.writeAlert w) := by
  unfold State.writeAlert
  split
  · exact .refl s
  · exact .ite (fun _ => .refl s) fun _ => acknowledge_keeps _

theorem readRegister_keeps (r : Reg) (p : RegPart) : Keeps s (s.readRegister r p) := by
  have data (x : List Byte) : Keeps s { s with readData := x } := (Keeps.refl s).step (touches_readData s x)
  cases r with
  | alert =>
    show Keeps s (s.readAlert p)
    unfold State.readAlert
    exact .ite (fun _ => (data _).trans (acknowledge_keeps _)) fun _ => data _
  | ident | control | chainStart | poll | nudge | alertCfg | cause => exact data _

theorem quietExpiry_keeps : Keeps s s.quietExpiry := by
  unfold State.quietExpiry
  split
  · exact .ite (fun _ => .ite (fun _ => quietStopped_keeps.trans (raise_keeps _)) fun _ => quietStopped_keeps) fun _ => .refl s
  · exact .refl s

theorem pollExpiry_keeps : Keeps s s.pollExpiry := by
  unfold State.pollExpiry
  split
  · exact .ite (fun _ => examine_keeps) fun _ => .refl s
  · exact .refl s

theorem dropWrite_keeps : Keeps s s.dropWrite := by
  have counted : Keeps s { s with port := { s.port with guardDrops := satAdd s.port.guardDrops 1 } } := setPort_keeps fun _ => satAdd_le _ _
  exact (counted.trans (mirrorIf_keeps _ _ _ _)).trans (raise_keeps _)

/-- R170: a host write that lands has no byte in the progress block. -/
theorem outside_block_of_not_guarded {off n : Nat} (h : s.guarded off n = false) : n = 0 ∨ Config.generalBase ≤ off := by
  by_contra outside
  have pos : 0 < n := by omega
  have progress := (overlaps_eq_false_iff pos (by decide : 0 < Config.generalBase)).mp (Bool.or_eq_false_iff.mp (Bool.or_eq_false_iff.mp h).1).1
  omega

theorem hostStore_keeps (off : Nat) (bytes : List Byte) : Keeps s (s.hostStore off bytes) := by
  unfold State.hostStore
  refine .ite (fun _ => dropWrite_keeps) fun free => Keeps.trans ?_ noteMemory_keeps
  refine (Keeps.refl s).mem (Memory.writeBytes_wf _ _ _) fun _ _ a ha => Memory.read_writeBytes_outside _ _ _ _ ?_
  have := outside_block_of_not_guarded (by simpa using free)
  omega

theorem landRowWrites_keeps (ws : List RowWrite) : Keeps s (s.landRowWrites ws) := by
  induction ws generalizing s with
  | nil => exact .refl s
  | cons w ws ih => exact (hostStore_keeps _ _).trans ih

theorem rowStep_keeps (reads : RowReads) : Keeps s (s.rowStep reads) :=
  (landRowWrites_keeps _).trans (stepWith_keeps fun _ => rowEvent_keeps _)

theorem hostLoad_keeps (off n : Nat) : Keeps s (s.hostLoad off n) := by
  have data (x : List Byte) (k : Nat) : Keeps s { s with readData := x, freeTaken := k } :=
    ((Keeps.refl s).step (touches_readData s x)).trans ((Keeps.refl _).step (touches_freeTaken _ k))
  unfold State.hostLoad
  exact .ite (fun _ => (data _ _).trans (memError_keeps _)) fun _ => data _ _

/-! ### Resets -/

theorem queueAll_keeps (ws : List (Nat × List Byte)) : Keeps s (s.queueAll ws) := Keeps.foldl _ (fun _ _ => queueMirror_keeps _ _) ws s

theorem resetWalker_keeps : Keeps s s.resetWalker := by
  have reset : Keeps s { s with walker := { Walker.start with cursor := s.walker.cursor } } :=
    (Keeps.refl s).step (touches_walker s _) (walker := fun _ _ => ⟨fun _ => rfl, Nat.zero_lt_succ _⟩)
  exact reset.trans (queueAll_keeps _)

theorem resetAlert_keeps : Keeps s s.resetAlert := by
  have reset : Keeps s { s with alert := { AlertUnit.start with memErrors := s.alert.memErrors } } :=
    (Keeps.refl s).step (touches_alert s _) (alert := fun _ ⟨_, mem, drops⟩ => ⟨Nat.zero_le _, mem, drops⟩)
  exact reset.trans (queueAll_keeps _)

theorem resetPort_keeps (c m : Bool) : Keeps s (s.resetPort c m) := setPort_keeps id

theorem busReset_keeps : Keeps s s.busReset :=
  (((dropDeposit_keeps.trans dropService_keeps).trans (resetPort_keeps _ _)).trans resetWalker_keeps).trans resetAlert_keeps

theorem emptyPool_keeps : Keeps s s.emptyPool := by
  refine Keeps.trans (t := { s with exposures := Vector.replicate 4 none, slots := Vector.replicate 128 none }) ?_ (queueAll_keeps _)
  refine .of_pool (fun p hp => by cases p <;> first | rfl | exact absurd (by decide) hp) fun _ => State.PoolOk.of_empty rfl rfl

theorem softReset_keeps : Keeps s s.softReset :=
  ((((idle_keeps.trans dropService_keeps).trans (resetPort_keeps _ _)).trans resetWalker_keeps).trans resetAlert_keeps).trans
    (emptyPool_keeps.trans (Keeps.foldl _ (fun _ _ => softResetLink_keeps) _ _))

end Sys2Proof.Machine
end

section
/-! Every command keeps the invariants of chapters 2, 4, 7, 10 and 11 (O52 to O54, O56 to O60). -/

-- One theorem at a time: the threads of a parallel elaboration reserve more memory than the check allows.
set_option Elab.async false

namespace Sys2Proof.Machine

variable {s t u : State}

/-! ### Every command -/

theorem flashStatus_keeps (status : Byte) : Keeps s (s.flashStatus status) := (Keeps.refl s).step (flashStatus_touches s status)

theorem soft_controlWrite_keeps (c : ControlWrite) (soft : c.softReset = true) : Keeps s (s.controlWrite c) := by
  unfold State.controlWrite
  rw [if_pos soft]
  exact softReset_keeps

/-- Every command but POWER_ON and the landing of a mirror write answers a state that keeps all of it. -/
theorem exec_keeps {c : Instr} (not_power : c ≠ .powerOn) (not_mirror : ∀ off, c ≠ .mirrorWriteLands off) (h : exec c s = .next t) :
    Keeps s t := by
  have control {errs : List MemErr} {w : ControlWrite} (soft : w.softReset = false) :
      Keeps s (s.stepWith errs (State.controlWrite w)) := stepWith_keeps fun _ => controlWrite_keeps _ soft
  cases c with
  | powerOn => exact absurd rfl not_power
  | mirrorWriteLands off => exact absurd rfl (not_mirror off)
  | busReset => cases h; exact busReset_keeps
  | softReset w => cases h; exact soft_controlWrite_keeps _ rfl
  | runSet w errs => cases h; exact control rfl
  | runClear w errs => cases h; exact control rfl
  | abort w errs => cases h; exact control rfl
  | clearMode w errs => cases h; exact control rfl
  | msgEn w errs => cases h; exact control rfl
  | chainStart w => cases h; exact writeChainStart_keeps w
  | poll w => cases h; exact setPort_keeps id
  | nudge w errs => cases h; exact stepWith_keeps fun _ => examine_keeps
  | alertCfg w => cases h; exact writeAlertCfg_keeps w
  | alertWrite w => cases h; exact writeAlert_keeps w
  | alertRead p => cases h; exact readRegister_keeps .alert p
  | registerWrite w => cases h; exact .refl s
  | hostWrite off bytes => cases h; exact hostStore_keeps _ bytes
  | hostRead what errs =>
    cases what with
    | aperture off len => cases h; exact stepWith_keeps fun _ => hostLoad_keeps _ _
    | register r p => cases h; exact stepWith_keeps fun _ => readRegister_keeps r p
  | laneStartMark l n errs => cases h; exact stepWith_keeps fun _ => laneStart_keeps n
  | laneEndMark l n errs => cases h; exact stepWith_keeps fun _ => laneEnd_keeps n
  | laneDataByte l n b errs => cases h; exact stepWith_keeps fun _ => laneByte_keeps n b
  | exposureOpen l tag errs => cases h; exact stepWith_keeps fun _ => packetArrives_keeps _ _
  | exposureClose l tag errs => cases h; exact stepWith_keeps fun _ => packetArrives_keeps _ _
  | segmentBegin l n count errs => cases h; exact stepWith_keeps fun _ => packetArrives_keeps _ _
  | row l n index samples => cases h; exact packetArrives_keeps _ _
  | segmentEnd l n sent errs => cases h; exact stepWith_keeps fun _ => packetArrives_keeps _ _
  | burstEnd l => cases h; exact packetArrives_keeps _ _
  | flashStatusRead status => cases h; exact flashStatus_keeps status
  | flashBusyTimeout errs => cases h; exact stepWith_keeps fun _ => flashTimeout_keeps
  | mapLoadEnd flash reads => cases h; exact stepWith_keeps fun _ => finishLoad_keeps _ _
  | loadMapBegin => cases h; exact beginWaitingLoad_keeps
  | pollTimerExpiry errs => cases h; exact stepWith_keeps fun _ => pollExpiry_keeps
  | rowDeposit reads => cases h; exact rowStep_keeps reads
  | deadlineExpiry errs => cases h; exact stepWith_keeps fun _ => deadline_keeps
  | finalizeCellOpening => cases h; exact openCell_keeps
  | finalizeCellRow errs => cases h; exact stepWith_keeps fun _ => publishRow_keeps
  | finalizeCellClosing errs => cases h; exact stepWith_keeps fun _ => closeCell_keeps
  | cellClear errs => cases h; exact stepWith_keeps fun _ => clearNext_keeps
  | defineBankEnd reads => cases h; exact stepWith_keeps fun _ => finishDefine_keeps _
  | quietTimerExpiry => cases h; exact quietExpiry_keeps

/-! ### Steps -/

/-- A predicate that POWER_ON, the landing of a mirror write and every other command keep, and that speaks neither of the queue nor of the
time base, is kept by every step. -/
theorem StepKeeps.of_exec {P : State → Prop} (queue : ∀ s rest, P s → P { s with pending := rest }) (tick : ∀ s, P s → P s.tick)
    (power : ∀ s, P s → P s.powerOn) (mirror : ∀ s off, P s → P (s.landMirror off))
    (others : ∀ (c : Instr) (s t : State), c ≠ .powerOn → (∀ off, c ≠ .mirrorWriteLands off) → exec c s = .next t → P s → P t) :
    StepKeeps P := by
  intro s t ok h
  unfold step at h
  split at h
  · cases h
    exact tick s ok
  · next c rest _ =>
    have waiting := queue s rest ok
    by_cases not_power : c = .powerOn
    · subst not_power
      cases h
      exact power _ waiting
    by_cases not_mirror : ∃ off, c = .mirrorWriteLands off
    · obtain ⟨off, rfl⟩ := not_mirror
      cases h
      exact mirror _ _ waiting
    · exact others c _ t not_power (fun off eq => not_mirror ⟨off, eq⟩) h waiting

/-- An invariant of `Keeps` that speaks of one part other than board memory. -/
theorem StepKeeps.of_keeps {P : State → Prop} (keeps : ∀ {s t}, Keeps s t → P s → P t)
    (queue : ∀ s rest, P s → P { s with pending := rest }) (tick : ∀ s, P s → P s.tick) (power : ∀ s, P s → P s.powerOn)
    (mirror : ∀ s off, P s → P (s.landMirror off)) : StepKeeps P :=
  .of_exec queue tick power mirror fun _ _ _ not_power not_mirror h => keeps (exec_keeps not_power not_mirror h)

theorem landMirror_frame {p : Part} (off : Nat) (not_mem : p ∉ [Part.mem, .mirror] := by decide) : s.sameAt (s.landMirror off) p :=
  landMirror_touches s off p not_mem

theorem landMirror_memoryOk (off : Nat) (ok : s.MemoryOk) : (s.landMirror off).MemoryOk := by
  unfold State.landMirror
  split
  · exact Memory.writeBytes_wf _ _ _ ok
  · exact ok

/-! ### The reset state -/

theorem reset_memoryOk : State.reset.MemoryOk := by
  unfold State.MemoryOk
  decide

theorem reset_linksOk : State.reset.LinksOk := by
  intro l
  have start : State.reset.links[l] = Link.start := by simp [State.reset]
  rw [start]
  refine ⟨Link.bounded_of (fun n => ?_) (Parser.good_start false) fun c => ?_, ?_⟩
  · simp [Link.start, Lane.start]
  · simp [Link.start]
  · exact ⟨⟨fun _ => rfl, fun _ => rfl⟩, fun _ => ⟨rfl, rfl⟩, .inl rfl⟩

theorem reset_poolOk : State.reset.PoolOk := State.PoolOk.of_empty rfl rfl

theorem reset_fieldsOk : State.reset.FieldsOk := by
  constructor
  · intro i f h
    simp [State.reset] at h
  · intro i j f g h
    simp [State.reset] at h

theorem reset_ordersOk : State.reset.OrdersOk := fun _ _ h => nomatch h

theorem reset_placesOk : State.reset.PlacesOk := by
  refine ⟨?_, ?_, ?_⟩
  all_goals
    intro _ h
    cases h

theorem reset_walkerOk : State.reset.WalkerOk := ⟨fun _ => rfl, by decide⟩

theorem reset_alertOk : State.reset.AlertOk := ⟨by decide, by decide, by decide⟩

theorem reset_loaderOk : State.reset.LoaderOk := by
  refine ⟨by decide, by decide, by decide, fun _ => .inl ⟨rfl, rfl⟩, ⟨?_, ?_⟩, fun m h => nomatch h⟩
  · rintro ⟨rec, image, h⟩
    cases h
  · rintro ⟨p, h⟩
    cases h

theorem reset_banksOk : State.reset.BanksOk := by
  refine ⟨fun k b h => ?_, fun _ _ _ _ h => nomatch h⟩
  simp [State.reset] at h

/-- Settles O52. -/
theorem resetIsGood : Obligations.ResetIsGood :=
  ⟨reset_memoryOk, reset_linksOk, reset_loaderOk, reset_banksOk, reset_poolOk, reset_fieldsOk, reset_ordersOk, reset_placesOk,
    reset_walkerOk, reset_alertOk⟩

/-! ### The invariants -/

/-- Settles O53. -/
theorem everyStepKeepsMemory : Obligations.EveryStepKeepsMemory :=
  .of_keeps Keeps.memory (fun _ _ ok => ok) (fun _ ok => ok) (fun _ _ => reset_memoryOk) fun _ off => landMirror_memoryOk off

/-- Settles O54. -/
theorem everyStepKeepsTheLinks : Obligations.EveryStepKeepsTheLinks :=
  .of_keeps Keeps.links (fun _ _ ok => ok) (fun _ ok => ok) (fun _ _ => reset_linksOk) fun _ off =>
    State.LinksOk.congr (landMirror_frame off (p := .links))

/-- Settles O56. -/
theorem everyStepKeepsThePool : Obligations.EveryStepKeepsThePool :=
  .of_keeps Keeps.pool (fun _ _ ok => ok) (fun _ ok => ok) (fun _ _ => reset_poolOk) fun _ off =>
    State.PoolOk.congr (landMirror_frame off (p := .exposures)) (landMirror_frame off (p := .slots))

/-- Settles O57. -/
theorem everyStepKeepsTheFields : Obligations.EveryStepKeepsTheFields :=
  .of_keeps Keeps.fields (fun _ _ ok => ok) (fun _ ok => ok) (fun _ _ => reset_fieldsOk) fun _ off =>
    State.FieldsOk.congr (landMirror_frame off (p := .fields))

/-- Settles O58. -/
theorem everyStepKeepsOrdersApart : Obligations.EveryStepKeepsOrdersApart :=
  .of_keeps Keeps.orders (fun _ _ ok => ok) (fun _ ok => ok) (fun _ _ => reset_ordersOk) fun _ off =>
    State.OrdersOk.congr (landMirror_frame off (p := .deposit)) (landMirror_frame off (p := .service))

/-- Settles O59. -/
theorem everyStepKeepsWalkerAndAlerts : Obligations.EveryStepKeepsWalkerAndAlerts := by
  constructor
  · exact .of_keeps Keeps.walker (fun _ _ ok => ok) (fun _ ok => ok) (fun _ _ => reset_walkerOk) fun _ off =>
      State.WalkerOk.congr (landMirror_frame off (p := .walker))
  · exact .of_keeps Keeps.alert (fun _ _ ok => ok) (fun _ ok => ok) (fun _ _ => reset_alertOk) fun _ off =>
      State.AlertOk.congr (landMirror_frame off (p := .alert)) (landMirror_frame off (p := .port))

/-- Settles O60. -/
theorem progressBlockIsWrittenByMirrorsAlone : Obligations.ProgressBlockIsWrittenByMirrorsAlone := by
  constructor
  · refine .of_keeps (fun k ok => ⟨k.fields ok.1, k.places ok.1 ok.2⟩) (fun _ _ ok => ok) (fun _ ok => ok)
      (fun _ _ => ⟨reset_fieldsOk, reset_placesOk⟩) fun _ off ok => ?_
    exact ⟨State.FieldsOk.congr (landMirror_frame off (p := .fields)) ok.1,
      State.PlacesOk.congr (landMirror_frame off (p := .deposit)) (landMirror_frame off (p := .service)) ok.2⟩
  · exact fun c s t fields places not_power not_mirror h => (exec_keeps not_power not_mirror h).block fields places

end Sys2Proof.Machine
end

section
/-! The map image and its checks (chapter 1, R1 to R5, 12.4): a load stages a map exactly when its image passes (O36). -/

-- One theorem at a time: the threads of a parallel elaboration reserve more memory than the check allows.
set_option Elab.async false

namespace Sys2Proof.Machine

variable {s : State}

/-! ### Fields of the entry bytes -/

/-- A field of the bytes of entry s stands at 64 × s in the entry bytes. -/
theorem fieldAt_entryBytes (es : List Byte) (seg : Nat) {i n : Nat} (inside : i + n ≤ 64) :
    fieldAt (entryBytes es seg) i n = fieldAt es (64 * seg + i) n := by
  unfold fieldAt entryBytes
  rw [List.drop_take, List.drop_drop, List.take_take, Nat.min_eq_left (by omega)]

theorem leNat_lt (bs : List Byte) : leNat bs < 256 ^ bs.length := by
  induction bs with
  | nil => exact Nat.one_pos
  | cons b bs ih =>
    have byte : b.toNat < 256 := b.isLt
    simp only [leNat, List.length_cons, Nat.pow_succ]
    omega

theorem fieldAt_lt (es : List Byte) (off n : Nat) : fieldAt es off n < 256 ^ n :=
  (leNat_lt _).trans_le (Nat.pow_le_pow_right (by decide) (by simp))

/-! ### Check 5 -/

theorem parseEntry_inRange {b : List Byte} (h : entryInRange b = true) : (parseEntry b).inRange := by
  simp only [entryInRange, Bool.and_eq_true, decide_eq_true_eq] at h
  obtain ⟨⟨⟨⟨⟨⟨⟨⟨⟨-, -⟩, lanes⟩, -⟩, prescan⟩, overscan⟩, image⟩, rows⟩, e⟩, f⟩ := h
  exact ⟨lanes, prescan, image, overscan, rows, e, f⟩

/-- The fields of a present entry's bytes are those of a map entry. -/
def SegEntry.StoredAs (e : SegEntry) (b : List Byte) : Prop :=
  fieldAt b 1 1 = e.link.val ∧ fieldAt b 2 1 = e.stream.val
    ∧ fieldAt b 3 1 = e.lanes ∧ fieldAt b 4 1 = (if e.burstEnd then 1 else 0)
    ∧ fieldAt b 5 1 = e.prescan ∧ fieldAt b 6 1 = e.overscan ∧ fieldAt b 8 2 = e.image
    ∧ fieldAt b 10 2 = e.rows ∧ signed 32 (fieldAt b 16 4) = e.a ∧ signed 32 (fieldAt b 20 4) = e.b
    ∧ signed 32 (fieldAt b 24 4) = e.c ∧ signed 32 (fieldAt b 28 4) = e.d
    ∧ signed 64 (fieldAt b 32 8) = e.e ∧ signed 64 (fieldAt b 40 8) = e.f

theorem parseEntry_stored {b : List Byte} (h : entryInRange b = true) : (parseEntry b).StoredAs b := by
  simp only [entryInRange, Bool.and_eq_true, decide_eq_true_eq] at h
  obtain ⟨⟨⟨⟨⟨⟨⟨⟨⟨link, stream⟩, -⟩, burst⟩, -⟩, -⟩, -⟩, -⟩, -⟩, -⟩ := h
  refine ⟨?_, ?_, rfl, ?_, rfl, rfl, rfl, rfl, rfl, rfl, rfl, rfl, rfl, rfl⟩
  · simp only [parseEntry, Fin.ofNat]
    omega
  · simp only [parseEntry, Fin.ofNat]
    omega
  · simp only [parseEntry, beq_iff_eq]
    split <;> omega

theorem SegEntry.StoredAs.parseEntry_eq {e : SegEntry} {b : List Byte} (h : e.StoredAs b) : parseEntry b = e := by
  obtain ⟨link, stream, lanes, burst, prescan, overscan, image, rows, ha, hb, hc, hd, he, hf⟩ := h
  obtain ⟨l, t, _, be, _, _, _, _, _, _, _, _, _, _⟩ := e
  simp only at *
  have linkEq : Fin.ofNat 4 (fieldAt b 1 1) = l := by rw [link]; exact Fin.ext (Nat.mod_eq_of_lt l.isLt)
  have streamEq : Fin.ofNat 16 (fieldAt b 2 1) = t := by rw [stream]; exact Fin.ext (Nat.mod_eq_of_lt t.isLt)
  have burstEq : (fieldAt b 4 1 == 1) = be := by rw [burst]; cases be <;> rfl
  simp only [parseEntry, linkEq, streamEq, burstEq, lanes, prescan, overscan, image, rows, ha, hb, hc, hd, he, hf]

theorem SegEntry.StoredAs.entryInRange {e : SegEntry} {b : List Byte} (h : e.StoredAs b) (range : e.inRange) : entryInRange b = true := by
  obtain ⟨link, stream, lanes, burst, prescan, overscan, image, rows, -, -, -, -, he, hf⟩ := h
  obtain ⟨lanesOk, prescanOk, imageOk, overscanOk, rowsOk, eOk, fOk⟩ := range
  have linkOk := e.link.isLt
  have streamOk := e.stream.isLt
  have burstOk : (if e.burstEnd then 1 else 0) ≤ 1 := by split <;> omega
  simp only [Machine.entryInRange, Bool.and_eq_true, decide_eq_true_eq, link, stream, lanes, burst, prescan, overscan, image, rows, he, hf]
  exact ⟨⟨⟨⟨⟨⟨⟨⟨⟨by omega, by omega⟩, lanesOk⟩, burstOk⟩, prescanOk⟩, overscanOk⟩, imageOk⟩, rowsOk⟩, eOk⟩, fOk⟩

/-! ### The map of the entry bytes -/

theorem parseMap_entry (count : Nat) (es : List Byte) (seg : SegNo) : (parseMap count es).entries[seg]
    = if seg.val < count ∧ fieldAt (entryBytes es seg) 0 1 = 1 then some (parseEntry (entryBytes es seg)) else none := by
  exact vecOf_getElem _ seg.val seg.isLt

theorem rangesPass_iff {count : Nat} {es : List Byte} : rangesPass count es = true ↔ ∀ seg < count,
    fieldAt (entryBytes es seg) 0 1 ≤ 1 ∧ (fieldAt (entryBytes es seg) 0 1 = 0 ∨ entryInRange (entryBytes es seg) = true) := by
  simp only [rangesPass, List.all_eq_true, List.mem_range, Bool.and_eq_true, Bool.or_eq_true, decide_eq_true_eq]

/-- What the entry bytes hold of segment s. -/
def FocalMap.entryStored (m : FocalMap) (es : List Byte) (seg : SegNo) : Prop :=
  match m.entries[seg] with
  | none => m.count ≤ seg.val ∨ fieldAt (entryBytes es seg) 0 1 = 0
  | some e => seg.val < m.count ∧ fieldAt (entryBytes es seg) 0 1 = 1 ∧ e.StoredAs (entryBytes es seg)

theorem FocalMap.storedIn_iff {m : FocalMap} {es : List Byte} : m.StoredIn es ↔ ∀ seg, m.entryStored es seg := by
  refine forall_congr' fun seg => ?_
  unfold FocalMap.entryStored
  cases m.entries[seg] with
  | none => simp [fieldAt_entryBytes]
  | some e => simp [fieldAt_entryBytes, SegEntry.StoredAs]

/-- R1, R3: entry bytes in range hold the map that they parse as, and no other of its count. -/
theorem parseMap_storedIn {count : Nat} {es : List Byte} (range : rangesPass count es = true) : (parseMap count es).StoredIn es := by
  refine FocalMap.storedIn_iff.mpr fun seg => ?_
  unfold FocalMap.entryStored
  rw [parseMap_entry]
  by_cases inside : seg.val < count
  · obtain ⟨flag, fields⟩ := rangesPass_iff.mp range seg inside
    by_cases here : fieldAt (entryBytes es seg) 0 1 = 1
    · rw [if_pos ⟨inside, here⟩]
      exact ⟨inside, here, parseEntry_stored (fields.resolve_left (by omega))⟩
    · rw [if_neg fun h => here h.2]
      exact .inr (by omega)
  · rw [if_neg fun h => inside h.1]
    exact .inl (Nat.le_of_not_lt inside)

theorem FocalMap.StoredIn.parseMap_eq {m : FocalMap} {es : List Byte} (h : m.StoredIn es) : parseMap m.count es = m := by
  obtain ⟨count, entries⟩ := m
  have stored := FocalMap.storedIn_iff.mp h
  unfold parseMap
  congr 1
  refine Vector.ext fun i hi => ?_
  have entry := stored ⟨i, hi⟩
  have parsed := parseMap_entry count es ⟨i, hi⟩
  simp only [parseMap, Fin.getElem_fin] at parsed
  rw [parsed]
  simp only [FocalMap.entryStored, Fin.getElem_fin] at entry
  split at entry
  · next absent =>
    rw [absent, if_neg]
    omega
  · next e here =>
    rw [here, if_pos ⟨entry.1, entry.2.1⟩, entry.2.2.parseEntry_eq]

theorem FocalMap.StoredIn.rangesPass {m : FocalMap} {es : List Byte} (h : m.StoredIn es) (count : m.count ≤ 64)
    (range : ∀ (seg : SegNo) (e : SegEntry), m.entries[seg] = some e → e.inRange) : rangesPass m.count es = true := by
  refine rangesPass_iff.mpr fun seg inside => ?_
  have entry := FocalMap.storedIn_iff.mp h ⟨seg, by omega⟩
  unfold FocalMap.entryStored at entry
  split at entry
  · have absent := entry.resolve_left (by simpa using inside)
    exact ⟨by rw [absent]; decide, .inl absent⟩
  · next e here => exact ⟨by rw [entry.2.1], .inr (entry.2.2.entryInRange (range _ e here))⟩

/-! ### Checks 6 to 8 -/

theorem FocalMap.mem_present {m : FocalMap} {e : SegEntry} : e ∈ m.present ↔ ∃ seg : SegNo, m.entries[seg] = some e := by
  simp [FocalMap.present]

/-- A test of every two present entries, in either order. -/
theorem FocalMap.pairwise_present {m : FocalMap} {R : SegEntry → SegEntry → Prop} (symm : ∀ x y, R x y → R y x) : m.present.Pairwise R
    ↔ ∀ (i j : SegNo) (d e : SegEntry), m.entries[i] = some d → m.entries[j] = some e → i ≠ j → R d e := by
  unfold FocalMap.present
  rw [List.pairwise_filterMap]
  constructor
  · intro h i j d e hd he ne
    have pair : ∀ {a b : SegNo} {x y : SegEntry}, a < b → m.entries[a] = some x → m.entries[b] = some y → R x y := by
      intro a b x y lt hx hy
      have := List.pairwise_iff_getElem.mp h a b (by simp) (by simp) lt
      simp only [List.getElem_finRange] at this
      exact this x hx y hy
    rcases lt_or_gt_of_ne ne with lt | gt
    · exact pair lt hd he
    · exact symm _ _ (pair gt he hd)
  · intro h
    refine List.pairwise_iff_getElem.mpr fun a b ha hb lt x hx y hy => ?_
    simp only [List.getElem_finRange] at hx hy
    exact h _ _ x y hx hy (by simp [Fin.ext_iff]; omega)

theorem FocalMap.rowsPass_iff {m : FocalMap} : m.rowsPass = true ↔ ∀ (i : SegNo) (e : SegEntry), m.entries[i] = some e → e.rowLen ≤ 1120 := by
  simp only [FocalMap.rowsPass, List.all_eq_true, decide_eq_true_eq, FocalMap.mem_present]
  exact ⟨fun h i e here => h e ⟨i, here⟩, fun h e ⟨i, here⟩ => h i e here⟩

theorem FocalMap.streamsPass_iff {m : FocalMap} : m.streamsPass = true ↔ ∀ (i j : SegNo) (d e : SegEntry), m.entries[i] = some d →
    m.entries[j] = some e → d.link = e.link ∧ d.stream = e.stream → i = j := by
  rw [FocalMap.streamsPass, decide_eq_true_eq, FocalMap.pairwise_present fun x y h ⟨link, stream⟩ => h ⟨link.symm, stream.symm⟩]
  exact ⟨fun h i j d e hd he same => by_contra fun ne => h i j d e hd he ne same, fun h i j d e hd he ne same => ne (h i j d e hd he same)⟩

theorem FocalMap.linksPass_iff {m : FocalMap} : m.linksPass = true ↔ ∀ (i j : SegNo) (d e : SegEntry), m.entries[i] = some d →
    m.entries[j] = some e → d.link = e.link → d.lanes = e.lanes ∧ d.burstEnd = e.burstEnd := by
  rw [FocalMap.linksPass, decide_eq_true_eq, FocalMap.pairwise_present fun x y h link => ⟨(h link.symm).1.symm, (h link.symm).2.symm⟩]
  refine ⟨fun h i j d e hd he => ?_, fun h i j d e hd he _ => h i j d e hd he⟩
  by_cases same : i = j
  · subst same
    rw [hd] at he
    cases he
    exact fun _ => ⟨rfl, rfl⟩
  · exact h i j d e hd he same

/-- R4: the checks over the entries of a map whose present entries are in range. -/
theorem FocalMap.checked_iff {m : FocalMap} (count : 1 ≤ m.count ∧ m.count ≤ 64)
    (range : ∀ (seg : SegNo) (e : SegEntry), m.entries[seg] = some e → seg.val < m.count ∧ e.inRange) :
    m.Checked ↔ m.rowsPass = true ∧ m.streamsPass = true ∧ m.linksPass = true := by
  rw [FocalMap.rowsPass_iff, FocalMap.streamsPass_iff, FocalMap.linksPass_iff]
  constructor
  · intro h
    exact ⟨fun i e here => (h.2.1 i e here).2.2, fun i j d e hd he => (h.2.2 i j d e hd he).1, fun i j d e hd he => (h.2.2 i j d e hd he).2⟩
  · rintro ⟨rows, streams, links⟩
    exact ⟨count, fun i e here => ⟨(range i e here).1, (range i e here).2, rows i e here⟩,
      fun i j d e hd he => ⟨streams i j d e hd he, links i j d e hd he⟩⟩

theorem parseMap_range {count : Nat} {es : List Byte} (range : rangesPass count es = true) (seg : SegNo) (e : SegEntry)
    (here : (parseMap count es).entries[seg] = some e) : seg.val < count ∧ e.inRange := by
  rw [parseMap_entry] at here
  split at here
  · next present =>
    cases here
    exact ⟨present.1, parseEntry_inRange (((rangesPass_iff.mp range) _ present.1).2.resolve_left (by omega))⟩
  · cases here

/-- R3, R4: the checks over an image of a count in range stage a map exactly when it is the image's and passes them. -/
theorem checkEntries_eq_some_iff {h es : List Byte} {count : Nat} {m : FocalMap} (range : 1 ≤ count ∧ count ≤ 64) :
    checkEntries h es count = some m ↔ m.count = count ∧ crc16 es = fieldAt h 8 2 ∧ m.Checked ∧ m.StoredIn es := by
  unfold checkEntries
  dsimp only
  constructor
  · intro staged
    split at staged
    · next passed =>
      cases staged
      obtain ⟨crc, ranges, checks⟩ := passed
      exact ⟨rfl, crc, (FocalMap.checked_iff range (parseMap_range ranges)).mpr checks, parseMap_storedIn ranges⟩
    · cases staged
  · rintro ⟨rfl, crc, checked, stored⟩
    rw [stored.parseMap_eq, if_pos]
    have ranges := stored.rangesPass range.2 fun seg e here => (checked.2.1 seg e here).2.1
    exact ⟨crc, ranges, (FocalMap.checked_iff range fun seg e here => ⟨(checked.2.1 seg e here).1, (checked.2.1 seg e here).2.1⟩).mp checked⟩

theorem mapHeader_eq_some_iff {h : List Byte} {count : Nat} : mapHeader h = some count
    ↔ fieldAt h 0 4 = 0x50414D46 ∧ fieldAt h 4 2 = 1 ∧ fieldAt h 6 2 = count ∧ 1 ≤ count ∧ count ≤ 64 := by
  unfold mapHeader
  split
  · next passed =>
    obtain ⟨magic, version, low, high⟩ := passed
    rw [Option.some_inj]
    exact ⟨fun eq => ⟨magic, version, eq, eq ▸ low, eq ▸ high⟩, fun h => h.2.2.1⟩
  · next failed =>
    exact ⟨nofun, fun ⟨magic, version, eq, low, high⟩ => absurd ⟨magic, version, eq ▸ low, eq ▸ high⟩ failed⟩

theorem checkEntries_checked {h es : List Byte} {count : Nat} {m : FocalMap} (header : mapHeader h = some count)
    (staged : checkEntries h es count = some m) : m.Checked := by
  obtain ⟨-, -, -, range⟩ := mapHeader_eq_some_iff.mp header
  exact ((checkEntries_eq_some_iff range).mp staged).2.2.1

/-! ### Loads -/

theorem flashLoad_checked {flash : List Byte} {m : FocalMap} (h : flashLoad flash = .staged m) : m.Checked := by
  unfold flashLoad at h
  dsimp only at h
  split at h
  · cases h
  next count header =>
  split at h
  · next staged =>
    cases h
    exact checkEntries_checked header staged
  · cases h

theorem memoryLoad_checked {off : Nat} {m : FocalMap} (h : s.memoryLoad off = .staged m) : m.Checked := by
  unfold State.memoryLoad at h
  dsimp only at h
  split at h
  · cases h
  split at h
  · cases h
  split at h
  · cases h
  next count header =>
  split at h
  · cases h
  split at h
  · cases h
  split at h
  · next staged =>
    cases h
    exact checkEntries_checked header staged
  · cases h

end Sys2Proof.Machine
end

section
/-! Loads of a map image from the flash and from board memory, and what the reads of an image or bank record found (R3 to R5, R8; O36). -/

-- One theorem at a time: the threads of a parallel elaboration reserve more memory than the check allows.
set_option Elab.async false

namespace Sys2Proof.Machine

variable {s : State}

/-! ### Fields of board memory -/

theorem readBytes_drop (m : List Host.Cell) (off k i : Nat) : (Memory.readBytes m off k).drop i = Memory.readBytes m (off + i) (k - i) := by
  induction k generalizing off i with
  | zero => simp [Memory.readBytes]
  | succ k ih =>
    cases i with
    | zero => rfl
    | succ i => rw [Memory.readBytes, List.drop_succ_cons, ih, Nat.add_right_comm, Nat.add_assoc, Nat.add_sub_add_right]

theorem readBytes_take (m : List Host.Cell) (off : Nat) {n k : Nat} (h : n ≤ k) : (Memory.readBytes m off k).take n = Memory.readBytes m off n := by
  induction n generalizing off k with
  | zero => simp [Memory.readBytes]
  | succ n ih =>
    cases k with
    | zero => omega
    | succ k => rw [Memory.readBytes, List.take_succ_cons, ih _ (by omega), Memory.readBytes]

/-- A field of bytes read from board memory is the field of board memory. -/
theorem fieldAt_readBytes (m : List Host.Cell) (off : Nat) {k i n : Nat} (h : i + n ≤ k) :
    fieldAt (Memory.readBytes m off k) i n = Memory.readNat m (off + i) n := by
  rw [fieldAt, readBytes_drop, readBytes_take m _ (by omega), Memory.readNat]

theorem readErr_iff {by_ : ReadBy} {off n : Nat} :
    s.readErr by_ off n = true ↔ ∃ e ∈ s.errs, e.by_ = by_ ∧ off ≤ e.at_ ∧ e.at_ < off + n := by
  simp [State.readErr, and_assoc]

theorem inGeneral_iff {off n : Nat} : inGeneral off n = true ↔ 0x1000 ≤ off ∧ off + n ≤ 0x3D8000000 := by
  simp [inGeneral, Config.generalBase, Config.poolBase]

/-! ### The flash (R5) -/

theorem flashLoad_staged_iff (flash : List Byte) (m : FocalMap) :
    flashLoad flash = .staged m ↔ m.Passes (flashBytes flash 0 16) (flashBytes flash 16 (64 * m.count)) := by
  unfold flashLoad FocalMap.Passes
  dsimp only
  split
  · next refused =>
    refine ⟨nofun, fun ⟨magic, version, count, _, checked, _⟩ => ?_⟩
    have header := mapHeader_eq_some_iff.mpr ⟨magic, version, count, checked.1⟩
    rw [refused] at header
    cases header
  · next count header =>
    obtain ⟨magic, version, countEq, range⟩ := mapHeader_eq_some_iff.mp header
    split
    · next m' staged =>
      obtain ⟨count', crc, checked, stored⟩ := (checkEntries_eq_some_iff range).mp staged
      constructor
      · intro eq
        cases eq
        rw [count']
        exact ⟨magic, version, countEq, crc, checked, stored⟩
      · rintro ⟨-, -, count'', crc'', checked'', stored''⟩
        have same : m.count = count := count''.symm.trans countEq
        rw [same] at crc'' stored''
        have := (checkEntries_eq_some_iff range).mpr ⟨same, crc'', checked'', stored''⟩
        rw [staged] at this
        cases this
        rfl
    · next refused =>
      refine ⟨nofun, fun ⟨_, _, count', crc, checked, stored⟩ => ?_⟩
      have same : m.count = count := count'.symm.trans countEq
      rw [same] at crc stored
      have := (checkEntries_eq_some_iff range).mpr ⟨same, crc, checked, stored⟩
      rw [refused] at this
      cases this

theorem flashLoad_staged_or_failed (flash : List Byte) : (∃ m, flashLoad flash = .staged m) ∨ flashLoad flash = .failed .mapCheck := by
  unfold flashLoad
  dsimp only
  split
  · exact .inr rfl
  · split
    · exact .inl ⟨_, rfl⟩
    · exact .inr rfl

/-! ### Board memory (R8) -/

/-- R4, checks 1 to 3: the header of the image at an offset passes. -/
def State.imageHeader (s : State) (off : Nat) : Prop :=
  Memory.readNat s.mem off 4 = 0x50414D46 ∧ Memory.readNat s.mem (off + 4) 2 = 1 ∧ 1 ≤ Memory.readNat s.mem (off + 6) 2
    ∧ Memory.readNat s.mem (off + 6) 2 ≤ 64

theorem mapHeader_of_imageHeader {off : Nat} (h : s.imageHeader off) :
    mapHeader (Memory.readBytes s.mem off 16) = some (Memory.readNat s.mem (off + 6) 2) := by
  obtain ⟨magic, version, range⟩ := h
  refine mapHeader_eq_some_iff.mpr ⟨?_, ?_, ?_, range⟩ <;> rw [fieldAt_readBytes _ _ (by decide)]
  · exact magic
  · exact version

theorem mapHeader_of_not_imageHeader {off : Nat} (h : ¬ s.imageHeader off) : mapHeader (Memory.readBytes s.mem off 16) = none := by
  cases header : mapHeader (Memory.readBytes s.mem off 16) with
  | none => rfl
  | some count =>
    obtain ⟨magic, version, countEq, range⟩ := mapHeader_eq_some_iff.mp header
    rw [fieldAt_readBytes _ _ (by decide)] at magic version countEq
    exact absurd ⟨magic, version, countEq ▸ range⟩ h

theorem memoryLoad_of_header_outside {off : Nat} (h : ¬ (0x1000 ≤ off ∧ off + 16 ≤ 0x3D8000000)) : s.memoryLoad off = .failed .regionRange := by
  unfold State.memoryLoad
  rw [if_pos (by rw [Bool.not_eq_true', ← Bool.not_eq_true, inGeneral_iff]; exact h)]

section
variable {off : Nat} (inside : 0x1000 ≤ off ∧ off + 16 ≤ 0x3D8000000)
include inside

theorem not_header_outside : ¬ (!inGeneral off 16) = true := by
  rw [Bool.not_eq_true', Bool.not_eq_false, inGeneral_iff]
  exact inside

theorem memoryLoad_of_header_met (met : s.readErr .bankOrMap off 16 = true) : s.memoryLoad off = .memoryError := by
  unfold State.memoryLoad
  rw [if_neg (not_header_outside inside), if_pos met]

theorem memoryLoad_of_no_header (unmet : ¬ s.readErr .bankOrMap off 16 = true) (header : ¬ s.imageHeader off) :
    s.memoryLoad off = .failed .mapCheck := by
  unfold State.memoryLoad
  rw [if_neg (not_header_outside inside), if_neg unmet]
  dsimp only
  rw [mapHeader_of_not_imageHeader header]

/-- R8: the load of an image whose header has been read and passes. -/
theorem memoryLoad_of_header (unmet : ¬ s.readErr .bankOrMap off 16 = true) (header : s.imageHeader off) :
    s.memoryLoad off = (let count := Memory.readNat s.mem (off + 6) 2
      if !inGeneral off (16 + 64 * count) then .failed .regionRange
      else if s.readErr .bankOrMap (off + 16) (64 * count) then .memoryError
      else match checkEntries (Memory.readBytes s.mem off 16) (Memory.readBytes s.mem (off + 16) (64 * count)) count with
        | some m => .staged m
        | none => .failed .mapCheck) := by
  unfold State.memoryLoad
  rw [if_neg (not_header_outside inside), if_neg unmet]
  dsimp only
  rw [mapHeader_of_imageHeader header] <;> rfl

end

/-! ### What reads found (log 48) -/

/-- The moment of the first listing that holds a byte. -/
theorem listedMoment_eq_find (now : Nat) (early : List EarlyRead) (a : Nat) : listedMoment now early a
    = match early.find? fun r => decide (a ∈ r.bytes) with
      | some r => min r.moment now
      | none => now := by
  induction early with
  | nil => rfl
  | cons r rs ih =>
    unfold listedMoment
    by_cases h : a ∈ r.bytes
    · simp [h]
    · rw [if_neg h, ih, List.find?_cons_of_neg (by simpa using h)]

/-- The greatest of a number and a list of them. -/
theorem foldl_max_spec (l : List Nat) (x : Nat) : x ≤ l.foldl max x ∧ (∀ y ∈ l, y ≤ l.foldl max x) ∧ (l.foldl max x = x ∨ l.foldl max x ∈ l) := by
  induction l generalizing x with
  | nil => simp
  | cons z l ih =>
    obtain ⟨above, all, attained⟩ := ih (max x z)
    rw [List.foldl_cons]
    refine ⟨(le_max_left x z).trans above, fun y hy => ?_, ?_⟩
    · rcases List.mem_cons.mp hy with rfl | hy
      · exact (le_max_right x y).trans above
      · exact all y hy
    · rcases attained with eq | mem
      · rcases max_choice x z with first | second
        · exact .inl (eq.trans first)
        · exact .inr (List.mem_cons.mpr (.inl (eq.trans second)))
      · exact .inr (List.mem_cons_of_mem _ mem)

theorem readMoment_of_header {now off a : Nat} (early : List EarlyRead) (h : a < off + 16) :
    readMoment now off early a = listedMoment now early a := by
  rw [readMoment, if_pos h]

/-- R8, R74: a byte beyond the header is read at its own moment or at one of a header byte, the latest of them. -/
theorem readMoment_beyond_header {now off a : Nat} (early : List EarlyRead) (h : off + 16 ≤ a) :
    listedMoment now early a ≤ readMoment now off early a
      ∧ (∀ i < 16, listedMoment now early (off + i) ≤ readMoment now off early a)
      ∧ (readMoment now off early a = listedMoment now early a
        ∨ ∃ i < 16, readMoment now off early a = listedMoment now early (off + i)) := by
  rw [readMoment, if_neg (by omega)]
  obtain ⟨above, all, attained⟩ :=
    foldl_max_spec ((List.range 16).map fun i => listedMoment now early (off + i)) (listedMoment now early a)
  refine ⟨above, fun i hi => all _ (List.mem_map.mpr ⟨i, List.mem_range.mpr hi, rfl⟩), attained.imp id fun mem => ?_⟩
  obtain ⟨i, hi, eq⟩ := List.mem_map.mp mem
  exact ⟨i, List.mem_range.mp hi, eq.symm⟩

/-- Settles O36. -/
theorem stagedMapPassesTheChecks : Obligations.StagedMapPassesTheChecks := by
  refine ⟨flashLoad_staged_iff, flashLoad_staged_or_failed, fun s off => ?_⟩
  dsimp only
  refine ⟨memoryLoad_of_header_outside, fun low high => ⟨?_, ?_, ?_, ?_, ?_⟩, rfl, fun early a ha => ?_⟩
  · exact fun met => memoryLoad_of_header_met ⟨low, high⟩ (readErr_iff.mpr met)
  · exact fun unmet header => memoryLoad_of_no_header ⟨low, high⟩ (fun met => unmet (readErr_iff.mp met)) header
  · intro unmet header whole
    rw [memoryLoad_of_header ⟨low, high⟩ (fun met => unmet (readErr_iff.mp met)) header]
    refine if_pos ?_
    rw [Bool.not_eq_true', ← Bool.not_eq_true, inGeneral_iff, ← Nat.add_assoc]
    exact whole
  · intro unmet header whole met
    rw [memoryLoad_of_header ⟨low, high⟩ (fun met => unmet (readErr_iff.mp met)) header]
    dsimp only
    rw [if_neg (by rw [Bool.not_eq_true', Bool.not_eq_false, inGeneral_iff, ← Nat.add_assoc]; exact whole), if_pos (readErr_iff.mpr met)]
  · intro unmet header whole unmet'
    rw [memoryLoad_of_header ⟨low, high⟩ (fun met => unmet (readErr_iff.mp met)) header]
    dsimp only
    rw [if_neg (by rw [Bool.not_eq_true', Bool.not_eq_false, inGeneral_iff, ← Nat.add_assoc]; exact whole),
      if_neg fun met => unmet' (readErr_iff.mp met)]
    have staged (m : FocalMap) := checkEntries_eq_some_iff (h := Memory.readBytes s.mem off 16)
      (es := Memory.readBytes s.mem (off + 16) (64 * Memory.readNat s.mem (off + 6) 2)) (m := m) header.2.2
    constructor
    · rintro m ⟨count, -, -, -, crc, checked, stored⟩
      rw [(staged m).mpr ⟨count, crc, checked, stored⟩]
    · intro none_passes
      split
      · next m here =>
        obtain ⟨count, crc, checked, stored⟩ := (staged m).mp here
        refine absurd ⟨count, ?_, ?_, ?_, crc, checked, stored⟩ (none_passes m) <;> rw [fieldAt_readBytes _ _ (by decide)]
        · exact header.1
        · exact header.2.1
        · exact count.symm
      · rfl
  · have found := asRead_read (s := s) off early a ha
    refine ⟨fun header => ?_, fun beyond => ⟨readMoment s.past.length off early a, found, ?_⟩⟩
    · rw [found, readMoment_of_header early header]
      exact congrArg (fun moment => Memory.read (s.memoryAt moment) a) (listedMoment_eq_find _ _ _)
    · have moments := readMoment_beyond_header (now := s.past.length) early beyond
      simp only [listedMoment_eq_find] at moments
      exact moments

end Sys2Proof.Machine
end

section
/-! Every step keeps the map loader consistent, the map in use checked, and every VALID bank good (R1, R2, R4, R73, R75; O55). -/

-- One theorem at a time: the threads of a parallel elaboration reserve more memory than the check allows.
set_option Elab.async false

namespace Sys2Proof.Machine

variable {s t u : State} {ps : List Part}

/-! ### Bank records (R75) -/

theorem planePasses_of_present {off : Nat} {x : Option SegEntry} (range : ∀ e, x = some e → e.inRange) (h : planePasses off x = true) :
    off = 0 ∨ Config.generalBase ≤ off ∧ off + 1 ≤ Config.poolBase := by
  simp only [planePasses, Bool.or_eq_true, decide_eq_true_eq] at h
  refine h.imp id fun whole => ?_
  cases x with
  | none =>
    simp only [inGeneral, Bool.and_eq_true, decide_eq_true_eq] at whole
    exact whole
  | some e =>
    obtain ⟨-, -, image, -, rows, -⟩ := range e rfl
    have size : 1 ≤ e.image * e.rows := Nat.mul_pos image.1 rows.1
    simp only [planeFits, inGeneral, Bool.and_eq_true, decide_eq_true_eq] at whole
    omega

theorem RawAmp.passes_fits {r : RawAmp} {x : Option SegEntry} (range : ∀ e, x = some e → e.inRange) (h : r.passes x = true) :
    r.amp.Fits none := by
  simp only [RawAmp.passes, Bool.and_eq_true, Bool.or_eq_true, decide_eq_true_eq] at h
  obtain ⟨⟨⟨⟨⟨⟨⟨mode, gain⟩, sat⟩, window⟩, bias⟩, lut⟩, flatPlane⟩, biasPlane⟩ := h
  have limit : (match x with
      | some e => e.overscan
      | none => 64) ≤ 64 := by
    cases x with
    | none => exact le_rfl
    | some e => exact (range e rfl).2.2.2.1
  simp only [inGeneral, Bool.and_eq_true, decide_eq_true_eq] at lut
  refine ⟨⟨gain, sat⟩, fun overscan => ?_, fun plane => ?_, lut, planePasses_of_present range flatPlane, planePasses_of_present range biasPlane⟩
  · have zero : r.mode = 0 := by
      simp only [RawAmp.amp] at overscan
      split at overscan
      · assumption
      · split at overscan <;> cases overscan
    obtain ⟨n, sum⟩ := window.resolve_left (fun ne => ne zero)
    exact ⟨n, sum.trans limit⟩
  · refine bias.resolve_left fun ne => ?_
    simp only [RawAmp.amp] at plane
    split at plane
    · cases plane
    · split at plane
      · cases plane
      · omega

theorem Defect.passes_range {d : Defect} {map : Vector (Option SegEntry) 64} (h : d.passes map = true) :
    d.seg < 64 ∧ d.firstCol ≤ d.lastCol ∧ d.firstRow ≤ d.lastRow := by
  simp only [Defect.passes, Bool.and_eq_true, decide_eq_true_eq] at h
  obtain ⟨⟨cols, rows⟩, seg⟩ := h
  split at seg
  · next k number => exact ⟨idx?_some number ▸ k.isLt, cols, rows⟩
  · cases seg

/-- R71, R75: a record that passes the checks against a map in range makes a good bank. -/
theorem checkBank_ok {k off : Nat} {map : Vector (Option SegEntry) 64} {b : Bank}
    (range : ∀ (seg : SegNo) (e : SegEntry), map[seg] = some e → e.inRange) (h : s.checkBank k off map = .staged b) : b.Ok := by
  unfold State.checkBank at h
  dsimp only at h
  split at h
  · cases h
  split at h
  · cases h
  split at h
  · cases h
  next header =>
  split at h
  · cases h
  split at h
  · cases h
  split at h
  · next passed =>
    cases h
    simp only [Bool.and_eq_true, List.all_eq_true, List.mem_finRange, true_implies] at passed
    obtain ⟨amps, defects⟩ := passed
    refine ⟨fun seg => ?_, ?_, fun d hd => Defect.passes_range (defects d hd)⟩
    · rw [Fin.getElem_fin, vecOf_getElem]
      exact RawAmp.passes_fits (fun e => range seg e) (amps seg)
    · simp only [readDefects, List.length_map, List.length_range]
      exact (not_not.mp header).2.2
  · cases h

/-! ### What a change keeps of loader and banks -/

/-- A change keeps the loader good, and with it the bank table. -/
structure LoaderKeeps (s t : State) : Prop where
  loader : s.LoaderOk → t.LoaderOk
  banks : s.LoaderOk → s.BanksOk → t.BanksOk

theorem LoaderKeeps.refl (s : State) : LoaderKeeps s s := ⟨id, fun _ h => h⟩

theorem LoaderKeeps.trans (h : LoaderKeeps s t) (g : LoaderKeeps t u) : LoaderKeeps s u :=
  ⟨fun ok => g.loader (h.loader ok), fun ok b => g.banks (h.loader ok) (h.banks ok b)⟩

theorem LoaderKeeps.ite {c : Prop} [Decidable c] (ht : c → LoaderKeeps s t) (hu : ¬c → LoaderKeeps s u) :
    LoaderKeeps s (if c then t else u) := by
  split
  · next h => exact ht h
  · next h => exact hu h

theorem State.LoaderOk.congr (hl : t.loader = s.loader) (hs : t.service = s.service) (h : s.LoaderOk) : t.LoaderOk := by
  simpa only [State.LoaderOk, State.loadMapBegun, hl, hs] using h

theorem State.BanksOk.congr (hb : t.banks = s.banks) (hs : t.service = s.service) (h : s.BanksOk) : t.BanksOk := by
  simpa only [State.BanksOk, hb, hs] using h

theorem LoaderKeeps.frame (h : Touches ps s t) (loader : Part.loader ∉ ps := by decide) (banks : Part.banks ∉ ps := by decide)
    (service : Part.service ∉ ps := by decide) : LoaderKeeps s t :=
  ⟨State.LoaderOk.congr (h .loader loader) (h .service service), fun _ => State.BanksOk.congr (h .banks banks) (h .service service)⟩

theorem LoaderKeeps.retire (k : LoaderKeeps s t) (off : Nat) (st : Status) (rs : List Nat) : LoaderKeeps s (t.retire off st rs) :=
  k.trans (.frame (retire_touches t off st rs))

/-- An order of the service unit that has no part in a load. -/
def NoLoad (x : Option ServiceOrder) : Prop := ∀ rec image, x ≠ some (.loadMap rec image true)

/-- An order of the service unit that keeps no map. -/
def NoDefine (x : Option ServiceOrder) : Prop := ∀ rec k off map, x ≠ some (.defineBank rec k off map)

theorem noLoad_none : NoLoad none := fun _ _ => nofun

theorem noDefine_none : NoDefine none := fun _ _ _ _ => nofun

theorem finalize_noLoad (o : Finalize) : NoLoad (some (.finalize o)) := fun _ _ => nofun

theorem finalize_noDefine (o : Finalize) : NoDefine (some (.finalize o)) := fun _ _ _ _ => nofun

theorem clear_noLoad (rec : Nat) (f : Fin 4) (r : Rect) (k : Nat) : NoLoad (some (.clearField rec f r k)) := fun _ _ => nofun

theorem clear_noDefine (rec : Nat) (f : Fin 4) (r : Rect) (k : Nat) : NoDefine (some (.clearField rec f r k)) := fun _ _ _ _ => nofun

theorem State.LoaderOk.setService {x : Option ServiceOrder} (ok : s.LoaderOk) (hs : NoLoad s.service) (hx : NoLoad x) :
    ({ s with service := x } : State).LoaderOk := by
  obtain ⟨loading, absent, valid, entered, begun, checked⟩ := ok
  refine ⟨loading, absent, valid, entered, ⟨?_, fun ends => ?_⟩, checked⟩
  · rintro ⟨rec, image, h⟩
    exact absurd h (hx rec image)
  · obtain ⟨rec, image, h⟩ := begun.mpr ends
    exact absurd h (hs rec image)

/-- The service unit goes from an order without a part in a load to another such, which keeps no map. -/
theorem LoaderKeeps.setService {x : Option ServiceOrder} (hs : NoLoad s.service) (hx : NoLoad x) (define : NoDefine x) :
    LoaderKeeps s { s with service := x } :=
  ⟨fun ok => ok.setService hs hx, fun _ ok => ⟨ok.1, fun rec off k map h => absurd h (define rec k off map)⟩⟩

theorem LoaderKeeps.noService (hs : NoLoad s.service) : LoaderKeeps s { s with service := none } :=
  .setService hs (fun _ _ => nofun) fun _ _ _ _ => nofun

theorem LoaderKeeps.setBank (k : Fin 8) (x : Option Bank) (good : s.LoaderOk → s.BanksOk → ∀ b, x = some b → b.Ok) :
    LoaderKeeps s { s with banks := s.banks.set k x } := by
  refine ⟨id, fun l ok => ⟨fun i b here => ?_, ok.2⟩⟩
  simp only [Fin.getElem_fin, Vector.getElem_set] at here
  split at here
  · exact good l ok b here
  · exact ok.1 i b here

/-! ### The loader -/

/-- R2: a load begins in a state without one, for the order in flight or for none. -/
theorem State.LoaderOk.beginLoad {phase : LoadPhase} (ok : s.LoaderOk) (idle : s.loader.load = none) {t : State}
    (begun : t.loadMapBegun true) (loader : t.loader = s.loader) : (t.beginLoad true phase).LoaderOk := by
  obtain ⟨loading, absent, valid, -, -, checked⟩ := ok
  have here : (t.beginLoad true phase).loader
      = { s.loader with state := .loading, enteredFrom := s.loader.state, load := some ⟨true, phase⟩ } := by
    rw [← loader]
    cases phase <;> rfl
  have service : (t.beginLoad true phase).service = t.service := beginLoad_touches t true phase .service (by decide)
  refine ⟨?_, ?_, ?_, fun _ => ?_, ?_, ?_⟩
  · simp [here]
  · simp [here]
  · simp [here]
  · rw [here]
    cases state : s.loader.state with
    | absent => exact .inl ⟨rfl, absent state⟩
    | valid => exact .inr ⟨rfl, valid state⟩
    | loading =>
      have := loading.mp state
      rw [idle] at this
      cases this
  · rw [State.loadMapBegun, service, here]
    exact ⟨fun _ => ⟨phase, rfl⟩, fun _ => begun⟩
  · rw [here]
    exact checked

/-- A load has ended and its order, if it has one, is still in flight. -/
structure State.LoadEnded (s : State) (ofOrder : Bool) : Prop where
  idle : s.loader.load = none
  not_loading : s.loader.state ≠ .loading
  absent : s.loader.state = .absent → s.loader.inUse = none
  valid : s.loader.state = .valid → s.loader.inUse.isSome = true
  begun : s.loadMapBegun true ↔ ofOrder = true
  checked : ∀ m, s.loader.inUse = some m → m.Checked

theorem State.LoadEnded.frame {o : Bool} (h : Touches ps s t) (ended : s.LoadEnded o) (loader : Part.loader ∉ ps := by decide)
    (service : Part.service ∉ ps := by decide) : t.LoadEnded o := by
  have hl : t.loader = s.loader := h .loader loader
  have hs : t.service = s.service := h .service service
  obtain ⟨idle, not_loading, absent, valid, begun, checked⟩ := ended
  constructor <;> simpa only [State.loadMapBegun, hl, hs]

theorem State.LoadEnded.loaderOk (h : s.LoadEnded false) : s.LoaderOk :=
  ⟨⟨fun l => absurd l h.not_loading, fun l => by rw [h.idle] at l; cases l⟩, h.absent, h.valid, fun l => absurd l h.not_loading,
    ⟨fun b => absurd (h.begun.mp b) (by decide), fun ⟨_, l⟩ => by rw [h.idle] at l; cases l⟩, h.checked⟩

theorem State.LoadEnded.noService {o : Bool} (h : s.LoadEnded o) : ({ s with service := none } : State).LoadEnded false :=
  ⟨h.idle, h.not_loading, h.absent, h.valid, ⟨fun ⟨_, _, l⟩ => (nomatch l), nofun⟩, h.checked⟩

theorem State.LoadEnded.endLoadOrder {o : Bool} (h : s.LoadEnded o) (st : Status) : (s.endLoadOrder o st).LoaderOk := by
  cases o with
  | false =>
    have unchanged : s.endLoadOrder false st = s := by
      unfold State.endLoadOrder
      split <;> rfl
    rw [unchanged]
    exact h.loaderOk
  | true =>
    obtain ⟨rec, image, here⟩ := h.begun.mpr rfl
    unfold State.endLoadOrder
    rw [here]
    exact (LoaderKeeps.frame (retire_touches { s with service := none } rec st [])).loader h.noService.loaderOk

theorem endLoadOrder_banksOk {o : Bool} {st : Status} (ok : s.BanksOk) : (s.endLoadOrder o st).BanksOk := by
  unfold State.endLoadOrder
  split
  · split
    · exact State.BanksOk.congr (retire_touches _ _ _ _ .banks (by decide)) (retire_touches _ _ _ _ .service (by decide))
        (s := { s with service := none }) ⟨ok.1, fun _ _ _ _ h => nomatch h⟩
    · exact ok
  · exact ok

theorem State.LoaderOk.begun_iff {o : Bool} {phase : LoadPhase} (ok : s.LoaderOk) (load : s.loader.load = some ⟨o, phase⟩) :
    s.loadMapBegun true ↔ o = true := by
  refine ok.2.2.2.2.1.trans ⟨fun ⟨p, h⟩ => ?_, fun h => ⟨phase, by rw [load, h]⟩⟩
  rw [load] at h
  cases h
  rfl

theorem State.LoaderOk.loading {o : Bool} {phase : LoadPhase} (ok : s.LoaderOk) (load : s.loader.load = some ⟨o, phase⟩) :
    s.loader.state = .loading := ok.1.mpr (by rw [load]; rfl)

/-- R2: the state LOADING was entered from returns. -/
theorem State.LoaderOk.dropLoad {o : Bool} {phase : LoadPhase} (ok : s.LoaderOk) (load : s.loader.load = some ⟨o, phase⟩) :
    s.dropLoad.LoadEnded o := by
  have entered := ok.2.2.2.1 (ok.loading load)
  refine ⟨rfl, fun h => ?_, fun h => ?_, fun h => ?_, ok.begun_iff load, ok.2.2.2.2.2⟩
  all_goals
    change s.loader.enteredFrom = _ at h
    rcases entered with ⟨from_, use⟩ | ⟨from_, use⟩ <;> rw [from_] at h <;> first | exact use | cases h

theorem State.LoaderOk.installMap {o : Bool} {phase : LoadPhase} {m : FocalMap} (ok : s.LoaderOk) (load : s.loader.load = some ⟨o, phase⟩)
    (checked : m.Checked) : (s.installMap m).LoadEnded o :=
  ⟨rfl, nofun, nofun, fun _ => rfl, ok.begun_iff load, fun m' h => by cases h; exact checked⟩

theorem endStaged_loaderOk {o : Bool} {phase : LoadPhase} {m : FocalMap} (ok : s.LoaderOk) (load : s.loader.load = some ⟨o, phase⟩)
    (checked : m.Checked) : (s.endStaged o m).LoaderOk := by
  have ended := ok.installMap load checked
  have taken := State.LoadEnded.frame (touches_freeTaken (s.installMap m) ((s.installMap m).freeTaken + 1)) ended
  unfold State.endStaged
  dsimp only
  split
  · next both =>
    have ofOrder : o = true := (Bool.and_eq_true_iff.mp both).1
    subst ofOrder
    split
    · exact (LoaderKeeps.frame (tellLinks_touches _)).loader (taken.endLoadOrder .ok)
    · exact (taken.frame (tellLinks_touches _)).endLoadOrder .ok
  · exact (ended.frame (tellLinks_touches _)).endLoadOrder .ok

theorem endStaged_banksOk {o : Bool} {m : FocalMap} (ok : s.BanksOk) : (s.endStaged o m).BanksOk := by
  have told {x : State} (ok : x.BanksOk) : x.tellLinks.BanksOk :=
    State.BanksOk.congr (tellLinks_touches x .banks (by decide)) (tellLinks_touches x .service (by decide)) ok
  unfold State.endStaged
  dsimp only
  split
  · split
    · exact told (endLoadOrder_banksOk ok)
    · exact endLoadOrder_banksOk (told ok)
  · exact endLoadOrder_banksOk (told ok)

theorem endLoad_loaderKeeps {o : Bool} {phase : LoadPhase} {out : LoadEnd} (load : s.loader.load = some ⟨o, phase⟩)
    (staged : ∀ m, out = .staged m → m.Checked) : LoaderKeeps s (s.endLoad o out) := by
  cases out with
  | staged m => exact ⟨fun ok => endStaged_loaderOk ok load (staged m rfl), fun _ ok => endStaged_banksOk ok⟩
  | failed st => exact ⟨fun ok => (ok.dropLoad load).endLoadOrder st, fun _ ok => endLoadOrder_banksOk (s := s.dropLoad) ok⟩
  | memoryError =>
    have counted : LoaderKeeps s (s.memError .bankAndMapRecords) := .frame (memError_touches s _)
    have load' : (s.memError .bankAndMapRecords).loader.load = some ⟨o, phase⟩ := by
      rw [memError_touches s _ .loader (by decide)]
      exact load
    exact ⟨fun ok => ((counted.loader ok).dropLoad load').endLoadOrder _,
      fun l ok => endLoadOrder_banksOk (s := (s.memError .bankAndMapRecords).dropLoad) (counted.banks l ok)⟩

theorem flashTimeout_loaderKeeps : LoaderKeeps s s.flashTimeout := by
  unfold State.flashTimeout
  split
  · next load => exact .ite (fun _ => endLoad_loaderKeeps load nofun) fun _ => .refl s
  · exact .refl s

theorem finishLoad_loaderKeeps (flash : List Byte) (early : List EarlyRead) : LoaderKeeps s (s.finishLoad flash early) := by
  unfold State.finishLoad
  split
  · next load => exact endLoad_loaderKeeps load fun _ => flashLoad_checked
  · next load => exact endLoad_loaderKeeps load fun _ => memoryLoad_checked
  · exact .refl s

theorem flashStatus_loaderKeeps (status : Byte) : LoaderKeeps s (s.flashStatus status) := by
  unfold State.flashStatus
  split
  · next o _ load =>
    refine .ite (fun _ => .refl s) fun _ => ⟨fun ok => ?_, fun _ ok => ok⟩
    obtain ⟨loading, absent, valid, entered, begun, checked⟩ := id ok
    exact ⟨⟨fun _ => rfl, fun _ => ok.loading load⟩, absent, valid, entered,
      (ok.begun_iff load).trans ⟨fun h => ⟨.dataRead, by rw [h]⟩, fun ⟨_, h⟩ => by cases h; rfl⟩, checked⟩
  · exact .refl s

/-! ### The service unit -/

/-- A LOAD_MAP in flight begins its load in a state without one. -/
theorem beginLoad_loaderKeeps {rec : Nat} {image : Option Nat} (phase : LoadPhase) (idle : s.loader.load = none) :
    LoaderKeeps s (({ s with service := some (.loadMap rec image true) } : State).beginLoad true phase) := by
  refine ⟨fun ok => ok.beginLoad idle ⟨rec, image, rfl⟩ rfl, fun _ ok => ?_⟩
  exact State.BanksOk.congr (beginLoad_touches _ true phase .banks (by decide)) (beginLoad_touches _ true phase .service (by decide))
    (s := { s with service := some (.loadMap rec image true) }) ⟨ok.1, fun _ _ _ _ h => nomatch h⟩

theorem beginWaitingLoad_loaderKeeps : LoaderKeeps s s.beginWaitingLoad := by
  unfold State.beginWaitingLoad
  split
  · next idle => exact beginLoad_loaderKeeps _ idle
  · exact .refl s

theorem takeLoadMap_loaderKeeps {off : Nat} (free : s.service = none) : LoaderKeeps s (s.takeLoadMap off) := by
  unfold State.takeLoadMap
  refine .ite (fun _ => ?_) fun _ => (LoaderKeeps.refl s).retire _ _ _
  dsimp only
  split
  · next idle => exact beginLoad_loaderKeeps _ idle
  · exact .setService (by rw [free]; exact fun _ _ => nofun) (fun _ _ => nofun) fun _ _ _ _ => nofun

theorem takeDefineBank_loaderKeeps {off k : Nat} (free : s.service = none) : LoaderKeeps s (s.takeDefineBank off k) := by
  unfold State.takeDefineBank
  split
  · exact (LoaderKeeps.refl s).retire _ _ _
  · next bank _ =>
    have emptied := LoaderKeeps.setBank (s := s) bank none fun _ _ => nofun
    dsimp only
    split
    · exact emptied.retire _ _ _
    · next m inUse =>
      refine LoaderKeeps.trans ?_ (.frame (startReads_touches _))
      refine emptied.trans ⟨fun ok => ok.setService (by rw [free]; exact fun _ _ => nofun) fun _ _ => nofun, fun l ok => ⟨ok.1, ?_⟩⟩
      rintro _ _ _ _ ⟨⟩ seg e here
      exact (((l.2.2.2.2.2 m inUse).2.1 seg e here)).2.1

theorem finishDefine_loaderKeeps (early : List EarlyRead) : LoaderKeeps s (s.finishDefine early) := by
  unfold State.finishDefine
  split
  · next rec k off map here =>
    have left : LoaderKeeps s { s with service := none } := .noService (by rw [here]; exact fun _ _ => nofun)
    dsimp only
    split
    · next b staged =>
      have good (ok : s.BanksOk) : b.Ok := checkBank_ok (ok.2 rec off k map here) staged
      have banked : LoaderKeeps s { s with service := none, banks := s.banks.set k (some b) } :=
        ⟨left.loader, fun l ok => (LoaderKeeps.setBank (s := { s with service := none }) k (some b) fun _ _ _ eq =>
          Option.some.inj eq ▸ good ok).banks (left.loader l) (left.banks l ok)⟩
      exact banked.retire rec .ok []
    · exact left.retire _ _ _
    · exact (left.trans (.frame (memError_touches _ _))).retire _ _ _
  · exact .refl s

theorem takeClear_loaderKeeps {off fieldNo : Nat} (free : s.service = none) : LoaderKeeps s (s.takeClear off fieldNo) := by
  unfold State.takeClear
  split
  · exact (LoaderKeeps.refl s).retire _ _ _
  · dsimp only
    split
    · exact .setService (by rw [free]; exact noLoad_none) (clear_noLoad _ _ _ _) (clear_noDefine _ _ _ _)
    · exact (LoaderKeeps.refl s).retire _ _ _

theorem takeFinalize_loaderKeeps {off fieldNo : Nat} (free : s.service = none) : LoaderKeeps s (s.takeFinalize off fieldNo) := by
  unfold State.takeFinalize
  split
  · exact (LoaderKeeps.refl s).retire _ _ _
  · dsimp only
    split
    · exact (LoaderKeeps.refl s).retire _ _ _
    split
    · exact (LoaderKeeps.refl s).retire _ _ _
    split
    · exact (LoaderKeeps.refl s).retire _ _ _
    · exact .setService (by rw [free]; exact noLoad_none) (finalize_noLoad _) (finalize_noDefine _)

/-- The order of a unit that is no load goes on or leaves flight. -/
theorem LoaderKeeps.ofOrder {x : ServiceOrder} {y : Option ServiceOrder} (k : LoaderKeeps s t) (here : s.service = some x)
    (kept : t.service = s.service) (hx : NoLoad (some x)) (hy : NoLoad y) (define : NoDefine y) : LoaderKeeps s { t with service := y } :=
  k.trans (.setService (by rw [kept, here]; exact hx) hy define)

theorem clearNext_loaderKeeps : LoaderKeeps s s.clearNext := by
  unfold State.clearNext
  split
  · next rec f r k here =>
    have frame := mapCell_touches s f
    have next (y : Option ServiceOrder) (c : Nat) (g : DirCell → DirCell) (load : NoLoad y) (define : NoDefine y) :
        LoaderKeeps s { s.mapCell f c g with service := y } :=
      .ofOrder (.frame (frame c g)) here (frame c g .service (by decide)) (clear_noLoad rec f r k) load define
    exact .ite (fun _ => next _ _ _ (clear_noLoad _ _ _ _) (clear_noDefine _ _ _ _)) fun _ =>
      (next _ _ _ noLoad_none noDefine_none).retire _ _ _
  · exact .refl s

/-- A FINALIZE in flight goes on, or leaves flight, over a change of memory and cells. -/
theorem LoaderKeeps.finalize {o : Finalize} {y : Option ServiceOrder} (h : Touches [.mem, .fields, .alert, .mirror, .messages] s t)
    (here : s.service = some (.finalize o)) (hy : NoLoad y) (define : NoDefine y) : LoaderKeeps s { t with service := y } :=
  .ofOrder (.frame h) here (h .service (by decide)) (finalize_noLoad o) hy define

theorem openCell_loaderKeeps : LoaderKeeps s s.openCell := by
  unfold State.openCell
  split
  · next o here =>
    split
    · exact LoaderKeeps.finalize (t := { s with mem := Memory.writeBytes s.mem o.product (leBytes 4 1) }) (touches_mem s _).mono here
        (finalize_noLoad _) (finalize_noDefine _)
    · exact .refl s
  · exact .refl s

theorem publishRow_loaderKeeps : LoaderKeeps s s.publishRow := by
  unfold State.publishRow
  split
  · next o here =>
    split
    · split
      · exact .refl s
      · dsimp only
        split
        · exact LoaderKeeps.finalize (spoilCell_touches s _ _).mono here (finalize_noLoad _) (finalize_noDefine _)
        · exact LoaderKeeps.finalize (t := { s with mem := writePlanes _ _ _ s.mem }) (touches_mem s _).mono here (finalize_noLoad _)
            (finalize_noDefine _)
    · exact .refl s
  · exact .refl s

theorem closeCell_loaderKeeps : LoaderKeeps s s.closeCell := by
  unfold State.closeCell
  split
  · next o here =>
    split
    · split
      · exact .refl s
      · next fd _ =>
        have next (y : Option ServiceOrder) (bytes : List Byte) (c : Nat) (load : NoLoad y) (define : NoDefine y) :
            LoaderKeeps s { (({ s with mem := Memory.writeBytes s.mem o.product bytes } : State).mapCell o.field c
              (DirCell.productWritten o.product)) with service := y } :=
          .finalize ((touches_mem s _).andThen (mapCell_touches _ o.field c _)) here load define
        exact .ite (fun _ => next _ _ _ (finalize_noLoad _) (finalize_noDefine _)) fun _ =>
          (next _ _ _ noLoad_none noDefine_none).retire _ _ _
    · exact .refl s
  · exact .refl s

/-! ### ABORT and resets (R10, R77) -/

/-- The load of the order in flight is dropped with the order. -/
theorem dropLoad_loaderKeeps {rec : Nat} {image : Option Nat} (here : s.service = some (.loadMap rec image true)) :
    LoaderKeeps s ({ s with service := none } : State).dropLoad := by
  refine ⟨fun ok => ?_, fun _ ok => ⟨ok.1, fun _ _ _ _ h => nomatch h⟩⟩
  obtain ⟨phase, load⟩ := ok.2.2.2.2.1.mp ⟨rec, image, here⟩
  exact ((ok.dropLoad load).noService).loaderOk

theorem abortService_loaderKeeps : LoaderKeeps s s.abortService := by
  unfold State.abortService
  split
  · exact .refl s
  · next here => exact (LoaderKeeps.noService (by rw [here]; exact finalize_noLoad _)).retire _ _ _
  · next here => exact (LoaderKeeps.noService (by rw [here]; exact clear_noLoad _ _ _ _)).retire _ _ _
  · next here => exact (LoaderKeeps.noService (by rw [here]; exact fun _ _ => nofun)).retire _ _ _
  · next begun here =>
    dsimp only
    cases begun with
    | true => exact (dropLoad_loaderKeeps here).retire _ _ _
    | false => exact (LoaderKeeps.noService (by rw [here]; exact fun _ _ => nofun)).retire _ _ _

theorem dropService_loaderKeeps : LoaderKeeps s s.dropService := by
  unfold State.dropService
  split
  · next here => exact dropLoad_loaderKeeps here
  · next other => exact .noService fun rec image here => other rec image here

/-! ### The walker -/

theorem State.service_none_of_not_held {h : OrderHead} (free : s.held h = false) (kind : h.kind ≠ 1) : s.service = none := by
  simp only [State.held, kind, if_false, Bool.or_eq_false_iff, State.serviceBusy, Option.isSome_eq_false_iff, Option.isNone_iff_eq_none] at free
  exact free.1.1.1.1.2

theorem failUnread_loaderKeeps (off : Nat) (h : OrderHead) : LoaderKeeps s (s.failUnread off h) := by
  unfold State.failUnread
  have emptied : LoaderKeeps s (if h.kind = 5 then s.emptyBank h.bank else s) := by
    refine .ite (fun _ => ?_) fun _ => .refl s
    unfold State.emptyBank
    split
    · exact .refl s
    · exact .setBank _ none fun _ _ => nofun
  exact (emptied.trans (.frame (memError_touches _ _))).retire _ _ _

theorem dispatch_loaderKeeps {off : Nat} {h : OrderHead} (free : s.held h = false) : LoaderKeeps s (s.dispatch off h) := by
  unfold State.dispatch
  split
  · exact (LoaderKeeps.refl s).retire _ _ _
  split
  · exact failUnread_loaderKeeps _ _
  split
  · exact .frame (takeAssemble_touches s _ _ _ _)
  next kind =>
  have idle : s.service = none := State.service_none_of_not_held free kind
  split
  · exact takeFinalize_loaderKeeps idle
  split
  · exact takeClear_loaderKeeps idle
  split
  · exact .frame (takeDefineField_touches s _ _)
  split
  · exact takeDefineBank_loaderKeeps idle
  split
  · exact .frame (takeDiscard_touches s _ _)
  · exact takeLoadMap_loaderKeeps idle

theorem examineRecord_loaderKeeps : LoaderKeeps s s.examineRecord.1 := by
  unfold State.examineRecord
  dsimp only
  split
  · exact .frame (chainFault_touches s _ _)
  split
  · exact (LoaderKeeps.frame (memError_touches s _)).trans (.frame (chainFault_touches _ _ _))
  split
  · exact .refl s
  split
  · split
    · exact .refl s
    · next free =>
      have taken : LoaderKeeps s ((s.markTaken s.walker.cursor).dispatch s.walker.cursor (readHead s.mem s.walker.cursor)) :=
        (LoaderKeeps.frame (markTaken_touches s _)).trans (dispatch_loaderKeeps ((held_markTaken _ _).trans (by simpa using free)))
      exact taken.trans (.frame (followNext_touches _))
  · exact .frame (chainFault_touches s _ _)

theorem examineOnce_loaderKeeps : LoaderKeeps s s.examineOnce.1 := by
  have started : LoaderKeeps s s.startPoll := .frame (startPoll_touches s)
  unfold State.examineOnce
  dsimp only
  split
  · exact started.trans (.frame (followNext_touches _))
  · exact started.trans examineRecord_loaderKeeps

theorem examine_loaderKeeps : LoaderKeeps s s.examine := by
  have loop (fuel : Nat) : ∀ s : State, LoaderKeeps s (s.examineLoop fuel) := by
    induction fuel with
    | zero => exact fun s => .refl s
    | succ fuel ih =>
      intro s
      unfold State.examineLoop
      exact .ite (fun _ => examineOnce_loaderKeeps.trans (ih _)) fun _ => examineOnce_loaderKeeps
  unfold State.examine
  exact .ite (fun _ => loop _ _) fun _ => .refl s

theorem stepWith_loaderKeeps {errs : List MemErr} {effect : State → State} (h : ∀ t, LoaderKeeps t (effect t)) :
    LoaderKeeps s (s.stepWith errs effect) := by
  have after (a b : State) : LoaderKeeps b (State.afterFlight a b) := by
    unfold State.afterFlight
    exact .ite (fun _ => .ite (fun _ => examine_loaderKeeps) fun _ => .ite (fun _ => .refl b) fun _ => .frame (stopWalker_touches b)) fun _ => .refl b
  unfold State.stepWith
  exact (((LoaderKeeps.frame (touches_errs s errs)).trans (h _)).trans (after _ _)).trans (.frame (noteMemory_touches _ _))

/-- A step whose effect leaves loader, banks and service unit alone. -/
theorem stepWith_loaderKeeps_of_frame {errs : List MemErr} {effect : State → State} (h : ∀ t, Touches ps t (effect t))
    (loader : Part.loader ∉ ps := by decide) (banks : Part.banks ∉ ps := by decide) (service : Part.service ∉ ps := by decide) :
    LoaderKeeps s (s.stepWith errs effect) :=
  stepWith_loaderKeeps fun t => .frame (h t) loader banks service

/-! ### The host port and the resets -/

theorem abortAll_loaderKeeps : LoaderKeeps s s.abortAll := by
  have deposit (x : State) : LoaderKeeps x x.abortDeposit := .frame (abortDeposit_touches x)
  have taken : LoaderKeeps s { s with freeTaken := s.freeTaken + 1 } := .frame (touches_freeTaken s _)
  unfold State.abortAll
  exact .ite (fun _ => .ite (fun _ => (taken.trans abortService_loaderKeeps).trans (deposit _)) fun _ =>
    (taken.trans (deposit _)).trans abortService_loaderKeeps) fun _ => (deposit _).trans abortService_loaderKeeps

theorem applyRun_loaderKeeps (was : WalkerState) : LoaderKeeps s (s.applyRun was) := by
  unfold State.applyRun
  split
  · exact .ite (fun _ => (LoaderKeeps.frame (setWalker_touches s _)).trans examine_loaderKeeps) fun _ => .refl s
  · exact .ite (fun _ => .refl s) fun _ => .ite (fun _ => .frame (touches_walker s _)) fun _ => .frame (stopWalker_touches s)

theorem softReset_loaderKeeps : LoaderKeeps s s.softReset := by
  have idle : LoaderKeeps s ({ s with deposit := .idle } : State).dropService := (LoaderKeeps.frame (touches_deposit s _)).trans dropService_loaderKeeps
  refine idle.trans (.frame ((((((resetPort_touches _ _ _).andThen (resetWalker_touches _) : Touches [.port, .walker, .mirror] _ _).andThen
    (resetAlert_touches _) : Touches [.port, .walker, .mirror, .alert] _ _).andThen (emptyPool_touches _) :
    Touches [.port, .walker, .mirror, .alert, .exposures, .slots] _ _).andThen (Touches.foldl _ softResetLink_touches _ _) :
    Touches [.links, .port, .walker, .mirror, .alert, .exposures, .slots] _ _)))

theorem controlWrite_loaderKeeps (c : ControlWrite) : LoaderKeeps s (s.controlWrite c) := by
  unfold State.controlWrite
  refine .ite (fun _ => softReset_loaderKeeps) fun _ => ?_
  exact (LoaderKeeps.frame (touches_port s _)).trans ((LoaderKeeps.ite (fun _ => abortAll_loaderKeeps) fun _ => .refl _).trans
    (applyRun_loaderKeeps _))

theorem busReset_loaderKeeps : LoaderKeeps s s.busReset := by
  have dropped : LoaderKeeps s s.dropDeposit.dropService := (LoaderKeeps.frame (dropDeposit_touches s)).trans dropService_loaderKeeps
  exact dropped.trans (.frame (((resetPort_touches _ _ _).andThen (resetWalker_touches _) : Touches [.port, .walker, .mirror] _ _).andThen
    (resetAlert_touches _) : Touches [.port, .walker, .mirror, .alert] _ _))

/-! ### Every command -/

theorem exec_loaderKeeps {c : Instr} (not_power : c ≠ .powerOn) (h : exec c s = .next t) : LoaderKeeps s t := by
  have control {errs : List MemErr} {w : ControlWrite} : LoaderKeeps s (s.stepWith errs (State.controlWrite w)) :=
    stepWith_loaderKeeps fun _ => controlWrite_loaderKeeps w
  have packet {errs : List MemErr} {l : LinkNo} {p : Header} {b : List Byte} : LoaderKeeps s (s.stepWith errs (State.packetArrives l p b)) :=
    stepWith_loaderKeeps_of_frame fun t => packetArrives_touches t l p b
  cases c with
  | powerOn => exact absurd rfl not_power
  | mirrorWriteLands off => cases h; exact .frame (landMirror_touches s _)
  | busReset => cases h; exact busReset_loaderKeeps
  | softReset w => cases h; exact controlWrite_loaderKeeps _
  | runSet w errs => cases h; exact control
  | runClear w errs => cases h; exact control
  | abort w errs => cases h; exact control
  | clearMode w errs => cases h; exact control
  | msgEn w errs => cases h; exact control
  | chainStart w => cases h; exact .frame (writeChainStart_touches s w)
  | poll w => cases h; exact .frame (writePoll_touches s w)
  | nudge w errs => cases h; exact stepWith_loaderKeeps fun _ => examine_loaderKeeps
  | alertCfg w => cases h; exact .frame (writeAlertCfg_touches s w)
  | alertWrite w => cases h; exact .frame (writeAlert_touches s w)
  | alertRead p => cases h; exact .frame (readAlert_touches s p)
  | registerWrite w => cases h; exact .refl s
  | hostWrite off bytes => cases h; exact .frame (hostStore_touches s _ _)
  | hostRead what errs =>
    cases what with
    | aperture off len => cases h; exact stepWith_loaderKeeps_of_frame fun t => hostLoad_touches t _ _
    | register r p => cases h; exact stepWith_loaderKeeps_of_frame fun t => readRegister_touches t r p
  | laneStartMark l n errs => cases h; exact stepWith_loaderKeeps_of_frame fun t => laneStart_touches t l n
  | laneEndMark l n errs => cases h; exact stepWith_loaderKeeps_of_frame fun t => laneEnd_touches t l n
  | laneDataByte l n b errs => cases h; exact stepWith_loaderKeeps_of_frame fun t => laneByte_touches t l n b
  | exposureOpen l tag errs => cases h; exact packet
  | exposureClose l tag errs => cases h; exact packet
  | segmentBegin l n count errs => cases h; exact packet
  | row l n index samples => cases h; exact .frame (packetArrives_touches s _ _ _)
  | segmentEnd l n sent errs => cases h; exact packet
  | burstEnd l => cases h; exact .frame (packetArrives_touches s _ _ _)
  | flashStatusRead status => cases h; exact flashStatus_loaderKeeps status
  | flashBusyTimeout errs => cases h; exact stepWith_loaderKeeps fun _ => flashTimeout_loaderKeeps
  | mapLoadEnd flash reads => cases h; exact stepWith_loaderKeeps fun _ => finishLoad_loaderKeeps _ _
  | loadMapBegin => cases h; exact beginWaitingLoad_loaderKeeps
  | pollTimerExpiry errs =>
    cases h
    refine stepWith_loaderKeeps fun x => ?_
    unfold State.pollExpiry
    split
    · exact .ite (fun _ => examine_loaderKeeps) fun _ => .refl x
    · exact .refl x
  | rowDeposit reads =>
    cases h
    have landed : LoaderKeeps s (s.landRowWrites reads.during) := .frame (landRowWrites_touches s _)
    exact landed.trans (stepWith_loaderKeeps_of_frame fun t => rowEvent_touches t (s.rowViews reads.during))
  | deadlineExpiry errs => cases h; exact stepWith_loaderKeeps_of_frame fun t => deadline_touches t
  | finalizeCellOpening => cases h; exact openCell_loaderKeeps
  | finalizeCellRow errs => cases h; exact stepWith_loaderKeeps fun _ => publishRow_loaderKeeps
  | finalizeCellClosing errs => cases h; exact stepWith_loaderKeeps fun _ => closeCell_loaderKeeps
  | cellClear errs => cases h; exact stepWith_loaderKeeps fun _ => clearNext_loaderKeeps
  | defineBankEnd reads => cases h; exact stepWith_loaderKeeps fun _ => finishDefine_loaderKeeps _
  | quietTimerExpiry => cases h; exact .frame (quietExpiry_touches s)

theorem landMirror_loaderKeeps (off : Nat) : LoaderKeeps s (s.landMirror off) := .frame (landMirror_touches s off)

/-- Settles O55. -/
theorem everyStepKeepsLoaderAndBanks : Obligations.EveryStepKeepsLoaderAndBanks := by
  constructor
  · exact .of_exec (fun _ _ ok => ok) (fun _ ok => ok) (fun _ _ => reset_loaderOk) (fun _ off => (landMirror_loaderKeeps off).loader)
      fun _ _ _ not_power _ h => (exec_loaderKeeps not_power h).loader
  · exact .of_exec (fun _ _ ok => ok) (fun _ ok => ok) (fun _ _ => ⟨reset_loaderOk, reset_banksOk⟩)
      (fun _ off ok => ⟨(landMirror_loaderKeeps off).loader ok.1, (landMirror_loaderKeeps off).banks ok.1 ok.2⟩)
      fun _ _ _ not_power _ h ok => ⟨(exec_loaderKeeps not_power h).loader ok.1, (exec_loaderKeeps not_power h).banks ok.1 ok.2⟩

end Sys2Proof.Machine
end

section
/-! The step itself, the reset state, waiting mirror writes, rounding, and the alert unit with a retirement (O1, O2, O11, O13 to O15,
O37). -/

-- One theorem at a time: the threads of a parallel elaboration reserve more memory than the check allows.
set_option Elab.async false

namespace Sys2Proof.Machine

variable {s t : State}

/-! ### The part -/

/-- Settles O1: both clauses are the two cases of `step`. -/
theorem stepRunsTheFrontCommand : Obligations.StepRunsTheFrontCommand := ⟨fun _ _ _ => rfl, fun _ => rfl⟩

theorem reset_link (l : LinkNo) : State.reset.links[l] = Link.start := by simp [State.reset]

/-- Settles O2. -/
theorem powerOnState : Obligations.PowerOnState := by
  refine ⟨fun s => rfl, rfl, fun l => ?_, fun p => by simp [State.reset], fun n => by simp [State.reset], fun b => by simp [State.reset],
    fun f => by simp [State.reset], rfl, rfl, rfl, rfl, rfl, rfl, ?_, rfl, by decide, rfl, rfl⟩
  · rw [reset_link]
    exact ⟨rfl, rfl, rfl, rfl, fun c => by simp [Link.start]⟩
  · exact fun i => by simp [State.reset, AlertUnit.start]

/-! ### Mirror writes (R66, R169) -/

/-- R169: the oldest waiting write of a field, with the writes before it, of which none holds it back. -/
theorem takeMirror_of_split {off : Nat} {pre post : List MirrorWrite} {w : MirrorWrite} (here : w.off = off)
    (oldest : ∀ x ∈ pre, x.off ≠ off) (free : off = 0x024 → ∀ x ∈ pre, ¬ (0x200 ≤ x.off ∧ x.off < 0x600)) :
    takeMirror off (pre ++ w :: post) = some (w, pre ++ post) := by
  induction pre with
  | nil => exact if_pos here
  | cons x pre ih =>
    have blocked : ¬(off = 0x024 ∧ isReportOff x.off = true) := fun ⟨count, report⟩ =>
      free count x (by simp) (by simpa [isReportOff] using report)
    rw [List.cons_append, takeMirror, if_neg (oldest x (by simp)), if_neg blocked,
      ih (fun y hy => oldest y (by simp [hy])) fun count y hy => free count y (by simp [hy])]
    rfl

theorem takeMirror_of_none_waiting {off : Nat} {ws : List MirrorWrite} (h : ∀ x ∈ ws, x.off ≠ off) : takeMirror off ws = none := by
  induction ws with
  | nil => rfl
  | cons x ws ih =>
    rw [takeMirror, if_neg (h x (by simp)), ih fun y hy => h y (by simp [hy])]
    split <;> rfl

/-- R66: a segment report that waits before the free count's write holds it back. -/
theorem takeMirror_of_report {pre post : List MirrorWrite} {r : MirrorWrite} (report : 0x200 ≤ r.off ∧ r.off < 0x600)
    (before : ∀ x ∈ pre, x.off ≠ 0x024) : takeMirror 0x024 (pre ++ r :: post) = none := by
  induction pre with
  | nil =>
    rw [List.nil_append, takeMirror, if_neg (by omega), if_pos ⟨rfl, by simpa [isReportOff] using report⟩]
  | cons x pre ih =>
    rw [List.cons_append, takeMirror, if_neg (before x (by simp)), ih fun y hy => before y (by simp [hy])]
    split <;> rfl

theorem exec_mirrorWriteLands (off : BitVec 12) (s : State) : exec (.mirrorWriteLands off) s = .next (s.landMirror off.toNat) := rfl

theorem landMirror_of_none {off : Nat} (h : takeMirror off s.mirror = none) : s.landMirror off = s := by
  unfold State.landMirror
  rw [h]

/-- Settles O11. -/
theorem mirrorWritesLandFieldByField : Obligations.MirrorWritesLandFieldByField := by
  intro off s
  refine ⟨fun pre post w queue here oldest free => ?_, fun none_waits => ?_, fun pre post r count queue report before => ?_⟩
  · have found := takeMirror_of_split (post := post) here oldest fun count => free (BitVec.eq_of_toNat_eq count)
    rw [exec_mirrorWriteLands, State.landMirror, queue, found, ← here]
  · rw [exec_mirrorWriteLands, landMirror_of_none (takeMirror_of_none_waiting none_waits)]
  · subst count
    rw [exec_mirrorWriteLands, landMirror_of_none]
    rw [queue]
    exact takeMirror_of_report report before

/-! ### Rounding -/

/-- Half a divisor added before the division makes the quotient a nearest one, and the greater of two. -/
theorem nearest_quotient {a d : Nat} (pos : 0 < d) : let q := (2 * a + d) / (2 * d)
    2 * (q * d) ≤ 2 * a + d ∧ 2 * a < 2 * (q * d) + d := by
  have split := Nat.div_add_mod (2 * a + d) (2 * d)
  have rest := Nat.mod_lt (2 * a + d) (show 0 < 2 * d by omega)
  have product : 2 * d * ((2 * a + d) / (2 * d)) = 2 * ((2 * a + d) / (2 * d) * d) := by ring
  omega

/-- Settles O37. -/
theorem roundingIsNearestTiesAway : Obligations.RoundingIsNearestTiesAway := by
  intro x d pos
  obtain ⟨lower, upper⟩ := nearest_quotient (a := x.natAbs) pos
  unfold roundDiv
  dsimp only
  generalize (2 * x.natAbs + d) / (2 * d) = q at lower upper
  have product : (q : Int) * d = ((q * d : Nat) : Int) := (Nat.cast_mul q d).symm
  split
  · rw [Int.neg_mul, product]
    omega
  · rw [product]
    omega

/-! ### Raising a cause (R172, R177) -/

theorem Causes.add_of_has {c : Causes} {x : Cause} (h : c.has x = true) : c.add x = c := by
  obtain ⟨fault, receive, mark, quiet⟩ := c
  cases x <;> cases h <;> rfl

theorem Causes.any_eq_false_iff {c : Causes} : c.any = false ↔ c = ⟨false, false, false, false⟩ :=
  ⟨Causes.eq_empty_of_any_eq_false, fun h => h ▸ rfl⟩

theorem Causes.ne_empty_of_has {c : Causes} {x : Cause} (h : c.has x = true) : c ≠ ⟨false, false, false, false⟩ := by
  rintro rfl
  cases x <;> cases h

/-- R177: raising a cause sends the first-alert message. -/
abbrev State.alerts (s : State) (c : Cause) : Prop :=
  s.port.control.msgEn = true ∧ s.port.alertCfg.enables.has c = true ∧ s.alert.pending = ⟨false, false, false, false⟩

/-- R172, R177: a raise adds its cause to the pending set and sends a message at a first alert. -/
theorem raise_eq (c : Cause) (s : State) : s.raise c = { s with
    alert := { s.alert with pending := s.alert.pending.add c }
    messages := if s.alerts c then s.messages + 1 else s.messages } := by
  unfold State.raise
  split
  · next has =>
    rw [Causes.add_of_has has, if_neg fun h => Causes.ne_empty_of_has has h.2.2]
  · by_cases first : s.alerts c
    · obtain ⟨on, enabled, empty⟩ := first
      rw [if_pos (show s.alerts c from ⟨on, enabled, empty⟩), if_pos (by rw [on, enabled, Causes.any_eq_false_iff.mpr empty]; rfl)]
      rfl
    · rw [if_neg first, if_neg]
      intro sends
      simp only [Bool.and_eq_true, Bool.not_eq_true', Causes.any_eq_false_iff] at sends
      exact first ⟨sends.1.1, sends.1.2, sends.2⟩

/-- R174: the mark is above 0 and reached. -/
abbrev State.markReached (s : State) : Prop := 0 < s.port.alertCfg.mark.toNat ∧ s.port.alertCfg.mark.toNat ≤ s.alert.ackCount

theorem testMark_of_reached (h : s.markReached) : s.testMark = s.raise .mark := if_pos h

theorem testMark_of_not_reached (h : ¬ s.markReached) : s.testMark = s := if_neg h

/-- R174, R175: what a reported retirement does at the alert unit. -/
theorem alertRetirement_alert (s : State) : s.alertRetirement.alert = { s.alert with
    ackCount := min (s.alert.ackCount + 1) 4294967295
    pending := if 0 < s.port.alertCfg.mark.toNat ∧ s.port.alertCfg.mark.toNat ≤ min (s.alert.ackCount + 1) 4294967295
      then { s.alert.pending with mark := true } else s.alert.pending
    quietTimer := if s.port.alertCfg.quiet = 0#16 then none else some (s.timeBase + s.port.alertCfg.quiet.toNat * 10) } := by
  have zero : s.port.alertCfg.quiet = 0#16 ↔ ¬ 0 < s.port.alertCfg.quiet.toNat := by
    rw [← BitVec.toNat_inj, BitVec.toNat_ofNat]
    omega
  simp only [zero, ite_not]
  unfold State.alertRetirement
  dsimp only
  have port (x : State) : x.testMark.port = x.port := testMark_touches x .port (by decide)
  have time (x : State) : x.testMark.timeBase = x.timeBase := testMark_touches x .timeBase (by decide)
  simp only [port, time]
  by_cases reached : 0 < s.port.alertCfg.mark.toNat ∧ s.port.alertCfg.mark.toNat ≤ min (s.alert.ackCount + 1) 4294967295
  · rw [testMark_of_reached reached, raise_alert, if_pos reached]
    rfl
  · rw [testMark_of_not_reached reached, if_neg reached]
    rfl

/-- Settles O14. -/
theorem raiseAndRetirementAtTheAlertUnit : Obligations.RaiseAndRetirementAtTheAlertUnit := by
  intro s
  refine ⟨fun c => ?_, alertRetirement_touches s, alertRetirement_alert s⟩
  rw [raise_eq]
  cases c <;> rfl

end Sys2Proof.Machine
end

section
/-! The writes of ALERT_CFG and the quiet timer (O13), and a retirement: what it writes, and what it tells the alert unit (O15). -/

-- One theorem at a time: the threads of a parallel elaboration reserve more memory than the check allows.
set_option Elab.async false

namespace Sys2Proof.Machine

variable {s t : State}

/-! ### Runs of fields -/

theorem flatMap_leBytes_length {α : Type} (n : Nat) (f : α → Nat) (l : List α) : (l.flatMap fun x => leBytes n (f x)).length = n * l.length := by
  induction l with
  | nil => rfl
  | cons x l ih => rw [List.flatMap_cons, List.length_append, leBytes_length, ih, List.length_cons, Nat.mul_succ, Nat.add_comm]

/-- Field i of a run of fields of one width. -/
theorem flatMap_leBytes_field {α : Type} (n : Nat) (f : α → Nat) (l : List α) {i : Nat} (hi : i < l.length) :
    ((l.flatMap fun x => leBytes n (f x)).drop (n * i)).take n = leBytes n (f l[i]) := by
  induction l generalizing i with
  | nil => simp at hi
  | cons x l ih =>
    cases i with
    | zero => rw [Nat.mul_zero, List.drop_zero, List.flatMap_cons, List.take_left' (leBytes_length _ _)]; rfl
    | succ i =>
      rw [List.flatMap_cons, Nat.mul_succ, Nat.add_comm, ← List.drop_drop, List.drop_left' (leBytes_length _ _), ih (by simpa using hi)]
      rfl

/-- A run of fields written to board memory reads back field by field. -/
theorem readNat_flatMap_leBytes {α : Type} {n : Nat} {f : α → Nat} {l : List α} {off i : Nat} (m : List Host.Cell) (hi : i < l.length)
    (fits : off + n * l.length ≤ Config.memSize) :
    Memory.readNat (Memory.writeBytes m off (l.flatMap fun x => leBytes n (f x))) (off + n * i) n = f l[i] % 256 ^ n := by
  have inside : n * i + n ≤ n * l.length := by rw [← Nat.mul_succ]; exact Nat.mul_le_mul_left _ hi
  rw [Memory.readNat_writeBytes _ _ _ _ _ (by rw [flatMap_leBytes_length]; exact inside) (by rw [flatMap_leBytes_length]; exact fits),
    flatMap_leBytes_field _ _ _ hi, leNat_leBytes]

/-- A field written to board memory reads back. -/
theorem readNat_leBytes {n v off : Nat} (m : List Host.Cell) (fits : off + n ≤ Config.memSize) :
    Memory.readNat (Memory.writeBytes m off (leBytes n v)) off n = v % 256 ^ n := by
  have whole := Memory.readNat_writeBytes m off (leBytes n v) 0 n (by rw [leBytes_length]; omega) (by rw [leBytes_length]; exact fits)
  rw [Nat.add_zero] at whole
  rw [whole, List.drop_zero, List.take_of_length_le (by rw [leBytes_length]), leNat_leBytes]

theorem readNat_writeBytes_apart {n v off a k : Nat} (m : List Host.Cell) (apart : a + k ≤ off ∨ off + n ≤ a) :
    Memory.readNat (Memory.writeBytes m off (leBytes n v)) a k = Memory.readNat m a k :=
  Memory.readNat_writeBytes_outside _ _ _ _ _ (by rw [leBytes_length]; exact apart)

theorem read_writeBytes_apart {n v off a : Nat} (m : List Host.Cell) (apart : a < off ∨ off + n ≤ a) :
    Memory.read (Memory.writeBytes m off (leBytes n v)) a = Memory.read m a :=
  Memory.read_writeBytes_outside _ _ _ _ (by rw [leBytes_length]; exact apart)

/-! ### The record of a retirement (R168, R180) -/

theorem resultSlots_getElem (rs : List Nat) {i : Nat} (hi : i < 11) :
    ((rs ++ List.replicate 11 0).take 11)[i]'(by simp; omega) = rs.getD i 0 := by
  rw [List.getElem_take, List.getD_eq_getElem?_getD]
  by_cases given : i < rs.length
  · rw [List.getElem_append_left given, List.getElem?_eq_getElem given]
    rfl
  · rw [List.getElem_append_right (by omega), List.getElem?_eq_none (by omega), List.getElem_replicate]
    rfl

theorem resultBytes_length (rs : List Nat) : (resultBytes rs).length = 44 := by
  rw [resultBytes, flatMap_leBytes_length 4 fun x => x]
  simp

theorem recordResults_shows {off : Nat} (st : Status) (rs : List Nat) (time : Nat) (m : List Host.Cell) (fits : off + 128 ≤ Config.memSize) :
    Memory.recordShows (recordResults off st rs time m) off st rs time := by
  have code : st.code < 65536 := by cases st <;> decide
  have word : st.stateWord < 4294967296 := by unfold Status.stateWord; split <;> decide
  unfold recordResults
  dsimp only
  refine ⟨?_, ?_, ?_, fun i hi => ?_⟩
  · rw [readNat_leBytes _ (by omega)]
    exact Nat.mod_eq_of_lt word
  · rw [readNat_writeBytes_apart _ (by omega), readNat_writeBytes_apart _ (by omega), readNat_leBytes _ (by omega)]
    exact Nat.mod_eq_of_lt code
  · rw [readNat_writeBytes_apart _ (by omega), readNat_leBytes _ (by omega)]
    rfl
  · rw [readNat_writeBytes_apart _ (by omega), readNat_writeBytes_apart _ (by omega), readNat_writeBytes_apart _ (by omega)]
    have slot := readNat_flatMap_leBytes (n := 4) (f := fun x => x) (l := (rs ++ List.replicate 11 0).take 11) (off := off + 84) (i := i) m
      (by simp; omega) (by simp; omega)
    rw [resultSlots_getElem rs hi] at slot
    exact slot

/-- R168: nothing of the record but results, status, retire time and state word is written. -/
theorem read_recordResults_outside {off a : Nat} (st : Status) (rs : List Nat) (time : Nat) (m : List Host.Cell)
    (h : a < off ∨ (off + 4 ≤ a ∧ a < off + 6) ∨ (off + 8 ≤ a ∧ a < off + 32) ∨ (off + 40 ≤ a ∧ a < off + 84) ∨ off + 128 ≤ a) :
    Memory.read (recordResults off st rs time m) a = Memory.read m a := by
  unfold recordResults
  dsimp only
  rw [read_writeBytes_apart _ (by omega), read_writeBytes_apart _ (by omega), read_writeBytes_apart _ (by omega),
    Memory.read_writeBytes_outside _ _ _ _ (by rw [resultBytes_length]; omega)]

theorem recordResults_sameOutside (off : Nat) (st : Status) (rs : List Nat) (time : Nat) (m : List Host.Cell) :
    Memory.sameOutside m (recordResults off st rs time m) off 128 :=
  fun _ h => read_recordResults_outside _ _ _ _ (h.elim .inl fun above => .inr (.inr (.inr (.inr above))))

/-! ### A retirement (R168, R174) -/

/-- R177: a retirement sends the first-alert message of MARK. -/
theorem alertRetirement_messages (s : State) : s.alertRetirement.messages
    = if (0 < s.port.alertCfg.mark.toNat ∧ s.port.alertCfg.mark.toNat ≤ min (s.alert.ackCount + 1) 4294967295) ∧ s.alerts .mark
      then s.messages + 1 else s.messages := by
  unfold State.alertRetirement
  dsimp only
  by_cases reached : 0 < s.port.alertCfg.mark.toNat ∧ s.port.alertCfg.mark.toNat ≤ min (s.alert.ackCount + 1) 4294967295
  · rw [testMark_of_reached reached, raise_eq]
    simp only [reached, true_and]
  · rw [testMark_of_not_reached reached, if_neg fun h => reached h.1]

/-- What a retirement does at the alert unit depends on that unit, the registers and the time base alone. -/
theorem alertRetirement_congr (alert : t.alert = s.alert) (port : t.port = s.port) (time : t.timeBase = s.timeBase)
    (messages : t.messages = s.messages) :
    t.alertRetirement.alert = s.alertRetirement.alert ∧ t.alertRetirement.messages = s.alertRetirement.messages := by
  constructor
  · rw [alertRetirement_alert, alertRetirement_alert, alert, port, time]
  · simp only [alertRetirement_messages, State.alerts, alert, port, messages]

section Taken
variable {off : Nat} {st : Status} {rs : List Nat} (unmet : s.readErr .reread off 4 = false) (taken : Memory.readNat s.mem off 4 = 2)
include unmet taken

/-- R168: a record still TAKEN shows the retirement, and the walker and the alert unit count it. -/
theorem retire_of_taken : s.retire off st rs
    = (({ s with mem := recordResults off st rs s.timeBase s.mem } : State).setWalker (s.retiredWalker off)).alertRetirement := by
  unfold State.retire
  rw [if_neg (by rw [unmet]; decide), if_pos taken]
  rfl

theorem retire_mem : (s.retire off st rs).mem = recordResults off st rs s.timeBase s.mem := by
  rw [retire_of_taken unmet taken, alertRetirement_touches _ .mem (by decide), setWalker_touches _ _ .mem (by decide)]

theorem retire_walker : (s.retire off st rs).walker = s.retiredWalker off := by
  rw [retire_of_taken unmet taken, alertRetirement_touches _ .walker (by decide), setWalker_walker]

theorem retire_alert : (s.retire off st rs).alert = s.alertRetirement.alert ∧ (s.retire off st rs).messages = s.alertRetirement.messages := by
  rw [retire_of_taken unmet taken]
  have frame := setWalker_touches { s with mem := recordResults off st rs s.timeBase s.mem } (s.retiredWalker off)
  exact alertRetirement_congr (frame .alert (by decide)) (frame .port (by decide)) (frame .timeBase (by decide)) (frame .messages (by decide))

theorem retire_ackCount : (s.retire off st rs).alert.ackCount = min (s.alert.ackCount + 1) 4294967295 := by
  rw [(retire_alert unmet taken).1, alertRetirement_alert]

/-- R168, R174: a retirement of a record still TAKEN. -/
theorem retire_retires (fits : off + 128 ≤ Config.memSize) : s.Retires (s.retire off st rs) off st rs := by
  refine ⟨?_, ?_, retire_walker unmet taken, retire_ackCount unmet taken⟩
  · rw [retire_mem unmet taken]
    exact recordResults_shows _ _ _ _ fits
  · rw [retire_mem unmet taken]
    exact recordResults_sameOutside _ _ _ _ _

end Taken

theorem faultRecord_of_retire {why : FaultReason} {off : Nat} : Touches [.walker, .mirror, .alert, .messages] s (s.faultRecord why off)
    ∧ (s.faultRecord why off).walker = { s.walker with faultReason := why, faultOffset := off }
    ∧ (s.faultRecord why off).alert = { s.alert with pending := { s.alert.pending with fault := true } } :=
  ⟨faultRecord_touches s why off, faultRecord_walker s why off, faultRecord_alert s why off⟩

/-- Settles O15. -/
theorem retirementOfAnOrder : Obligations.RetirementOfAnOrder := by
  intro s off st rs fits
  refine ⟨fun unmet taken => ?_, fun unmet left => ?_, fun met => ?_⟩
  · refine ⟨retire_touches s off st rs, ?_, fun a h => ?_, retire_walker unmet taken, retire_alert unmet taken⟩
    · rw [retire_mem unmet taken]
      exact recordResults_shows _ _ _ _ fits
    · rw [retire_mem unmet taken]
      exact read_recordResults_outside _ _ _ _ h
  · unfold State.retire
    rw [if_neg (by rw [unmet]; decide), if_neg left]
    exact faultRecord_of_retire
  · unfold State.retire
    rw [if_pos met]
    obtain ⟨touches, walker, alert⟩ := faultRecord_of_retire (s := s.memError .orderRecords) (why := .recordRead) (off := off)
    have counted := memError_touches s .orderRecords
    refine ⟨counted.andThen touches, ?_, ?_⟩
    · rw [walker, counted .walker (by decide)]
    · rw [alert, memError_alert]
      rfl

/-! ### ALERT_CFG (R174, R175) -/

/-- A write that covers the low half takes mark and quiet interval from it. -/
theorem alertCfgAfter_low {w : RegWrite} {low : BitVec 32} (half : lowHalf w = some low) (old : AlertCfg) :
    alertCfgAfter old w = ⟨low.setWidth 8, low.extractLsb' 16 16, (alertCfgAfter old w).enables⟩ := by
  simp [alertCfgAfter, half, BitVec.extractLsb']

/-- R174: a write of the low half tests the mark it writes against the count, and stops the quiet timer when it writes 0. -/
theorem writeAlertCfg_of_low {w : RegWrite} {low : BitVec 32} (half : lowHalf w = some low) (s : State) :
    (s.writeAlertCfg w).port = { s.port with alertCfg := alertCfgAfter s.port.alertCfg w }
    ∧ (s.writeAlertCfg w).alert = { s.alert with
        pending := if 0 < (low.setWidth 8).toNat ∧ (low.setWidth 8).toNat ≤ s.alert.ackCount
          then { s.alert.pending with mark := true } else s.alert.pending
        quietTimer := if low.extractLsb' 16 16 = 0#16 then none else s.alert.quietTimer }
    ∧ (s.writeAlertCfg w).messages = if (0 < (low.setWidth 8).toNat ∧ (low.setWidth 8).toNat ≤ s.alert.ackCount)
          ∧ s.port.control.msgEn = true ∧ (alertCfgAfter s.port.alertCfg w).enables.mark = true
            ∧ s.alert.pending = ⟨false, false, false, false⟩
        then s.messages + 1 else s.messages := by
  have mark : (alertCfgAfter s.port.alertCfg w).mark = low.setWidth 8 := congrArg AlertCfg.mark (alertCfgAfter_low half _)
  have quiet : (alertCfgAfter s.port.alertCfg w).quiet = low.extractLsb' 16 16 := congrArg AlertCfg.quiet (alertCfgAfter_low half _)
  unfold State.writeAlertCfg
  rw [half]
  dsimp only
  generalize alertCfgAfter s.port.alertCfg w = cfg at mark quiet ⊢
  rw [← mark, ← quiet, show (0#16 : BitVec 16) = 0 from rfl]
  by_cases reached : 0 < cfg.mark.toNat ∧ cfg.mark.toNat ≤ s.alert.ackCount
  · rw [testMark_of_reached (s := { s with port := { s.port with alertCfg := cfg } }) reached, raise_eq]
    by_cases stops : cfg.quiet = 0
    · rw [if_pos stops, if_pos reached, if_pos stops]
      exact ⟨rfl, rfl, if_congr ⟨fun h => ⟨reached, h⟩, fun h => h.2⟩ rfl rfl⟩
    · rw [if_neg stops, if_pos reached, if_neg stops]
      exact ⟨rfl, rfl, if_congr ⟨fun h => ⟨reached, h⟩, fun h => h.2⟩ rfl rfl⟩
  · rw [testMark_of_not_reached (s := { s with port := { s.port with alertCfg := cfg } }) reached]
    by_cases stops : cfg.quiet = 0
    · rw [if_pos stops, if_neg reached, if_pos stops, if_neg fun h => reached h.1]
      exact ⟨rfl, rfl, rfl⟩
    · rw [if_neg stops, if_neg reached, if_neg stops, if_neg fun h => reached h.1]
      exact ⟨rfl, rfl, rfl⟩

/-- Settles O13. -/
theorem alertCfgWriteAndQuietExpiry : Obligations.AlertCfgWriteAndQuietExpiry := by
  intro s
  refine ⟨fun v => ?_, fun w => ?_, fun w => rfl, fun q runs due => ?_, fun early => ?_⟩
  · obtain ⟨port, alert, messages⟩ := writeAlertCfg_of_low (lowHalf_whole v) s
    have high : (alertCfgAfter s.port.alertCfg (.whole v)).enables = ⟨v.getLsbD 32, v.getLsbD 33, v.getLsbD 34, v.getLsbD 35⟩ := by
      simp [alertCfgAfter, highHalf, causesOf]
    rw [high] at messages
    refine ⟨_, rfl, writeAlertCfg_touches s _, ?_, alert, messages⟩
    rw [port, ← high, alertCfgAfter_low (lowHalf_whole v)]
  · obtain ⟨port, alert, messages⟩ := writeAlertCfg_of_low (w := .low w) rfl s
    refine ⟨_, rfl, writeAlertCfg_touches s _, ?_, alert, messages⟩
    rw [port, alertCfgAfter_low rfl]
    rfl
  · refine ⟨_, rfl, quietExpiry_touches s, ?_⟩
    unfold State.quietExpiry
    rw [runs]
    dsimp only
    rw [if_pos due]
    split
    · rw [raise_alert]
      rfl
    · rfl
  · show Host.Outcome.next s.quietExpiry = _
    unfold State.quietExpiry
    split
    · next q runs => rw [if_neg (Nat.not_le.mpr (early q runs))]
    · rfl

end Sys2Proof.Machine
end

section
/-! The bus reset and the soft reset (R10, R28, R29, R69, R125, R142, R159, R171, R178; O3, O4). -/

-- One theorem at a time: the threads of a parallel elaboration reserve more memory than the check allows.
set_option Elab.async false

namespace Sys2Proof.Machine

variable {s t : State}

/-! ### The units (R10, R70, R125, R142, R155) -/

/-- The entry of a tag's place takes the change. -/
theorem mapEntry_exposures {tag : Tag} {p : Fin 4} {e : ExpEntry} (place : s.placeOf tag = some p) (here : s.exposures[p] = some e)
    (f : ExpEntry → ExpEntry) : (s.mapEntry tag f).exposures = s.exposures.set p (some (f e)) := by
  unfold State.mapEntry
  rw [place]
  dsimp only
  rw [here]
  exact setPlace_exposures _ _ _

/-- R55: an entry that leaves ASSEMBLING. -/
def ExpEntry.unbound (e : ExpEntry) : ExpEntry := { e with state := if e.closedBy = e.openedBy then .closed else .opened }

theorem unbind_exposures {tag : Tag} {p : Fin 4} {e : ExpEntry} (place : s.placeOf tag = some p) (here : s.exposures[p] = some e) :
    (s.unbind tag).exposures = s.exposures.set p (some e.unbound) := mapEntry_exposures place here _

theorem dropDeposit_of_serving {o : Assembly} (h : s.deposit = .serving o) : s.dropDeposit = { s.unbind o.tag with deposit := .idle } := by
  unfold State.dropDeposit
  rw [h]

theorem dropDeposit_of_not_serving (h : ∀ o, s.deposit ≠ .serving o) : s.dropDeposit = { s with deposit := .idle } := by
  unfold State.dropDeposit
  split
  · next o serving => exact absurd serving (h o)
  · rfl

theorem dropDeposit_deposit : s.dropDeposit.deposit = .idle := by
  unfold State.dropDeposit
  split <;> rfl

/-- R10: the loader after the order in flight is abandoned: the state its load was entered from returns. -/
def State.loaderDropped (s : State) : Loader :=
  match s.service with
  | some (.loadMap _ _ true) => { s.loader with state := s.loader.enteredFrom, load := none }
  | _ => s.loader

theorem dropService_service : s.dropService.service = none := by
  unfold State.dropService
  split <;> rfl

theorem dropService_loader : s.dropService.loader = s.loaderDropped := by
  unfold State.dropService
  split
  · next here =>
    unfold State.loaderDropped
    rw [here] <;> rfl
  · next other =>
    unfold State.loaderDropped
    split
    · next here => exact absurd here (other _ _)
    · rfl

theorem loaderDropped_congr (loader : t.loader = s.loader) (service : t.service = s.service) : t.loaderDropped = s.loaderDropped := by
  unfold State.loaderDropped
  rw [loader, service]

/-! ### The walker, the alert unit and the registers (R171, R178) -/

theorem resetWalker_walker : s.resetWalker.walker = ⟨.stopped, s.walker.cursor, false, none, 0, 0, .none, 0⟩ :=
  queueAll_touches { s with walker := { Walker.start with cursor := s.walker.cursor } } _ .walker (by decide)

theorem resetAlert_alert : s.resetAlert.alert = ⟨⟨false, false, false, false⟩, 0, none, s.alert.memErrors⟩ :=
  queueAll_touches { s with alert := { AlertUnit.start with memErrors := s.alert.memErrors } } _ .alert (by decide)

theorem resetPort_port (clearMode msgEn : Bool) : (s.resetPort clearMode msgEn).port =
    { control := ⟨false, clearMode, msgEn⟩, chainStart := 0, poll := 100, alertCfg := ⟨0, 0, ⟨true, true, true, true⟩⟩,
      guardDrops := s.port.guardDrops } := rfl

/-- R171, R178: registers, walker and alert unit take their reset values. -/
def State.resetHost (clearMode msgEn : Bool) (s : State) : State := (s.resetPort clearMode msgEn).resetWalker.resetAlert

section ResetHost
variable (clearMode msgEn : Bool)

theorem resetHost_touches : Touches [.port, .walker, .alert, .mirror] s (s.resetHost clearMode msgEn) :=
  (((resetPort_touches s clearMode msgEn).andThen (resetWalker_touches _) : Touches [.port, .walker, .mirror] _ _).andThen (resetAlert_touches _))

theorem resetHost_port : (s.resetHost clearMode msgEn).port = (s.resetPort clearMode msgEn).port := by
  unfold State.resetHost
  rw [resetAlert_touches _ .port (by decide), resetWalker_touches _ .port (by decide)]

theorem resetHost_walker : (s.resetHost clearMode msgEn).walker = ⟨.stopped, s.walker.cursor, false, none, 0, 0, .none, 0⟩ := by
  unfold State.resetHost
  rw [resetAlert_touches _ .walker (by decide), resetWalker_walker]
  rfl

theorem resetHost_alert : (s.resetHost clearMode msgEn).alert = ⟨⟨false, false, false, false⟩, 0, none, s.alert.memErrors⟩ := by
  unfold State.resetHost
  rw [resetAlert_alert, resetWalker_touches _ .alert (by decide)]
  rfl

end ResetHost

/-! ### The bus reset -/

theorem busReset_eq : s.busReset = s.dropDeposit.dropService.resetHost false false := rfl

/-- Settles O3. -/
theorem busResetSetsAndLeaves : Obligations.BusResetSetsAndLeaves := by
  intro s
  have units := (dropDeposit_touches s).andThen (dropService_touches s.dropDeposit) (rs := [.exposures, .mirror, .deposit, .loader, .service])
  have host {p : Part} (h : p ∉ [Part.port, .walker, .alert, .mirror]) := resetHost_touches (s := s.dropDeposit.dropService) false false p h
  have dropped := dropService_touches s.dropDeposit
  have unchanged := dropDeposit_touches s
  refine ⟨s.busReset, rfl, busReset_touches s, ?_, ?_, ?_, ?_, ?_, ?_, fun o p e serving place here => ?_, fun not_serving => ?_⟩
  · rw [busReset_eq, host (p := .deposit) (by decide), dropped .deposit (by decide), dropDeposit_deposit]
  · rw [busReset_eq, host (p := .service) (by decide), dropService_service]
  · rw [busReset_eq, resetHost_port, resetPort_port, units .port (by decide)]
  · rw [busReset_eq, resetHost_walker, units .walker (by decide)]
  · rw [busReset_eq, resetHost_alert, units .alert (by decide)]
  · rw [busReset_eq, host (p := .loader) (by decide), dropService_loader,
      loaderDropped_congr (unchanged .loader (by decide)) (unchanged .service (by decide))]
    rfl
  · rw [busReset_eq, host (p := .exposures) (by decide), dropped .exposures (by decide), dropDeposit_of_serving serving]
    exact unbind_exposures place here
  · rw [busReset_eq, host (p := .exposures) (by decide), dropped .exposures (by decide), dropDeposit_of_not_serving not_serving]

/-! ### The soft reset -/

/-- R28: a link after a soft reset, with the settings drawn from the map in use. -/
def Link.reset (st : Option LinkSettings) : Link := { Link.start with phase := if st.isSome then .idle else .off, settings := st }

theorem softResetLink_links (l : LinkNo) : (s.softResetLink l).links = s.links.set l (Link.reset (drawSettings s.loader.inUse l)) :=
  mirrorRun_touches _ (fun c : Fin 14 => 0x100 + 0x40 * l.val + 4 * c.val) (leBytes 4 0) _ .links (by decide)

theorem foldl_softResetLink_links (ls : List LinkNo) (l : LinkNo) : (ls.foldl State.softResetLink s).links[l]
    = if l ∈ ls then Link.reset (drawSettings s.loader.inUse l) else s.links[l] := by
  induction ls generalizing s with
  | nil => rfl
  | cons m ls ih =>
    have loader : (s.softResetLink m).loader = s.loader := softResetLink_touches s m .loader (by decide)
    rw [List.foldl_cons, ih, loader, softResetLink_links, links_set_getElem]
    by_cases later : l ∈ ls
    · rw [if_pos later, if_pos (List.mem_cons_of_mem _ later)]
    · rw [if_neg later]
      by_cases here : l = m
      · rw [if_pos here, if_pos (by simp [here]), here]
      · rw [if_neg here, if_neg (by simp [here, later])]

theorem emptyPool_empty : (∀ p : Fin 4, s.emptyPool.exposures[p] = none) ∧ ∀ n : SlotNo, s.emptyPool.slots[n] = none := by
  have frame (ws : List (Nat × List Byte)) := queueAll_touches
    { s with exposures := Vector.replicate 4 none, slots := Vector.replicate 128 none } ws
  unfold State.emptyPool
  constructor
  · intro p
    rw [frame _ .exposures (by decide)]
    simp
  · intro n
    rw [frame _ .slots (by decide)]
    simp

theorem softReset_eq : s.softReset = (List.finRange 4).foldl State.softResetLink
    ((({ s with deposit := .idle } : State).dropService.resetHost s.port.control.clearMode s.port.control.msgEn).emptyPool) := rfl

/-- Settles O4. -/
theorem softResetSetsAndLeaves : Obligations.SoftResetSetsAndLeaves := by
  intro w s
  have dropped := (touches_deposit s .idle).andThen (dropService_touches _) (rs := [.deposit, .loader, .service])
  have host := resetHost_touches (s := ({ s with deposit := .idle } : State).dropService) s.port.control.clearMode s.port.control.msgEn
  have pool := emptyPool_touches (({ s with deposit := .idle } : State).dropService.resetHost s.port.control.clearMode s.port.control.msgEn)
  have tail := pool.andThen (Touches.foldl State.softResetLink softResetLink_touches (List.finRange 4) _)
    (rs := [.exposures, .slots, .mirror, .links])
  have links := Touches.foldl State.softResetLink softResetLink_touches (List.finRange 4)
    (({ s with deposit := .idle } : State).dropService.resetHost s.port.control.clearMode s.port.control.msgEn).emptyPool
  refine ⟨s.softReset, rfl, softReset_touches s, ?_, ?_, ?_, ?_, ?_, ?_, fun p => ?_, fun n => ?_, fun l => ?_⟩
  · rw [softReset_eq, tail .deposit (by decide), host .deposit (by decide), dropService_touches _ .deposit (by decide)]
  · rw [softReset_eq, tail .service (by decide), host .service (by decide), dropService_service]
  · rw [softReset_eq, tail .port (by decide), resetHost_port, resetPort_port, dropped .port (by decide)]
  · rw [softReset_eq, tail .walker (by decide), resetHost_walker, dropped .walker (by decide)]
  · rw [softReset_eq, tail .alert (by decide), resetHost_alert, dropped .alert (by decide)]
  · rw [softReset_eq, tail .loader (by decide), host .loader (by decide), dropService_loader]
    rfl
  · rw [softReset_eq, links .exposures (by decide)]
    exact emptyPool_empty.1 p
  · rw [softReset_eq, links .slots (by decide)]
    exact emptyPool_empty.2 n
  · have inUse : (({ s with deposit := .idle } : State).dropService.resetHost s.port.control.clearMode
        s.port.control.msgEn).emptyPool.loader.inUse = s.loader.inUse := by
      rw [pool .loader (by decide), host .loader (by decide), dropService_loader]
      unfold State.loaderDropped
      split <;> rfl
    rw [softReset_eq, foldl_softResetLink_links, if_pos (List.mem_finRange l), inUse]
    refine ⟨rfl, ?_, rfl, rfl, fun c => by simp [Link.reset, Link.start], fun n => by simp [Link.reset, Link.start, Lane.start], rfl, rfl⟩
    cases drawSettings s.loader.inUse l <;> rfl

end Sys2Proof.Machine
end

section
/-! What ends a step (R161, R162), one examination by the record it meets (R163 to R165), and the CONTROL write (R159, R162; O5, O6). -/

-- One theorem at a time: the threads of a parallel elaboration reserve more memory than the check allows.
set_option Elab.async false

namespace Sys2Proof.Machine

variable {s t : State}

/-! ### Orders in flight (R166) -/

theorem depositBusy_eq_false_iff : s.depositBusy = false ↔ s.deposit = .idle := by
  unfold State.depositBusy State.assembly
  cases s.deposit <;> simp

theorem serviceBusy_eq_false_iff : s.serviceBusy = false ↔ s.service = none := by simp [State.serviceBusy]

theorem anyInFlight_eq_false_iff : s.anyInFlight = false ↔ s.NoOrder := by
  rw [State.anyInFlight, Bool.or_eq_false_iff, depositBusy_eq_false_iff, serviceBusy_eq_false_iff, State.NoOrder]

theorem anyInFlight_eq_true (h : ¬ s.NoOrder) : s.anyInFlight = true := by
  rw [← Bool.not_eq_false, anyInFlight_eq_false_iff]
  exact h

/-! ### The end of a step -/

/-- What the walker and the notes of memory add to an effect stays within the walker's parts. -/
theorem stepWith_after (errs : List MemErr) (effect : State → State) :
    Touches walkParts (effect { s with errs := errs }) (s.stepWith errs effect) :=
  (afterFlight_touches _ _).trans (noteMemory_touches _ _).mono

theorem stepWith_frame {p : Part} {errs : List MemErr} {effect : State → State} (untouched : p ∉ walkParts := by decide) :
    (effect { s with errs := errs }).sameAt (s.stepWith errs effect) p := stepWith_after errs effect p untouched

/-- A step that makes no order leave flight, over board memory that does not change, is its effect. -/
theorem stepWith_of_units {errs : List MemErr} {effect : State → State} {u : State} (is_effect : effect { s with errs := errs } = u)
    (units : Touches [.walker, .mirror, .alert, .messages, .port, .errs, .readData, .freeTaken, .links, .fields, .loader] s u) :
    s.stepWith errs effect = u :=
  State.stepWith_eq_effect is_effect (units .deposit (by decide)) (units .service (by decide)) (units .mem (by decide))

theorem readErr_of_no_errs (h : s.errs = []) (by_ : ReadBy) (off n : Nat) : s.readErr by_ off n = false := by
  rw [State.readErr, h]
  rfl

/-! ### The walker's fields -/

theorem setWalker_self : s.setWalker s.walker = s := by simp [State.setWalker, State.mirrorIf]

theorem stopWalker_walker : s.stopWalker.walker = { s.walker with state := .stopped, pollTimer := none } := setWalker_walker _ _

/-- R165: a chain fault. -/
theorem chainFault_walker (why : FaultReason) (off : Nat) : (s.chainFault why off).walker
    = { s.walker with state := .halted, pollTimer := none, faultReason := why, faultOffset := off } := by
  rw [State.chainFault, faultRecord_walker, setWalker_walker]

theorem chainFault_alert (why : FaultReason) (off : Nat) :
    (s.chainFault why off).alert = { s.alert with pending := { s.alert.pending with fault := true } } := by
  rw [State.chainFault, faultRecord_alert, setWalker_touches _ _ .alert (by decide)]
  rfl

/-! ### One examination (R161, R163 to R165) -/

/-- An examination that moves the cursor nowhere. -/
theorem examine_of_once {u : State} (h : s.Examines) (once : s.examineOnce = (u, false)) : s.examine = u := by
  have loop : s.examine = s.examineLoop (s.mem.length + 2) := if_pos h
  rw [loop, State.examineLoop, once]
  rfl

theorem examine_of_not_examines (h : ¬ s.Examines) : s.examine = s := if_neg h

section Record
variable (free : s.walker.parked = false)
include free

theorem examineOnce_of_unparked : s.examineOnce = s.startPoll.examineRecord := by
  unfold State.examineOnce
  exact if_neg (show ¬ s.walker.parked = true by rw [free]; decide)

/-- R165: the cursor fails the check. -/
theorem examineOnce_of_bad_cursor (bad : offsetPasses s.walker.cursor = false) :
    s.examineOnce = (s.startPoll.chainFault .chainLink s.walker.cursor, false) := by
  rw [examineOnce_of_unparked free]
  exact if_pos (show (!offsetPasses s.walker.cursor) = true by rw [bad]; rfl)

variable (passes : offsetPasses s.walker.cursor = true)
include passes

theorem examineRecord_of_passes : s.examineOnce = (if s.startPoll.readErr .record s.walker.cursor 128 then
      ((s.startPoll.memError .orderRecords).chainFault .recordRead s.walker.cursor, false)
    else if Memory.readNat s.mem s.walker.cursor 4 = 0 then (s.startPoll, false)
    else if Memory.readNat s.mem s.walker.cursor 4 = 1 then
      if s.startPoll.held (readHead s.mem s.walker.cursor) then (s.startPoll, false)
      else ((s.startPoll.markTaken s.walker.cursor).dispatch s.walker.cursor (readHead s.mem s.walker.cursor)).followNext
    else (s.startPoll.chainFault .chainState s.walker.cursor, false)) := by
  rw [examineOnce_of_unparked free]
  exact if_neg (show ¬ (!offsetPasses s.walker.cursor) = true by rw [passes]; decide)

/-- R165: the record read meets a memory error. -/
theorem examineOnce_of_met (met : s.readErr .record s.walker.cursor 128 = true) :
    s.examineOnce = ((s.startPoll.memError .orderRecords).chainFault .recordRead s.walker.cursor, false) := by
  rw [examineRecord_of_passes free passes]
  exact if_pos met

variable (unmet : s.readErr .record s.walker.cursor 128 = false)
include unmet

omit free passes in
theorem not_record_met : ¬ s.startPoll.readErr .record s.walker.cursor 128 = true := by
  rw [Bool.not_eq_true]
  exact unmet

/-- R163: a FREE record. -/
theorem examineOnce_of_free (word : Memory.readNat s.mem s.walker.cursor 4 = 0) : s.examineOnce = (s.startPoll, false) := by
  rw [examineRecord_of_passes free passes, if_neg (not_record_met unmet), if_pos word]

/-- R164, R166: a POSTED record that is held. -/
theorem examineOnce_of_held (word : Memory.readNat s.mem s.walker.cursor 4 = 1) (held : s.held (readHead s.mem s.walker.cursor) = true) :
    s.examineOnce = (s.startPoll, false) := by
  rw [examineRecord_of_passes free passes, if_neg (not_record_met unmet), if_neg (by omega), if_pos word]
  exact if_pos held

/-- R163, R164: a POSTED record that is not held is taken, and its next field followed. -/
theorem examineOnce_of_posted (word : Memory.readNat s.mem s.walker.cursor 4 = 1) (free' : s.held (readHead s.mem s.walker.cursor) = false) :
    s.examineOnce = ((s.startPoll.markTaken s.walker.cursor).dispatch s.walker.cursor (readHead s.mem s.walker.cursor)).followNext := by
  rw [examineRecord_of_passes free passes, if_neg (not_record_met unmet), if_neg (by omega), if_pos word]
  exact if_neg (show ¬ s.held _ = true by rw [free']; decide)

/-- R165: a state word that is neither FREE nor POSTED. -/
theorem examineOnce_of_bad_word (word : 2 ≤ Memory.readNat s.mem s.walker.cursor 4) :
    s.examineOnce = (s.startPoll.chainFault .chainState s.walker.cursor, false) := by
  rw [examineRecord_of_passes free passes, if_neg (not_record_met unmet), if_neg (by omega), if_neg (by omega)]

end Record

section Next
variable (unmet : s.readErr .nextField (s.walker.cursor + 8) 8 = false)

theorem followNext_of_met (met : s.readErr .nextField (s.walker.cursor + 8) 8 = true) :
    s.followNext = ((s.memError .orderRecords).chainFault .recordRead s.walker.cursor, false) := if_pos met

include unmet

/-- R164: a next field of 0 parks the walker. -/
theorem followNext_of_zero (zero : Memory.readNat s.mem (s.walker.cursor + 8) 8 = 0) :
    s.followNext = (s.setWalker { s.walker with parked := true }, false) := by
  unfold State.followNext
  dsimp only
  rw [if_neg (by rw [unmet]; decide), if_pos zero]

theorem followNext_of_bad (next : Memory.readNat s.mem (s.walker.cursor + 8) 8 ≠ 0)
    (bad : offsetPasses (Memory.readNat s.mem (s.walker.cursor + 8) 8) = false) :
    s.followNext = (s.chainFault .chainLink (Memory.readNat s.mem (s.walker.cursor + 8) 8), false) := by
  unfold State.followNext
  dsimp only
  rw [if_neg (by rw [unmet]; decide), if_neg next, if_neg (by rw [bad]; decide)]

end Next

theorem examineOnce_of_parked (parked : s.walker.parked = true) : s.examineOnce = s.startPoll.followNext := by
  unfold State.examineOnce
  exact if_pos (show s.walker.parked = true from parked)

/-- R164: a parked walker whose next field is still 0. -/
theorem examineOnce_of_waiting (parked : s.walker.parked = true) (unmet : s.readErr .nextField (s.walker.cursor + 8) 8 = false)
    (zero : Memory.readNat s.mem (s.walker.cursor + 8) 8 = 0) : s.examineOnce = (s.startPoll, false) := by
  rw [examineOnce_of_parked parked, followNext_of_zero (s := s.startPoll) unmet zero]
  have same : ({ s.startPoll.walker with parked := true } : Walker) = s.startPoll.walker := by
    have still : s.startPoll.walker.parked = true := parked
    rw [← still]
  rw [same, setWalker_self]

/-! ### CONTROL (R159) -/

/-- R159: RUN, CLEAR_MODE and MSG_EN kept as written. -/
abbrev State.keeping (c : ControlWrite) (s : State) : State := { s with port := { s.port with control := ⟨c.run, c.clearMode, c.msgEn⟩ } }

theorem controlWrite_of_kept {c : ControlWrite} (no_reset : c.softReset = false) :
    s.controlWrite c = (if c.abort then (s.keeping c).abortAll else s.keeping c).applyRun s.walker.state := by
  unfold State.controlWrite
  rw [if_neg (by rw [no_reset]; decide)]

theorem controlWrite_port {c : ControlWrite} (no_reset : c.softReset = false) :
    (s.controlWrite c).port = { s.port with control := ⟨c.run, c.clearMode, c.msgEn⟩ } := by
  rw [controlWrite_of_kept no_reset, applyRun_touches _ _ .port (by decide)]
  cases c.abort with
  | false => rfl
  | true => exact abortAll_touches _ .port (by decide)

theorem control_step_port {errs : List MemErr} {c : ControlWrite} (no_reset : c.softReset = false) :
    (s.stepWith errs (State.controlWrite c)).port = { s.port with control := ⟨c.run, c.clearMode, c.msgEn⟩ } :=
  (stepWith_frame (p := .port)).trans (controlWrite_port no_reset)

theorem abortAll_of_no_order (h : s.NoOrder) : s.abortAll = s := by
  obtain ⟨deposit, service⟩ := h
  have no_deposit : s.abortDeposit = s := by
    unfold State.abortDeposit
    rw [deposit]
  have no_service : s.abortService = s := by
    unfold State.abortService
    rw [service]
  unfold State.abortAll
  rw [if_neg (by simp [serviceBusy_eq_false_iff.mpr service]), no_deposit, no_service]

/-- R159: an ABORT with no order in flight keeps the fields as any other CONTROL write does. -/
theorem controlWrite_of_no_order {c : ControlWrite} (no_reset : c.softReset = false) (idle : s.NoOrder)
    (run : c.run = decide (s.walker.state ≠ .stopped)) :
    s.controlWrite c = { s with port := { s.port with control := ⟨c.run, c.clearMode, c.msgEn⟩ } } := by
  have nothing : (s.keeping c).abortAll = s.keeping c := abortAll_of_no_order idle
  rw [controlWrite_of_kept no_reset, nothing, ite_self]
  exact State.applyRun_of_run_kept run

/-- The bits of the low half are those of the whole word. -/
theorem controlFields_low (x : BitVec 32) : controlFields (.low x) = controlFields (.whole (x.setWidth 64)) := by
  simp [controlFields, ControlWord.value]

/-- Settles O5. -/
theorem controlWriteKeepsItsFields : Obligations.ControlWriteKeepsItsFields := by
  intro w errs s
  refine ⟨⟨_, rfl, control_step_port rfl⟩, ⟨_, rfl, control_step_port rfl⟩, ⟨_, rfl, control_step_port rfl⟩,
    ⟨_, rfl, control_step_port rfl⟩, ⟨_, rfl, control_step_port rfl⟩, fun run => ⟨fun no_abort => ?_, fun idle => ?_⟩, fun x => ?_⟩
  · have kept := exec_clearMode_of_run_kept errs run no_abort
    exact ⟨kept, kept⟩
  · have written := controlWrite_of_no_order (s := { s with errs := errs })
      (c := { controlFields w with abort := true, softReset := false }) rfl idle run
    exact congrArg Host.Outcome.next (State.stepWith_eq_effect written rfl rfl rfl)
  · simp only [exec, execSoftReset, execRunSet, execRunClear, execAbort, execClearMode, execMsgEn, controlFields_low, and_self]

/-! ### RUN (R162) -/

section Cleared
variable {was : WalkerState} (not_stopped : was ≠ .stopped) (clear : s.port.control.run = false)
include not_stopped clear

theorem applyRun_of_clear : s.applyRun was = if s.anyInFlight || decide (s.walker.state = .stopped) then
      { s with walker := { s.walker with pollTimer := none } } else s.stopWalker := by
  unfold State.applyRun
  split
  · exact absurd rfl not_stopped
  · exact if_neg (by rw [clear]; decide)

theorem applyRun_of_busy (busy : s.anyInFlight = true) : s.applyRun was = { s with walker := { s.walker with pollTimer := none } } := by
  rw [applyRun_of_clear not_stopped clear, busy]
  rfl

theorem applyRun_of_idle (idle : s.anyInFlight = false) (state : s.walker.state ≠ .stopped) : s.applyRun was = s.stopWalker := by
  rw [applyRun_of_clear not_stopped clear, idle, decide_eq_false state]
  rfl

end Cleared

theorem exec_nudge (w : RegWrite) (errs : List MemErr) (s : State) : exec (.nudge w errs) s = .next (s.stepWith errs State.examine) := rfl

theorem exec_runSet (w : ControlWord) (errs : List MemErr) (s : State) : exec (.runSet w errs) s
    = .next (s.stepWith errs (State.controlWrite { controlFields w with run := true, softReset := false })) := rfl

theorem exec_runClear (w : ControlWord) (errs : List MemErr) (s : State) : exec (.runClear w errs) s
    = .next (s.stepWith errs (State.controlWrite { controlFields w with run := false, softReset := false })) := rfl

/-- R162: RUN set in STOPPED makes an examination from CHAIN_START. -/
def State.started (s : State) : State :=
  s.setWalker { s.walker with state := .running, cursor := s.port.chainStart.toNat, parked := false }

theorem started_touches : Touches [.walker, .mirror] s s.started := setWalker_touches s _

theorem started_walker : s.started.walker = { s.walker with state := .running, cursor := s.port.chainStart.toNat, parked := false } :=
  setWalker_walker _ _

theorem startWalker_eq : s.startWalker = s.started.examine := rfl

theorem controlWrite_of_no_abort {c : ControlWrite} (no_reset : c.softReset = false) (no_abort : c.abort = false) :
    s.controlWrite c = (s.keeping c).applyRun s.walker.state := by
  rw [controlWrite_of_kept no_reset, no_abort]
  rfl

/-- Settles O6. -/
theorem runWrittenInEachWalkerState : Obligations.RunWrittenInEachWalkerState := by
  intro w errs s v no_abort kept
  -- The state that RUN_SET examines in STOPPED.
  have starts (stopped : s.walker.state = .stopped) :
      ({ s with errs := [] } : State).controlWrite { controlFields w with run := true, softReset := false }
        = ({ s with errs := [], port := kept true } : State).started.examine := by
    rw [controlWrite_of_no_abort rfl no_abort]
    unfold State.applyRun
    rw [stopped]
    rfl
  have examines (r : State) (hr : r = ({ s with errs := [], port := kept true } : State).started) :
      r.Examines ∧ r.walker.parked = false ∧ r.walker.cursor = s.port.chainStart.toNat ∧ r.errs = [] ∧ r.mem = s.mem ∧ r.timeBase = s.timeBase
        ∧ r.port = kept true := by
    have frame := started_touches (s := { s with errs := [], port := kept true })
    rw [← hr] at frame
    have walker : r.walker = _ := hr ▸ started_walker
    refine ⟨⟨by rw [walker], ?_⟩, by rw [walker], by rw [walker], frame .errs (by decide), frame .mem (by decide), frame .timeBase (by decide),
      frame .port (by decide)⟩
    rw [frame .port (by decide)]
  have frame := started_touches (s := { s with errs := [], port := kept true })
  have before : Touches [.errs, .port] s { s with errs := [], port := kept true } := fun p hp => by
    cases p <;> first | rfl | exact absurd (by decide) hp
  refine ⟨fun stopped passes free => ?_, fun stopped bad => ?_, fun not_stopped => ?_, fun stopped => ?_, fun not_stopped busy => ?_,
    fun not_stopped idle => ?_⟩
  · obtain ⟨ex, unparked, cursor, no_errs, mem, time, port⟩ := examines _ rfl
    have once := examineOnce_of_free unparked (by rw [cursor]; exact passes) (readErr_of_no_errs no_errs _ _ _) (by rw [cursor, mem]; exact free)
    have effect := (starts stopped).trans (examine_of_once ex once)
    have touches := (before.andThen frame : Touches [.errs, .port, .walker, .mirror] _ _).andThen (startPoll_touches _)
      (rs := [.walker, .port, .mirror, .errs])
    refine ⟨_, by rw [exec_runSet, stepWith_of_units effect touches.mono], touches, port, ?_⟩
    show ({ (State.started _).walker with pollTimer := some ((State.started _).timeBase + (State.started _).port.poll.toNat) } : Walker) = _
    rw [started_walker, time, port]
  · obtain ⟨ex, unparked, cursor, no_errs, mem, time, port⟩ := examines _ rfl
    have once := examineOnce_of_bad_cursor unparked (by rw [cursor]; exact bad)
    rw [cursor] at once
    have effect := (starts stopped).trans (examine_of_once ex once)
    have touches := ((before.andThen frame : Touches [.errs, .port, .walker, .mirror] _ _).andThen (startPoll_touches _) :
      Touches [.errs, .port, .walker, .mirror] _ _).andThen (chainFault_touches _ .chainLink s.port.chainStart.toNat)
      (rs := [.walker, .port, .mirror, .errs, .alert, .messages])
    refine ⟨_, by rw [exec_runSet, stepWith_of_units effect touches.mono], touches, ?_, ?_, ?_⟩
    · rw [chainFault_touches _ _ _ .port (by decide)]
      exact port
    · rw [chainFault_walker]
      show ({ (State.started _).walker with state := .halted, pollTimer := none, faultReason := _, faultOffset := _ } : Walker) = _
      rw [started_walker]
    · rw [chainFault_alert]
      show ({ (State.started _).alert.pending with fault := true } : Causes) = _
      rw [frame .alert (by decide)]
  · have written := State.controlWrite_of_run_kept (s := { s with errs := errs })
      (c := { controlFields w with run := true, softReset := false }) rfl no_abort (by simpa using not_stopped)
    rw [exec_runSet, State.stepWith_eq_effect written rfl rfl rfl]
    rfl
  · have written := State.controlWrite_of_run_kept (s := { s with errs := errs })
      (c := { controlFields w with run := false, softReset := false }) rfl no_abort (by simpa using stopped)
    rw [exec_runClear, State.stepWith_eq_effect written rfl rfl rfl]
    rfl
  · have written : ({ s with errs := errs } : State).controlWrite { controlFields w with run := false, softReset := false }
        = { s with errs := errs, port := kept false, walker := { s.walker with pollTimer := none } } := by
      rw [controlWrite_of_no_abort rfl no_abort]
      exact applyRun_of_busy not_stopped rfl (anyInFlight_eq_true busy)
    rw [exec_runClear, State.stepWith_eq_effect written rfl rfl rfl]
  · have written : ({ s with errs := errs } : State).controlWrite { controlFields w with run := false, softReset := false }
        = ({ s with errs := errs, port := kept false } : State).stopWalker := by
      rw [controlWrite_of_no_abort rfl no_abort]
      exact applyRun_of_idle not_stopped rfl (anyInFlight_eq_false_iff.mpr idle) not_stopped
    have kept' : Touches [.errs, .port] s { s with errs := errs, port := kept false } := fun p hp => by
      cases p <;> first | rfl | exact absurd (by decide) hp
    have touches := kept'.andThen (stopWalker_touches _) (rs := [.walker, .port, .mirror, .errs])
    exact ⟨_, by rw [exec_runClear, stepWith_of_units written touches.mono], touches, stopWalker_touches _ .port (by decide), stopWalker_walker⟩

end Sys2Proof.Machine
end

section
/-! ABORT over one busy unit (R141, R154, R162; O7, O8), examinations that take nothing and the hold table (R161, R163, R164, R166; O16),
and the chain faults (R165; O17). -/

-- One theorem at a time: the threads of a parallel elaboration reserve more memory than the check allows.
set_option Elab.async false

namespace Sys2Proof.Machine

variable {s t : State}

/-! ### ABORT -/

theorem abortAll_of_one (h : (s.depositBusy && s.serviceBusy) = false) : s.abortAll = s.abortDeposit.abortService := by
  unfold State.abortAll
  rw [if_neg (by rw [h]; decide)]

theorem abortService_of_none (h : s.service = none) : s.abortService = s := by
  unfold State.abortService
  rw [h]

theorem abortDeposit_of_idle (h : s.deposit = .idle) : s.abortDeposit = s := by
  unfold State.abortDeposit
  rw [h]

/-- R161, R162: a walker that stands STOPPED with RUN clear has nothing to follow up. -/
theorem afterFlight_of_stopped (before : State) (run : s.port.control.run = false) (stopped : s.walker.state = .stopped) :
    State.afterFlight before s = s := by
  unfold State.afterFlight
  split
  · rw [if_neg (by rw [run]; decide), if_pos (by rw [stopped]; simp)]
  · rfl

/-- R8, R74: memory that no order reads on is not noted. -/
theorem noteMemory_of_none_reads (before : State) (h : s.reading = none) : s.noteMemory before = s := by
  unfold State.noteMemory
  rw [if_neg]
  rintro ⟨reads, same, -⟩
  rw [← same, h] at reads
  cases reads

theorem reading_of_no_service (h : s.service = none) : s.reading = none := by
  unfold State.reading
  rw [h]

theorem stopWalker_touches' : Touches [.walker, .mirror] s s.stopWalker := stopWalker_touches s

/-- The part as an ABORT of the word finds it: no memory errors, the CONTROL fields kept. -/
abbrev State.aborting (w : ControlWord) (s : State) : State :=
  ({ s with errs := [] } : State).keeping { controlFields w with abort := true, softReset := false }

/-- R159, R162: an ABORT with RUN cleared that leaves no order in flight stops the walker. -/
theorem exec_abort_of_ended {w : ControlWord} {u : State} (run : w.value.getLsbD 0 = false) (not_stopped : s.walker.state ≠ .stopped)
    (ended : (s.aborting w).abortAll = u) (idle : u.NoOrder) (state : u.walker.state ≠ .stopped) (port : u.port = (s.aborting w).port) :
    exec (.abort w []) s = .next u.stopWalker := by
  have cleared : u.port.control.run = false := by
    rw [port]
    exact run
  have effect : ({ s with errs := [] } : State).controlWrite { controlFields w with abort := true, softReset := false } = u.stopWalker := by
    rw [controlWrite_of_kept rfl, if_pos rfl, ended]
    exact applyRun_of_idle not_stopped cleared (anyInFlight_eq_false_iff.mpr idle) state
  have frame := stopWalker_touches u
  have stays : State.afterFlight { s with errs := [] } u.stopWalker = u.stopWalker :=
    afterFlight_of_stopped _ (by rw [frame .port (by decide)]; exact cleared) (by rw [stopWalker_walker])
  show Host.Outcome.next (s.stepWith [] _) = _
  unfold State.stepWith
  dsimp only
  rw [effect, stays, noteMemory_of_none_reads _ (reading_of_no_service (by rw [frame .service (by decide)]; exact idle.2))]

/-- What stands of a retirement after the walker has stopped. -/
theorem retires_stopped {r : State} {rec : Nat} {st : Status} {rs : List Nat} (from_ : r.errs = []) (state : r.walker.state ≠ .stopped)
    (fits : rec + 128 ≤ Config.memSize) (taken : Memory.readNat r.mem rec 4 = 2) :
    let t := (r.retire rec st rs).stopWalker
    (r.retire rec st rs).walker.state ≠ .stopped ∧ t.walker.state = .stopped ∧ t.walker.retired = (r.walker.retired + 1) % 2 ^ 32
      ∧ t.walker.lastRetired = rec ∧ Memory.sameOutside r.mem t.mem rec 128 ∧ Memory.recordShows t.mem rec st rs r.timeBase := by
  intro t
  obtain ⟨shows_, outside, walker, -⟩ := retire_retires (st := st) (rs := rs) (readErr_of_no_errs from_ _ _ _) taken fits
  have mem : t.mem = (r.retire rec st rs).mem := stopWalker_touches _ .mem (by decide)
  have stopped : t.walker = { (r.retire rec st rs).walker with state := .stopped, pollTimer := none } := stopWalker_walker
  rw [stopped, mem, walker]
  exact ⟨state, rfl, rfl, rfl, outside, shows_⟩

theorem recordShows_zero {m : List Host.Cell} {rec : Nat} {st : Status} {time : Nat} (h : Memory.recordShows m rec st Results.zero.toList time) :
    Memory.recordShows m rec st [] time := by
  obtain ⟨word, code, at_, slots⟩ := h
  refine ⟨word, code, at_, fun i hi => (slots i hi).trans ?_⟩
  have zeros : ∀ i < 11, Results.zero.toList.getD i 0 = ([] : List Nat).getD i 0 := by decide
  rw [zeros i hi]

theorem aborting_touches (w : ControlWord) : Touches [.errs, .port] s (s.aborting w) := fun p hp => by
  cases p <;> first | rfl | exact absurd (by decide) hp

/-- Settles O7. -/
theorem abortEndsTheAssembleInFlight : Obligations.AbortEndsTheAssembleInFlight := by
  intro w s o inFlight service run not_stopped fits taken
  have one : ((s.aborting w).depositBusy && (s.aborting w).serviceBusy) = false := by
    rw [Bool.and_eq_false_iff]
    exact .inr (serviceBusy_eq_false_iff.mpr service)
  -- The order retires in `r`, the unit already IDLE and the entry unbound.
  have ends (r : State) (rs : List Nat) (frame : Touches [.exposures, .mirror, .deposit] (s.aborting w) r) (idle : r.deposit = .idle)
      (abort : (s.aborting w).abortDeposit = r.retire o.record .aborted rs) :
      exec (.abort w []) s = .next (r.retire o.record .aborted rs).stopWalker
      ∧ Touches [.mem, .exposures, .mirror, .deposit, .walker, .alert, .messages, .port, .errs] s (r.retire o.record .aborted rs).stopWalker := by
    have retired := retire_touches r o.record .aborted rs
    have errs : r.errs = [] := frame .errs (by decide)
    have walker : r.walker = s.walker := frame .walker (by decide)
    have mem : r.mem = s.mem := frame .mem (by decide)
    have none_left : (r.retire o.record .aborted rs).service = none := by
      rw [retired .service (by decide), frame .service (by decide)]
      exact service
    refine ⟨exec_abort_of_ended run not_stopped ?_ ⟨?_, none_left⟩ ?_ ?_, ?_⟩
    · rw [abortAll_of_one one, abort, abortService_of_none none_left]
    · rw [retired .deposit (by decide)]
      exact idle
    · exact (retires_stopped errs (by rw [walker]; exact not_stopped) fits (by rw [mem]; exact taken)).1
    · rw [retired .port (by decide), frame .port (by decide)]
    · exact (((aborting_touches w).andThen frame : Touches [.errs, .port, .exposures, .mirror, .deposit] _ _).andThen
        retired : Touches [.errs, .port, .exposures, .mirror, .deposit, .mem, .walker, .alert, .messages] _ _).andThen (stopWalker_touches _)
  have shape (r : State) (rs : List Nat) (frame : Touches [.exposures, .mirror, .deposit] (s.aborting w) r) :=
    retires_stopped (r := r) (rec := o.record) (st := .aborted) (rs := rs) (frame .errs (by decide))
      (by rw [frame .walker (by decide)]; exact not_stopped) fits (by rw [frame .mem (by decide)]; exact taken)
  have unit : s.deposit = .waiting o ∨ s.deposit = .serving o := by
    unfold State.assembly at inFlight
    split at inFlight <;> cases inFlight
    · next h => exact .inl h
    · next h => exact .inr h
  rcases unit with waiting | serving
  · have frame : Touches [.exposures, .mirror, .deposit] (s.aborting w) { s.aborting w with deposit := .idle } := (touches_deposit _ _).mono
    obtain ⟨step, touches⟩ := ends { s.aborting w with deposit := .idle } Results.zero.toList frame rfl (by
      unfold State.abortDeposit
      rw [show (s.aborting w).deposit = _ from waiting])
    obtain ⟨-, state, retired, last, outside, shows_⟩ := shape _ Results.zero.toList frame
    refine ⟨_, step, touches, ?_, state, retired, last, outside, ?_, fun _ => ?_, fun p e serving => ?_⟩
    · rw [stopWalker_touches _ .deposit (by decide), retire_touches _ _ _ _ .deposit (by decide)]
    · rw [if_neg (by rw [waiting]; nofun)]
      exact recordShows_zero shows_
    · rw [stopWalker_touches _ .exposures (by decide), retire_touches _ _ _ _ .exposures (by decide)]
    · rw [waiting] at serving
      cases serving
  · have frame : Touches [.exposures, .mirror, .deposit] (s.aborting w) { (s.aborting w).unbind o.tag with deposit := .idle } :=
      (unbind_touches _ _).andThen (touches_deposit _ _)
    obtain ⟨step, touches⟩ := ends { (s.aborting w).unbind o.tag with deposit := .idle } o.results.toList frame rfl (by
      unfold State.abortDeposit
      rw [show (s.aborting w).deposit = _ from serving])
    obtain ⟨-, state, retired, last, outside, shows_⟩ := shape _ o.results.toList frame
    have time : ({ (s.aborting w).unbind o.tag with deposit := .idle } : State).timeBase = s.timeBase := frame .timeBase (by decide)
    have walker : ({ (s.aborting w).unbind o.tag with deposit := .idle } : State).walker = s.walker := frame .walker (by decide)
    have mem : ({ (s.aborting w).unbind o.tag with deposit := .idle } : State).mem = s.mem := frame .mem (by decide)
    rw [walker] at retired
    rw [mem] at outside
    rw [time] at shows_
    refine ⟨_, step, touches, ?_, state, retired, last, outside, ?_, fun waiting => ?_, fun p e _ place here => ?_⟩
    · rw [stopWalker_touches _ .deposit (by decide), retire_touches _ _ _ _ .deposit (by decide)]
    · rw [if_pos serving]
      exact shows_
    · rw [serving] at waiting
      cases waiting
    · rw [stopWalker_touches _ .exposures (by decide), retire_touches _ _ _ _ .exposures (by decide)]
      exact unbind_exposures (s := s.aborting w) place here

/-- R10, R77, R124, R154: ABORT at the service unit, by the order in flight. -/
theorem abortService_of_order {x : ServiceOrder} (here : s.service = some x) :
    s.abortService = ({ s with service := none, loader := s.loaderDropped } : State).retire x.record .aborted x.resultsSoFar := by
  unfold State.abortService State.loaderDropped
  rw [here]
  cases x with
  | finalize o => rfl
  | clearField rec f r k => rfl
  | defineBank rec k off map => rfl
  | loadMap rec image begun => cases begun <;> rfl

/-- Settles O8. -/
theorem abortEndsTheServiceOrder : Obligations.AbortEndsTheServiceOrder := by
  intro w s x here idle run not_stopped fits taken
  have one : ((s.aborting w).depositBusy && (s.aborting w).serviceBusy) = false := by
    rw [Bool.and_eq_false_iff]
    exact .inl (depositBusy_eq_false_iff.mpr idle)
  have dropped : (s.aborting w).loaderDropped = s.loaderDropped := loaderDropped_congr rfl rfl
  have abort : (s.aborting w).abortAll
      = ({ s.aborting w with service := none, loader := s.loaderDropped } : State).retire x.record .aborted x.resultsSoFar := by
    rw [abortAll_of_one one, abortDeposit_of_idle (s := s.aborting w) idle, abortService_of_order (s := s.aborting w) here, dropped]
  have frame : Touches [.service, .loader] (s.aborting w) { s.aborting w with service := none, loader := s.loaderDropped } :=
    (touches_service _ none).andThen (touches_loader _ s.loaderDropped)
  have retired := retire_touches { s.aborting w with service := none, loader := s.loaderDropped } x.record .aborted x.resultsSoFar
  obtain ⟨state, stopped, count, last, outside, shows_⟩ := retires_stopped
    (r := { s.aborting w with service := none, loader := s.loaderDropped }) (st := .aborted) (rs := x.resultsSoFar) rfl not_stopped fits taken
  refine ⟨_, exec_abort_of_ended run not_stopped abort ⟨?_, ?_⟩ state ?_, ?_, ?_, stopped, count, last, outside, shows_, ?_⟩
  · rw [retired .deposit (by decide)]
    exact idle
  · rw [retired .service (by decide)]
  · rw [retired .port (by decide)]
  · exact (((aborting_touches w).andThen frame : Touches [.errs, .port, .service, .loader] _ _).andThen retired :
      Touches [.errs, .port, .service, .loader, .mem, .walker, .mirror, .alert, .messages] _ _).andThen (stopWalker_touches _)
  · rw [stopWalker_touches _ .service (by decide), retired .service (by decide)]
  · rw [stopWalker_touches _ .loader (by decide), retired .loader (by decide)]
    show s.loaderDropped = _
    unfold State.loaderDropped
    rw [here]
    cases x with
    | finalize o => rfl
    | clearField rec f r k => rfl
    | defineBank rec k off map => rfl
    | loadMap rec image begun => cases begun <;> rfl

/-! ### The hold table (R164, R166) -/

theorem readNat_lt (m : List Host.Cell) (off n : Nat) : Memory.readNat m off n < 256 ^ n := by
  have bound := leNat_lt (Memory.readBytes m off n)
  rwa [Memory.readBytes_length] at bound

theorem assemblyHas_iff {test : Assembly → Bool} : s.assemblyHas test = true ↔ ∃ o, s.assembly = some o ∧ test o = true := by
  unfold State.assemblyHas
  cases s.assembly <;> simp

/-- R166: a service order in flight names the field. -/
theorem serviceNames_iff {n : Nat} : s.serviceNames n = true ↔ (∃ o, s.service = some (.finalize o) ∧ o.field.val = n)
    ∨ ∃ rec f r k, s.service = some (.clearField rec f r k) ∧ f.val = n := by
  unfold State.serviceNames
  cases here : s.service with
  | none => simp
  | some x => cases x <;> simp [ServiceOrder.field?]

theorem depositBusy_eq_true_iff : s.depositBusy = true ↔ s.deposit ≠ .idle := by
  rw [Ne, ← depositBusy_eq_false_iff, Bool.not_eq_false]

theorem serviceBusy_eq_true_iff : s.serviceBusy = true ↔ s.service ≠ none := by
  rw [Ne, ← serviceBusy_eq_false_iff, Bool.not_eq_false]

theorem anyInFlight_eq_true_iff : s.anyInFlight = true ↔ ¬ s.NoOrder := by
  rw [← anyInFlight_eq_false_iff, Bool.not_eq_false]

/-- R166: the hold table. -/
theorem held_iff {h : OrderHead} : s.held h = true ↔
    (h.kind = 1 ∧ s.deposit ≠ .idle) ∨ (h.kind ≠ 1 ∧ s.service ≠ none)
      ∨ (h.kind = 1 ∧ ((∃ o, s.service = some (.finalize o) ∧ o.field.val = h.field)
        ∨ ∃ rec f r k, s.service = some (.clearField rec f r k) ∧ f.val = h.field))
      ∨ ((h.kind = 2 ∨ h.kind = 3 ∨ h.kind = 4) ∧ ∃ o, s.assembly = some o ∧ o.field.val = h.field)
      ∨ (h.kind = 5 ∧ ∃ o, s.assembly = some o ∧ o.bank.val = h.bank)
      ∨ (h.kind = 7 ∧ s.deposit ≠ .idle)
      ∨ (h.kind = 6 ∧ ∃ o, s.assembly = some o ∧ o.tag = h.tag)
      ∨ (h.fence = true ∧ ¬ s.NoOrder) := by
  simp only [State.held, Bool.or_eq_true, Bool.and_eq_true, decide_eq_true_eq, assemblyHas_iff, depositBusy_eq_true_iff, anyInFlight_eq_true_iff]
  by_cases assemble : h.kind = 1
  · simp [assemble, depositBusy_eq_true_iff, serviceNames_iff, or_assoc]
    rw [or_comm]
    simp only [or_assoc]
  · simp [assemble, serviceBusy_eq_true_iff, or_assoc]
    rw [or_comm]
    simp only [or_assoc]

/-- The step of an examination that ends where it began leaves what it made of the poll timer. -/
theorem stepWith_examine {errs : List MemErr} {u : State} (ex : s.Examines) (once : ({ s with errs := errs } : State).examineOnce = (u, false))
    (units : Touches [.walker, .mirror, .alert, .messages, .port, .errs, .readData, .freeTaken, .links, .fields, .loader] s u) :
    s.stepWith errs State.examine = u := stepWith_of_units (examine_of_once (s := { s with errs := errs }) ex once) units

theorem startPoll_units {errs : List MemErr} : Touches [.walker, .mirror, .alert, .messages, .port, .errs, .readData, .freeTaken, .links, .fields,
    .loader] s ({ s with errs := errs } : State).startPoll := (touches_errs s errs).andThen (startPoll_touches _)

/-- Settles O16. -/
theorem examinationThatTakesNothing : Obligations.ExaminationThatTakesNothing := by
  intro s w errs off h t kind serviceNames
  refine ⟨fun ex nothing => ?_, fun not_ex => ?_, fun early => ?_, rfl, ?_, ?_, ?_, ?_, held_iff⟩
  · have once : ({ s with errs := [] } : State).examineOnce = (t, false) := by
      rcases nothing with ⟨free, passes, word | ⟨word, held⟩⟩ | ⟨parked, zero⟩
      · exact examineOnce_of_free (s := { s with errs := [] }) free passes rfl word
      · exact examineOnce_of_held (s := { s with errs := [] }) free passes rfl word held
      · exact examineOnce_of_waiting (s := { s with errs := [] }) parked rfl zero
    have polled := startPoll_units (s := s) (errs := [])
    refine ⟨congrArg Host.Outcome.next (stepWith_examine (u := t) ex once polled), fun q runs due => ?_⟩
    have expiry : ({ s with errs := [] } : State).pollExpiry = t := by
      unfold State.pollExpiry
      rw [show ({ s with errs := [] } : State).walker.pollTimer = some q from runs]
      exact (if_pos due).trans (examine_of_once (s := { s with errs := [] }) ex once)
    exact congrArg Host.Outcome.next (stepWith_of_units (u := t) expiry polled)
  · exact congrArg Host.Outcome.next (State.stepWith_eq_effect (examine_of_not_examines (s := { s with errs := errs }) not_ex) rfl rfl rfl)
  · have expiry : ({ s with errs := errs } : State).pollExpiry = { s with errs := errs } := by
      unfold State.pollExpiry
      split
      · next q runs => exact if_neg (Nat.not_le.mpr (early q runs))
      · rfl
    exact congrArg Host.Outcome.next (State.stepWith_eq_effect expiry rfl rfl rfl)
  · show (Memory.readNat s.mem (off + 5) 1).testBit 0 = true ↔ _
    rw [Nat.testBit_zero, decide_eq_true_eq]
  · show (if kind = 1 then _ else _) = _
    split <;> rfl
  · show (if kind = 1 then _ else _) = _
    split <;> rfl
  · show (BitVec.ofNat 16 (Memory.readNat s.mem (off + 40) 2)).toNat = _
    rw [BitVec.toNat_ofNat]
    exact Nat.mod_eq_of_lt (readNat_lt s.mem (off + 40) 2)

/-! ### Chain faults (R165) -/

theorem memError_chainFault_alert (src : MemSource) (why : FaultReason) (off : Nat) :
    ((s.memError src).chainFault why off).alert = { s.alert with
      pending := { s.alert.pending with fault := true }
      memErrors := s.alert.memErrors.set src.idx (min (s.alert.memErrors[src.idx] + 1) 4294967295) } := by
  rw [chainFault_alert, memError_alert]
  rfl

theorem memError_chainFault_walker (src : MemSource) (why : FaultReason) (off : Nat) :
    ((s.memError src).chainFault why off).walker
      = { s.walker with state := .halted, pollTimer := none, faultReason := why, faultOffset := off } := by
  rw [chainFault_walker, memError_touches _ _ .walker (by decide)]

/-- Settles O17. -/
theorem chainFaultsHaltTheWalker : Obligations.ChainFaultsHaltTheWalker := by
  intro s w errs ex c met halts
  have met_iff (by_ : ReadBy) (a n : Nat) : ({ s with errs := errs } : State).readErr by_ a n = true ↔ met by_ a n := readErr_iff
  have unmet_of {by_ : ReadBy} {a n : Nat} (h : ¬ met by_ a n) : ({ s with errs := errs } : State).readErr by_ a n = false := by
    rw [← Bool.not_eq_true, met_iff]
    exact h
  have polled : Touches [.errs, .walker] s ({ s with errs := errs } : State).startPoll := (touches_errs s errs).andThen (startPoll_touches _)
  -- A fault without a memory error, and the fault of a read that met one.
  have faults {why : FaultReason} {off : Nat} (not_read : why ≠ .recordRead)
      (once : ({ s with errs := errs } : State).examineOnce = (({ s with errs := errs } : State).startPoll.chainFault why off, false)) :
      halts why off := by
    have touches := polled.andThen (chainFault_touches _ why off) (rs := [.walker, .mirror, .alert, .messages, .errs])
    refine ⟨_, congrArg Host.Outcome.next (stepWith_examine ex once touches.mono), touches, chainFault_walker why off, ?_, ?_⟩
    · rw [chainFault_alert]
      rfl
    · rw [if_neg not_read, chainFault_alert]
      rfl
  have reads {off : Nat} (once : ({ s with errs := errs } : State).examineOnce
      = ((({ s with errs := errs } : State).startPoll.memError .orderRecords).chainFault .recordRead off, false)) : halts .recordRead off := by
    have touches := (polled.andThen (memError_touches _ .orderRecords) : Touches [.errs, .walker, .alert, .mirror, .messages] _ _).andThen
      (chainFault_touches _ .recordRead off) (rs := [.walker, .mirror, .alert, .messages, .errs])
    refine ⟨_, congrArg Host.Outcome.next (stepWith_examine ex once touches.mono), touches, memError_chainFault_walker _ _ off, ?_, ?_⟩
    · rw [memError_chainFault_alert]
      rfl
    · rw [if_pos rfl, memError_chainFault_alert]
      rfl
  refine ⟨fun free bad => ?_, fun free passes read => ?_, fun free passes unread word => ?_, fun parked read => ?_,
    fun parked unread next bad => ?_⟩
  · exact faults nofun (examineOnce_of_bad_cursor (s := { s with errs := errs }) free bad)
  · exact reads (examineOnce_of_met (s := { s with errs := errs }) free passes ((met_iff _ _ _).mpr read))
  · exact faults nofun (examineOnce_of_bad_word (s := { s with errs := errs }) free passes (unmet_of unread) word)
  · refine reads ((examineOnce_of_parked (s := { s with errs := errs }) parked).trans ?_)
    exact followNext_of_met (s := ({ s with errs := errs } : State).startPoll) ((met_iff _ _ _).mpr read)
  · refine faults nofun ((examineOnce_of_parked (s := { s with errs := errs }) parked).trans ?_)
    exact followNext_of_bad (s := ({ s with errs := errs } : State).startPoll) (unmet_of unread) next bad

end Sys2Proof.Machine
end

section
/-! The register window (R158, R160; O9) and the memory aperture with its guard (R157, R170, R173; O10). -/

-- One theorem at a time: the threads of a parallel elaboration reserve more memory than the check allows.
set_option Elab.async false

namespace Sys2Proof.Machine

variable {s t : State}

/-! ### CHAIN_START and POLL (R160) -/

theorem chainStartAfter_whole (old : BitVec 36) (v : BitVec 64) : chainStartAfter old (.whole v) = v.setWidth 36 := by
  show (v.extractLsb' 32 32).extractLsb' 0 4 ++ v.extractLsb' 0 32 = v.setWidth 36
  refine BitVec.eq_of_getLsbD_eq fun i hi => ?_
  rw [BitVec.getLsbD_append]
  by_cases low : i < 32
  · simp [low, hi]
  · simp [low, hi, show i - 32 < 4 by omega, show i - 32 < 32 by omega, show 32 + (i - 32) = i by omega]

theorem chainStartAfter_low (old : BitVec 36) (w : BitVec 32) : chainStartAfter old (.low w) = old.extractLsb' 32 4 ++ w := rfl

theorem chainStartAfter_high (old : BitVec 36) (w : BitVec 32) : chainStartAfter old (.high w) = w.setWidth 4 ++ (old.setWidth 32 : BitVec 32) := by
  show w.extractLsb' 0 4 ++ old.extractLsb' 0 32 = _
  rw [BitVec.setWidth_eq_extractLsb' (by decide), BitVec.setWidth_eq_extractLsb' (by decide)]

theorem exec_chainStart_of_stopped (stopped : s.walker.state = .stopped) (w : RegWrite) :
    exec (.chainStart w) s = .next { s with port := { s.port with chainStart := chainStartAfter s.port.chainStart w } } :=
  congrArg Host.Outcome.next (if_pos stopped)

theorem exec_poll (w : RegWrite) : exec (.poll w) s = .next { s with port := { s.port with poll := pollAfter s.port.poll w } } := rfl

theorem pollAfter_of_low {w : RegWrite} {low : BitVec 32} (half : lowHalf w = some low) (old : BitVec 16) :
    pollAfter old w = if low.setWidth 16 = 0#16 then 1 else low.setWidth 16 := by
  unfold pollAfter
  rw [half]
  simp only [BitVec.setWidth_eq_extractLsb' (show 16 ≤ 32 by decide)]
  rfl

/-! ### The parts of a register -/

theorem leBytes_mod (n : Nat) {v k : Nat} (h : 256 ^ n ∣ k) : leBytes n (v % k) = leBytes n v := by
  induction n generalizing v k with
  | zero => rfl
  | succ n ih =>
    obtain ⟨c, rfl⟩ := h
    have low : v % (256 ^ (n + 1) * c) % 256 = v % 256 :=
      Nat.mod_mod_of_dvd _ (Dvd.dvd.mul_right (Dvd.intro_left _ (Nat.pow_succ ..).symm) c)
    have high : v % (256 ^ (n + 1) * c) / 256 = v / 256 % (256 ^ n * c) := by
      rw [Nat.pow_succ, Nat.mul_right_comm, Nat.mul_comm, Nat.mod_mul_right_div_self]
    show BitVec.ofNat 8 _ :: _ = BitVec.ofNat 8 _ :: _
    rw [high, ih ⟨c, rfl⟩]
    refine congrArg (· :: _) (BitVec.eq_of_toNat_eq ?_)
    simpa using low

/-- R158: a read of a register other than ALERT returns its fields and changes nothing else. -/
theorem exec_read_register {r : Reg} (other : r ≠ .alert) (p : RegPart) (errs : List MemErr) :
    exec (.hostRead (.register r p) errs) s = .next { s with errs := errs, readData := partBytes p (s.regValue r) } := by
  refine congrArg Host.Outcome.next (State.stepWith_eq_effect ?_ rfl rfl rfl)
  cases r with
  | alert => exact absurd rfl other
  | ident | control | chainStart | poll | nudge | alertCfg | cause => rfl

/-! ### The register window -/

theorem windowPart_some {off len : Nat} {r : Reg} {q : RegPart} (h : windowPart off len = some (r, q)) :
    (len = 8 ∧ off = r.offset) ∨ len = 4 ∧ (off = r.offset ∨ off = r.offset + 4) := by
  obtain ⟨x, -, hx⟩ := List.exists_of_findSome?_eq_some h
  split at hx
  · next whole =>
    cases hx
    exact .inl whole
  · split at hx
    · next low =>
      cases hx
      exact .inr ⟨low.1, .inl low.2⟩
    · split at hx
      · next high =>
        cases hx
        exact .inr ⟨high.1, .inr high.2⟩
      · cases hx

theorem regOffset_spec (r : Reg) : r.offset % 8 = 0 ∧ r.offset < 64 := by cases r <;> decide

theorem windowRead_of_part {off len : Nat} {r : Reg} {q : RegPart} (errs : List MemErr) (h : windowPart off len = some (r, q)) :
    windowRead off len errs = some (if r = .alert then .alertRead q else .hostRead (.register r q) errs) := by
  rw [windowRead, h]
  cases r <;> rfl

/-- R158: what a write of eight bytes writes to a part. -/
def partWrite (v : BitVec 64) : RegPart → RegWrite
  | .whole => .whole v
  | .low => .low (v.setWidth 32)
  | .high => .high (v.setWidth 32)

theorem windowWrite_of_part {off len : Nat} {r : Reg} {q : RegPart} (v : BitVec 64) (errs : List MemErr) (h : windowPart off len = some (r, q)) :
    windowWrite off len v errs = some (writeCommand r (partWrite v q) errs) := by
  rw [windowWrite, h]
  cases q <;> rfl

section Writes
variable {off : Nat} {r : Reg} (errs : List MemErr) (h : BitVec 32)

theorem windowWrite_low (part : windowPart off 4 = some (r, .low)) :
    windowWrite off 4 (h.setWidth 64) errs = some (writeCommand r (.low h) errs) := by
  rw [windowWrite_of_part _ _ part]
  simp [partWrite]

theorem windowWrite_high (part : windowPart off 4 = some (r, .high)) :
    windowWrite off 4 (h.setWidth 64) errs = some (writeCommand r (.high h) errs) := by
  rw [windowWrite_of_part _ _ part]
  simp [partWrite]

/-- R159: the low half of CONTROL is the command that its own bits make it. -/
theorem controlCommand_low : controlCommand (.low h) errs = if h.getLsbD 2 then .softReset (.low h)
    else if h.getLsbD 1 then .abort (.low h) errs else if h.getLsbD 0 then .runSet (.low h) errs else .runClear (.low h) errs := by
  simp [controlCommand, ControlWord.value]

end Writes

/-- Settles O9. -/
theorem registerReadsAndWrites : Obligations.RegisterReadsAndWrites := by
  intro s idle p errs bytes answers
  have answers_of {r : Reg} {v : Nat} (other : r ≠ .alert) (value : s.regValue r = v) : answers r v := by
    have same : partBytes p v = bytes v := by
      cases p with
      | low => exact (leBytes_mod 4 (by decide)).symm
      | whole | high => rfl
    refine (exec_read_register other p errs).trans ?_
    rw [value, same]
  refine ⟨fun stopped v w => ⟨?_, ?_, ?_⟩, fun running w => congrArg Host.Outcome.next (if_neg running), fun v w => ⟨?_, ?_, rfl⟩, rfl,
    fun _ => rfl, ?_, ?_, ?_, answers_of nofun rfl, answers_of nofun rfl, answers_of nofun rfl, ?_, ?_, by decide, ?_,
    fun _ _ _ _ => windowRead_of_part errs, fun v h => ?_⟩
  · rw [exec_chainStart_of_stopped stopped, chainStartAfter_whole]
  · rw [exec_chainStart_of_stopped stopped, chainStartAfter_low]
  · rw [exec_chainStart_of_stopped stopped, chainStartAfter_high]
  · rw [exec_poll, pollAfter_of_low (low := v.extractLsb' 0 32) rfl, ← BitVec.setWidth_eq_extractLsb' (by decide), BitVec.setWidth_setWidth_of_le _ (by decide)]
  · rw [exec_poll, pollAfter_of_low rfl]
  · show Host.Outcome.next (s.readAlert .high) = _
    unfold State.readAlert
    rw [if_neg (by simp [State.alertReturned, Causes.empty, Causes.any])]
    have pending : s.alert.pending.bits < 2 ^ 32 := by
      unfold Causes.bits
      split <;> split <;> split <;> split <;> decide
    have data : partBytes .high (s.regValue .alert) = [0, 0, 0, 0] := by
      show leBytes 4 (s.alert.pending.bits / 2 ^ 32) = _
      rw [Nat.div_eq_of_lt pending]
      rfl
    rw [data]
  · refine answers_of nofun ?_
    show _ + s.loader.state.code * 2 ^ 40 = _
    cases s.loader.state <;> rfl
  · refine answers_of nofun ?_
    show bit _ + 8 * bit _ + 16 * bit _ = _
    unfold bit
    split <;> split <;> split <;> rfl
  · refine answers_of nofun ?_
    show _ + _ + s.port.alertCfg.enables.bits * 2 ^ 32 = _
    unfold Causes.bits
    split <;> split <;> split <;> split <;> omega
  · refine answers_of nofun ?_
    show _ + s.walker.state.code * 2 ^ 8 + _ = _
    unfold Causes.highest
    cases s.walker.state <;> rfl
  · intro off len
    rcases here : windowPart off len with _ | ⟨r, q⟩
    · exact .inr rfl
    · refine .inl ?_
      have := windowPart_some here
      have := regOffset_spec r
      omega
  · have low (r : Reg) {off : Nat} (part : windowPart off 4 = some (r, .low)) := windowWrite_low errs h part
    have high (r : Reg) {off : Nat} (part : windowPart off 4 = some (r, .high)) := windowWrite_high errs h part
    exact ⟨rfl, low .ident rfl, high .ident rfl,
      rfl, (low .control rfl).trans (congrArg some (controlCommand_low errs h)), high .control rfl,
      rfl, low .chainStart rfl, high .chainStart rfl,
      rfl, low .poll rfl, high .poll rfl,
      rfl, low .nudge rfl, high .nudge rfl,
      rfl, low .alertCfg rfl, high .alertCfg rfl,
      rfl, low .alert rfl, high .alert rfl,
      rfl, low .cause rfl, high .cause rfl⟩

/-! ### The guard (R170) -/

theorem overlaps_iff {a n b m : Nat} : overlaps a n b m = true ↔ ∃ x, a ≤ x ∧ x < a + n ∧ b ≤ x ∧ x < b + m := by
  simp only [overlaps, Bool.and_eq_true, decide_eq_true_eq]
  constructor
  · intro h
    exact ⟨max a b, by omega⟩
  · rintro ⟨x, h⟩
    omega

theorem inSomeField_iff {off n : Nat} : s.inSomeField off n = true
    ↔ ∃ (f : Fin 4) (fd : Field), s.fields[f] = some fd ∧ ∃ x, off ≤ x ∧ x < off + n ∧ fd.base ≤ x ∧ x < fd.base + fd.regionBytes := by
  simp only [State.inSomeField, List.any_eq_true, Vector.mem_toList_iff, Vector.mem_iff_getElem]
  constructor
  · rintro ⟨x, ⟨i, hi, here⟩, test⟩
    cases x with
    | none => cases test
    | some fd => exact ⟨⟨i, hi⟩, fd, here, overlaps_iff.mp test⟩
  · rintro ⟨f, fd, here, shared⟩
    exact ⟨some fd, ⟨f.val, f.isLt, here⟩, overlaps_iff.mpr shared⟩

/-- R170: the bytes that a host write may not touch. -/
def State.guards (s : State) (a : Nat) : Prop := a < 0x1000 ∨ 0x3D8000000 ≤ a
  ∨ ∃ (f : Fin 4) (fd : Field), s.fields[f] = some fd ∧ fd.base ≤ a ∧ a < fd.base + fd.cols * fd.rows * 1572864

theorem guarded_iff {off n : Nat} (fits : off < 2 ^ 34) : s.guarded off n = true ↔ ∃ a, off ≤ a ∧ a < off + n ∧ s.guards a := by
  have block : Config.generalBase = 0x1000 := rfl
  have pool : Config.poolBase = 0x3D8000000 := rfl
  have size : Config.memSize = 2 ^ 34 := rfl
  simp only [State.guarded, Bool.or_eq_true, overlaps_iff, inSomeField_iff]
  constructor
  · rintro ((⟨a, start, stop, -, below⟩ | ⟨a, start, stop, above, -⟩) | ⟨f, fd, here, a, start, stop, inside⟩)
    · exact ⟨a, start, stop, .inl (by omega)⟩
    · exact ⟨a, start, stop, .inr (.inl above)⟩
    · exact ⟨a, start, stop, .inr (.inr ⟨f, fd, here, inside⟩)⟩
  · rintro ⟨a, start, stop, below | above | ⟨f, fd, here, inside⟩⟩
    · exact .inl (.inl ⟨a, start, stop, by omega⟩)
    · exact .inl (.inr ⟨max off Config.poolBase, by omega⟩)
    · exact .inr ⟨f, fd, here, a, start, stop, inside⟩

theorem dropWrite_port : s.dropWrite.port = { s.port with guardDrops := min (s.port.guardDrops + 1) 4294967295 } := by
  unfold State.dropWrite
  dsimp only
  rw [raise_touches _ _ .port (by decide), mirrorIf_touches _ _ _ _ _ .port (by decide)]
  rfl

theorem dropWrite_pending : s.dropWrite.alert.pending = { s.alert.pending with fault := true } := by
  unfold State.dropWrite
  dsimp only
  rw [raise_alert, mirrorIf_touches _ _ _ _ _ .alert (by decide)]
  rfl

/-- R8, R74: an order in flight whose reads of board memory may be under way. -/
def State.reads (s : State) : Bool := match s.service with
  | some (.defineBank _ _ _ _) => true
  | some (.loadMap _ (some _) true) => true
  | _ => false

theorem reading_isSome : s.reading.isSome = s.reads := by
  unfold State.reading State.reads
  rcases s.service with _ | (_ | _ | _ | ⟨rec, _ | image, _ | _⟩) <;> rfl

theorem noteMemory_past {m : List Host.Cell} :
    (({ s with mem := m } : State).noteMemory s).past = if s.reads ∧ m ≠ s.mem then s.past ++ [s.mem] else s.past := by
  unfold State.noteMemory
  rw [reading_isSome]
  by_cases noted : s.reads = true ∧ m ≠ s.mem
  · rw [if_pos ⟨noted.1, rfl, noted.2⟩, if_pos noted]
  · rw [if_neg fun h => noted ⟨h.1, h.2.2⟩, if_neg noted]

/-! ### Reads through the aperture (R157) -/

theorem hostBytes_length (off n : Nat) : (s.hostBytes off n).length = n := by
  induction n generalizing off with
  | zero => rfl
  | succ n ih => exact congrArg Nat.succ (ih _)

theorem hostBytes_getElem (off : Nat) {n i : Nat} (h : i < n) : (s.hostBytes off n)[i]? = some (s.hostByte (off + i)) := by
  induction n generalizing off i with
  | zero => exact absurd h (Nat.not_lt_zero i)
  | succ n ih =>
    cases i with
    | zero => rfl
    | succ i => exact (ih _ (Nat.lt_of_succ_lt_succ h)).trans (by rw [Nat.add_assoc, Nat.add_comm 1 i])

theorem hostByte_of_unmet {a : Nat} (inside : a < 2 ^ 34) (unmet : s.readErr .host a 1 = false) :
    s.hostByte a = if 0x3FB000000 ≤ a then 0 else Memory.read s.mem a := by
  unfold State.hostByte
  rw [if_neg (show ¬ Config.memSize ≤ a from Nat.not_le.mpr inside), unmet]
  rfl

/-- The read data of a host read, and the count of free values it takes. -/
def State.hostLoaded (off n : Nat) (s : State) : State :=
  { s with readData := s.hostBytes off n, freeTaken := s.freeTaken + bit (s.takesFree off n) }

theorem hostLoaded_touches (off n : Nat) : Touches [.readData, .freeTaken] s (s.hostLoaded off n) := fun p hp => by
  cases p <;> first | rfl | exact absurd (by decide) hp

theorem hostLoad_of_met {off n : Nat} (met : s.readErr .host off n = true) : s.hostLoad off n = (s.hostLoaded off n).memError .hostReads :=
  if_pos met

theorem hostLoad_of_unmet {off n : Nat} (unmet : ¬ s.readErr .host off n = true) : s.hostLoad off n = s.hostLoaded off n := if_neg unmet

theorem hostLoad_readData (off n : Nat) : (s.hostLoad off n).readData = s.hostBytes off n := by
  by_cases met : s.readErr .host off n = true
  · rw [hostLoad_of_met met, memError_touches _ _ .readData (by decide)]
    rfl
  · rw [hostLoad_of_unmet met]
    rfl

theorem exec_hostRead_aperture (off : BitVec 34) (len : Nat) (errs : List MemErr) :
    exec (.hostRead (.aperture off len) errs) s = .next (({ s with errs := errs } : State).hostLoad off.toNat len) :=
  congrArg Host.Outcome.next (stepWith_of_units rfl (((touches_errs s errs).andThen (hostLoad_touches _ _ _) :
    Touches [.errs, .readData, .freeTaken, .mirror, .alert, .messages] _ _).mono))

/-- Settles O10. -/
theorem hostAccessThroughTheAperture : Obligations.HostAccessThroughTheAperture := by
  intro off bytes len errs s guarded met reads
  have guarded_iff : s.guarded off.toNat bytes.length = true ↔ guarded := guarded_iff off.isLt
  have met_iff (a n : Nat) : ({ s with errs := errs } : State).readErr .host a n = true ↔ met a n := readErr_iff
  refine ⟨fun drops => ?_, fun lands => ?_, _, exec_hostRead_aperture off len errs, ?_, fun i hi inside unmet => ?_, fun unmet => ?_,
    fun meets => ?_⟩
  · have dropped : s.hostStore off.toNat bytes = s.dropWrite := if_pos (guarded_iff.mpr drops)
    exact ⟨_, congrArg Host.Outcome.next dropped, (dropWrite_touches s).mono, dropWrite_port, dropWrite_pending⟩
  · have stored : s.hostStore off.toNat bytes = ({ s with mem := Memory.writeBytes s.mem off.toNat bytes } : State).noteMemory s :=
      if_neg fun h => lands (guarded_iff.mp h)
    have noted := noteMemory_touches { s with mem := Memory.writeBytes s.mem off.toNat bytes } s
    have mem := noted .mem (by decide)
    refine ⟨_, congrArg Host.Outcome.next stored, (touches_mem s _).andThen noted, ?_, ?_, fun i b here => ?_⟩
    · rw [mem]
      exact fun a ha => Memory.read_writeBytes_outside _ _ _ _ ha
    · rw [mem]
      exact noteMemory_past
    · obtain ⟨hi, rfl⟩ := List.getElem?_eq_some_iff.mp here
      have inside : off.toNat + i < Config.memSize := by
        by_contra beyond
        exact lands ⟨off.toNat + i, by omega, by omega, .inr (.inl ((by decide : 0x3D8000000 ≤ Config.memSize).trans (Nat.not_lt.mp beyond)))⟩
      rw [mem]
      exact Memory.read_writeBytes _ _ _ _ hi inside
  · rw [hostLoad_readData]
    exact hostBytes_length _ _
  · rw [hostLoad_readData, hostBytes_getElem _ hi, hostByte_of_unmet inside]
    rw [← Bool.not_eq_true, met_iff]
    exact unmet
  · have unread : ¬ ({ s with errs := errs } : State).readErr .host off.toNat len = true := fun h => unmet ((met_iff _ _).mp h)
    rw [hostLoad_of_unmet unread]
    refine ⟨(touches_errs s errs).andThen (hostLoaded_touches _ _), fun inside => ?_⟩
    show s.freeTaken + bit (State.readErr _ _ _ _ || decide _) = _
    rw [Bool.eq_false_iff.mpr unread, decide_eq_false (show ¬ Config.memSize < off.toNat + len from Nat.not_lt.mpr inside)]
    rfl
  · rw [hostLoad_of_met ((met_iff _ _).mpr meets)]
    have loaded := (touches_errs s errs).andThen (hostLoaded_touches off.toNat len) (rs := [.errs, .readData, .freeTaken])
    refine ⟨loaded.andThen (memError_touches _ _), ?_, ?_⟩
    · rw [memError_alert]
      rfl
    · rw [memError_alert]
      rfl

end Sys2Proof.Machine
end

section
/-! The header code (R31 to R33; O25) and the payload CRC (R36; O26): both are linear over exclusive-or. -/

-- One theorem at a time: the threads of a parallel elaboration reserve more memory than the check allows.
set_option Elab.async false

namespace Sys2Proof.Machine

/-! ### The header code -/

/-- One code, added where a test picks it. -/
def pick (test : Nat × Nat → Bool) (p : Nat) (c : Nat × Nat) : Nat := if test c then p ^^^ c.1 else p

/-- The exclusive-or of the codes that a test picks, upon a start value. -/
def picked (test : Nat × Nat → Bool) (codes : List (Nat × Nat)) (start : Nat) : Nat := codes.foldl (pick test) start

theorem headerParity_eq (data : Nat) : headerParity data = picked (fun c => data.testBit c.2) columnCodes.zipIdx 0 := rfl

theorem xor_xor_xor_comm (a b c d : Nat) : (a ^^^ b) ^^^ (c ^^^ d) = (a ^^^ c) ^^^ (b ^^^ d) := by
  rw [Nat.xor_assoc, Nat.xor_assoc, Nat.xor_left_comm b]

theorem pick_xor (f g : Nat × Nat → Bool) (p q : Nat) (c : Nat × Nat) :
    pick (fun c => f c ^^ g c) (p ^^^ q) c = pick f p c ^^^ pick g q c := by
  show (if (f c ^^ g c) = true then _ else _) = (if f c = true then _ else _) ^^^ (if g c = true then _ else _)
  cases f c <;> cases g c
  · rfl
  · exact Nat.xor_assoc _ _ _
  · exact Nat.xor_right_comm _ _ _
  · exact (by simpa using (xor_xor_xor_comm p c.1 q c.1).symm)

theorem picked_xor (f g : Nat × Nat → Bool) (codes : List (Nat × Nat)) (p q : Nat) :
    picked (fun c => f c ^^ g c) codes (p ^^^ q) = picked f codes p ^^^ picked g codes q := by
  induction codes generalizing p q with
  | nil => rfl
  | cons c codes ih => exact (congrArg _ (pick_xor f g p q c)).trans (ih _ _)

theorem picked_lt {codes : List (Nat × Nat)} (small : ∀ c ∈ codes, c.1 < 2 ^ 6) (f : Nat × Nat → Bool) {p : Nat} (hp : p < 2 ^ 6) :
    picked f codes p < 2 ^ 6 := by
  induction codes generalizing p with
  | nil => exact hp
  | cons c codes ih =>
    refine ih (fun d hd => small d (List.mem_cons_of_mem _ hd)) ?_
    unfold pick
    split
    · exact Nat.xor_lt_two_pow hp (small c List.mem_cons_self)
    · exact hp

theorem headerParity_xor (x y : Nat) : headerParity (x ^^^ y) = headerParity x ^^^ headerParity y := by
  simp only [headerParity_eq, Nat.testBit_xor]
  exact picked_xor _ _ _ 0 0

theorem headerParity_lt (data : Nat) : headerParity data < 64 := picked_lt (by decide) _ (by decide)

theorem headerParity_column (i : Fin 24) : headerParity (2 ^ i.val) = columnCodes.getD i.val 0 := by decide +revert

/-- R32: the syndrome shows what was flipped, whatever was sent. -/
theorem syndrome_flipped (data flips : Nat) {q : Nat} (hq : q < 64) :
    syndrome (data ^^^ flips) (headerParity data ^^^ q) = headerParity flips ^^^ q := by
  have small : headerParity data ^^^ q < 64 := Nat.xor_lt_two_pow (n := 6) (headerParity_lt data) hq
  rw [syndrome, Nat.mod_eq_of_lt small, headerParity_xor, xor_xor_xor_comm, Nat.xor_self, Nat.zero_xor]

theorem decodeHeader_of_clean {data check : Nat} (h : classOf (syndrome data check) = .clean) :
    decodeHeader data check = some (headerOf data, false) := by
  unfold decodeHeader
  rw [h]

theorem decodeHeader_of_parityFlipped {data check : Nat} (h : classOf (syndrome data check) = .parityFlipped) :
    decodeHeader data check = some (headerOf data, true) := by
  unfold decodeHeader
  rw [h]

theorem decodeHeader_of_dataFlipped {data check b : Nat} (h : classOf (syndrome data check) = .dataFlipped b) :
    decodeHeader data check = some (headerOf (data ^^^ 2 ^ b), true) := by
  unfold decodeHeader
  rw [h]

theorem decodeHeader_of_uncorrectable {data check : Nat} (h : classOf (syndrome data check) = .uncorrectable) :
    decodeHeader data check = none := by
  unfold decodeHeader
  rw [h]

/-! The classes of the syndromes of one and of two flipped bits, by the table of column codes. -/

theorem classOf_column (i : Fin 24) : classOf (columnCodes.getD i.val 0) = .dataFlipped i.val := by decide +revert

theorem classOf_parity (j : Fin 6) : classOf (2 ^ j.val) = .parityFlipped := by decide +revert

theorem classOf_two_columns (i j : Fin 24) (h : i ≠ j) : classOf (columnCodes.getD i.val 0 ^^^ columnCodes.getD j.val 0) = .uncorrectable := by
  decide +revert

theorem classOf_two_parities (i j : Fin 6) (h : i ≠ j) : classOf (2 ^ i.val ^^^ 2 ^ j.val) = .uncorrectable := by decide +revert

theorem classOf_column_and_parity (i : Fin 24) (j : Fin 6) : classOf (columnCodes.getD i.val 0 ^^^ 2 ^ j.val) = .uncorrectable := by
  decide +revert

theorem parityBit_lt (j : Fin 6) : 2 ^ j.val < 64 := by decide +revert

/-- Settles O25. -/
theorem headerCodeCorrectsOneAndDetectsTwo : Obligations.HeaderCodeCorrectsOneAndDetectsTwo := by
  intro d p flipD flipP
  have data_only (flips : Nat) : syndrome (d.toNat ^^^ flips) p = headerParity flips := by
    have flipped := syndrome_flipped d.toNat flips (q := 0) (by decide)
    rwa [Nat.xor_zero, Nat.xor_zero] at flipped
  have parity_only {q : Nat} (hq : q < 64) : syndrome d.toNat (p ^^^ q) = q := by
    have flipped := syndrome_flipped d.toNat 0 hq
    rwa [Nat.xor_zero, show headerParity 0 = 0 from by decide, Nat.zero_xor] at flipped
  refine ⟨headerParity_lt _, fun c same => decodeHeader_of_clean ?_, fun i => ?_, fun j => decodeHeader_of_parityFlipped ?_,
    fun i j other => decodeHeader_of_uncorrectable ?_, fun i j other => decodeHeader_of_uncorrectable ?_,
    fun i j => decodeHeader_of_uncorrectable ?_⟩
  · rw [syndrome, same, Nat.xor_self]
    rfl
  · have flipped : classOf (syndrome (flipD d.toNat i) p) = .dataFlipped i.val := by
      rw [data_only, headerParity_column, classOf_column]
    rw [decodeHeader_of_dataFlipped flipped, Nat.xor_assoc, Nat.xor_self, Nat.xor_zero]
  · rw [parity_only (parityBit_lt j)]
    exact classOf_parity j
  · show classOf (syndrome (d.toNat ^^^ 2 ^ i.val ^^^ 2 ^ j.val) p) = _
    rw [Nat.xor_assoc, data_only, headerParity_xor, headerParity_column, headerParity_column]
    exact classOf_two_columns i j other
  · show classOf (syndrome d.toNat (p ^^^ 2 ^ i.val ^^^ 2 ^ j.val)) = _
    rw [Nat.xor_assoc, parity_only (Nat.xor_lt_two_pow (n := 6) (parityBit_lt i) (parityBit_lt j))]
    exact classOf_two_parities i j other
  · rw [syndrome_flipped _ _ (parityBit_lt j), headerParity_column]
    exact classOf_column_and_parity i j

/-! ### The payload CRC -/

theorem crcBit_xor (r q : Nat) (b c : Bool) : crcBit (r ^^^ q) (b ^^ c) = crcBit r b ^^^ crcBit q c := by
  have halves : (r ^^^ q) / 2 = r / 2 ^^^ q / 2 := by simpa using Nat.xor_div_two_pow (a := r) (b := q) (n := 1)
  simp only [crcBit, Nat.testBit_xor, halves]
  cases r.testBit 0 <;> cases q.testBit 0 <;> cases b <;> cases c <;>
    simp [Nat.xor_assoc, Nat.xor_left_comm, Nat.xor_comm]

/-- The register after the bits of a list. -/
def crcBits (r : Nat) (bits : List Bool) : Nat := bits.foldl crcBit r

theorem crcByte_eq (r : Nat) (b : Byte) : crcByte r b = crcBits r ((List.range 8).map b.getLsbD) := by
  rw [crcBits, List.foldl_map]
  rfl

theorem crcBit_lt {r : Nat} (h : r < 2 ^ 16) (b : Bool) : crcBit r b < 2 ^ 16 := by
  unfold crcBit
  dsimp only
  split
  · exact Nat.xor_lt_two_pow (by omega) (by decide)
  · omega

theorem crcByte_lt {r : Nat} (h : r < 2 ^ 16) (b : Byte) : crcByte r b < 2 ^ 16 := by
  rw [crcByte_eq]
  generalize (List.range 8).map b.getLsbD = bits
  induction bits generalizing r with
  | nil => exact h
  | cons b bits ih => exact ih (crcBit_lt h b)

theorem crcFold_lt {r : Nat} (h : r < 2 ^ 16) (p : List Byte) : p.foldl crcByte r < 2 ^ 16 := by
  induction p generalizing r with
  | nil => exact h
  | cons b p ih => exact ih (crcByte_lt h b)

/-- The register that meets a bit 0 keeps a bit that is 1: it shifts it down, or sets bit 15. -/
theorem crcBit_eq_zero {r : Nat} (h : r < 2 ^ 16) (zero : crcBit r false = 0) : r = 0 := by
  unfold crcBit at zero
  rw [Bool.xor_false] at zero
  dsimp only at zero
  split at zero
  · have top : (r / 2 ^^^ 0x8408).testBit 15 = true := by
      rw [Nat.testBit_xor, Nat.testBit_lt_two_pow (show r / 2 < 2 ^ 15 by omega)]
      decide
    rw [zero, Nat.zero_testBit] at top
    cases top
  · next even =>
    have : r.testBit 0 = decide (r % 2 = 1) := Nat.testBit_zero r
    simp only [this, decide_eq_true_eq] at even
    omega

theorem crcBit_injective {r q : Nat} (hr : r < 2 ^ 16) (hq : q < 2 ^ 16) {b : Bool} (h : crcBit r b = crcBit q b) : r = q := by
  have zero : crcBit (r ^^^ q) false = 0 := by
    have linear := crcBit_xor r q b b
    rwa [Bool.xor_self, h, Nat.xor_self] at linear
  exact Nat.xor_eq_zero_iff.mp (crcBit_eq_zero (Nat.xor_lt_two_pow hr hq) zero)

theorem crcByte_injective {r q : Nat} (hr : r < 2 ^ 16) (hq : q < 2 ^ 16) {b : Byte} (h : crcByte r b = crcByte q b) : r = q := by
  rw [crcByte_eq, crcByte_eq] at h
  generalize (List.range 8).map b.getLsbD = bits at h
  induction bits generalizing r q with
  | nil => exact h
  | cons b bits ih => exact crcBit_injective hr hq (ih (crcBit_lt hr b) (crcBit_lt hq b) h)

theorem crcFold_injective {r q : Nat} (hr : r < 2 ^ 16) (hq : q < 2 ^ 16) {p : List Byte} (h : p.foldl crcByte r = p.foldl crcByte q) : r = q := by
  induction p generalizing r q with
  | nil => exact h
  | cons b p ih => exact crcByte_injective hr hq (ih (crcByte_lt hr b) (crcByte_lt hq b) h)

theorem crcByte_xor (r q : Nat) (b c : Byte) : crcByte (r ^^^ q) (b ^^^ c) = crcByte r b ^^^ crcByte q c := by
  have linear (is : List Nat) (r q : Nat) : is.foldl (fun r i => crcBit r ((b ^^^ c).getLsbD i)) (r ^^^ q)
      = is.foldl (fun r i => crcBit r (b.getLsbD i)) r ^^^ is.foldl (fun r i => crcBit r (c.getLsbD i)) q := by
    induction is generalizing r q with
    | nil => rfl
    | cons i is ih =>
      simp only [List.foldl_cons]
      rw [BitVec.getLsbD_xor, crcBit_xor, ih]
  exact linear _ _ _

theorem crcByte_flipped_ne (r : Nat) (b : Byte) (j : Fin 8) : crcByte r (b ^^^ (1#8 <<< j.val)) ≠ crcByte r b := by
  have flipped : crcByte r (b ^^^ (1#8 <<< j.val)) = crcByte r b ^^^ crcByte 0 (1#8 <<< j.val) := by
    rw [← crcByte_xor, Nat.xor_zero]
  have nonzero : ∀ j : Fin 8, crcByte 0 (1#8 <<< j.val) ≠ 0 := by decide
  rw [flipped]
  exact fun same => nonzero j (by simpa using congrArg (crcByte r b ^^^ ·) same)

theorem crcFold_set_ne {p : List Byte} {i : Nat} {b : Byte} (here : p[i]? = some b) (j : Fin 8) {r : Nat} (h : r < 2 ^ 16) :
    (p.set i (b ^^^ (1#8 <<< j.val))).foldl crcByte r ≠ p.foldl crcByte r := by
  induction p generalizing i r with
  | nil => cases here
  | cons a p ih =>
    cases i with
    | zero =>
      cases here
      exact fun same => crcByte_flipped_ne r _ j (crcFold_injective (crcByte_lt h _) (crcByte_lt h _) same)
    | succ i => exact ih here (crcByte_lt h a)

/-- A register that meets its own low byte shifts it out. -/
theorem crcByte_self (r : Nat) : crcByte r (BitVec.ofNat 8 r) = r / 256 := by
  have shifts (n : Nat) (small : n ≤ 8) : (List.range n).foldl (fun q i => crcBit q ((BitVec.ofNat 8 r).getLsbD i)) r = r / 2 ^ n := by
    induction n with
    | zero => simp
    | succ n ih =>
      rw [List.range_succ, List.foldl_append, ih (by omega)]
      have bit : (BitVec.ofNat 8 r).getLsbD n = r.testBit n := by
        rw [BitVec.getLsbD_ofNat, decide_eq_true (show n < 8 by omega), Bool.true_and]
      have low : (r / 2 ^ n).testBit 0 = r.testBit n := by rw [Nat.testBit_div_two_pow, Nat.zero_add]
      show crcBit (r / 2 ^ n) ((BitVec.ofNat 8 r).getLsbD n) = _
      rw [bit, crcBit, low, Bool.xor_self, Nat.pow_succ, ← Nat.div_div_eq_div_mul]
      rfl
  exact shifts 8 (Nat.le_refl 8)

/-- Settles O26. -/
theorem payloadCrcDetectsASingleBit : Obligations.PayloadCrcDetectsASingleBit := by
  intro p i b j here
  have small : crc16 p < 2 ^ 16 := crcFold_lt (by decide) p
  refine ⟨crcFold_set_ne here j (by decide), small, ?_⟩
  rw [crc16, List.foldl_append]
  show crcByte (crcByte (crc16 p) (BitVec.ofNat 8 (crc16 p))) (BitVec.ofNat 8 (crc16 p / 256)) = 0
  rw [crcByte_self, crcByte_self]
  omega

end Sys2Proof.Machine
end

section
/-! A link receiver's rules, and the fates of a completed packet (R24, R37 to R45; O27). -/

-- One theorem at a time: the threads of a parallel elaboration reserve more memory than the check allows.
set_option Elab.async false

namespace Sys2Proof.Machine

variable {s t : State} {l : LinkNo}

/-! ### A step that ends no order and changes no board memory -/

/-- As many units are busy after as before, over the same board memory. -/
structure KeepsBusy (s u : State) : Prop where
  deposit : u.depositBusy = s.depositBusy
  service : u.serviceBusy = s.serviceBusy
  mem : u.mem = s.mem

theorem KeepsBusy.of_frame {ps : List Part} {u : State} (touches : Touches ps s u) (deposit : Part.deposit ∉ ps := by decide)
    (service : Part.service ∉ ps := by decide) (mem : Part.mem ∉ ps := by decide) : KeepsBusy s u where
  deposit := by rw [State.depositBusy, State.depositBusy, State.assembly, State.assembly, touches .deposit deposit]
  service := congrArg Option.isSome (touches .service service)
  mem := touches .mem mem

theorem stepWith_of_keepsBusy {errs : List MemErr} {effect : State → State} {u : State} (is_effect : effect { s with errs := errs } = u)
    (keeps : KeepsBusy s u) : s.stepWith errs effect = u := by
  have no_follow_up : State.afterFlight { s with errs := errs } u = u := State.afterFlight_of_busy_eq keeps.deposit keeps.service
  unfold State.stepWith
  dsimp only
  rw [is_effect, no_follow_up]
  exact noteMemory_of_mem_eq u _ keeps.mem

/-! ### One link replaced -/

section Set
variable {L : Vector Link 4} {k : Link} (h : t.links = L.set l k)
include h

theorem link_of_set : t.links[l] = k := by rw [h, links_set_getElem, if_pos rfl]

theorem other_link_of_set {m : LinkNo} (other : m ≠ l) : t.links[m] = L[m] := by rw [h, links_set_getElem, if_neg other]

theorem setLink_links_of (k' : Link) : (t.setLink l k').links = L.set l k' := by
  show t.links.set l k' = _
  rw [h]
  exact Vector.set_set ..

theorem count_links_of (c : LinkCounter) : (t.count l c 1).links = L.set l (k.counted c) := by
  rw [count_links, link_of_set h, h]
  exact Vector.set_set ..

theorem setNames_links_of (c r : Option Tag) : (t.setNames l c r).links = L.set l { k with current := c, refused := r } := by
  show (t.setLink l { t.links[l] with current := c, refused := r }).links = _
  rw [link_of_set h]
  exact setLink_links_of h _

end Set

theorem links_eq_set : s.links = s.links.set l s.links[l] := by simp

/-! ### A packet arrives (R24, R38) -/

/-- The part as the packet of a command finds it: the end-mark state of the link cleared. -/
def State.unmark (l : LinkNo) (s : State) : State := { s with links := s.links.set l { s.links[l] with endMark := false } }

theorem unmark_links : (s.unmark l).links = s.links.set l { s.links[l] with endMark := false } := rfl

theorem unmark_link : (s.unmark l).links[l] = { s.links[l] with endMark := false } := link_of_set unmark_links

theorem unmark_touches : Touches [.links] s (s.unmark l) := touches_links s _

theorem streamOf_eq {x : StreamNo} {st : LinkSettings} (settings : s.links[l].settings = some st) : s.streamOf l x = st.streams[x] := by
  unfold State.streamOf
  rw [settings]

theorem streamOf_congr {x : StreamNo} (h : t.links[l].settings = s.links[l].settings) : t.streamOf l x = s.streamOf l x := by
  unfold State.streamOf
  rw [h]

theorem unmark_streamOf {x : StreamNo} : (s.unmark l).streamOf l x = s.streamOf l x := streamOf_congr (by rw [unmark_link])

theorem streamOf_eq_none_iff {x : StreamNo} : s.streamOf l x = none ↔ ∀ g, ¬ ∃ st, s.links[l].settings = some st ∧ st.streams[x] = some g := by
  unfold State.streamOf
  cases here : s.links[l].settings with
  | none => simp
  | some st => simp [Option.eq_none_iff_forall_ne_some]

theorem packetArrives_of_off (off : s.links[l].phase = .off) (h : Header) (payload : List Byte) : s.packetArrives l h payload = s := if_pos off

theorem packetArrives_of_on (on : s.links[l].phase ≠ .off) {h : Header} (kind : h.kind ≠ 5) (payload : List Byte) :
    s.packetArrives l h payload = (s.unmark l).fate l ⟨h, payload, leBytes 2 (crc16 payload)⟩ := by
  unfold State.packetArrives
  rw [if_neg on]
  unfold State.completePacket
  rw [decide_eq_false kind]
  rfl

/-- R38: the tests of the table that a packet passes for its delivery. -/
theorem fate_of_filtered {p : Packet} (level : linkLevel p.header.kind = false) (none_ : s.streamOf l p.header.stream = none) :
    s.fate l p = s.count l .filtered 1 := by
  unfold State.fate
  rw [if_pos (by rw [level, none_]; rfl)]

theorem fate_of_linkLevel {p : Packet} (level : linkLevel p.header.kind = true) : s.fate l p = s.deliver l p.header p.payload := by
  have kinds : p.header.kind = 1 ∨ p.header.kind = 2 ∨ p.header.kind = 5 := of_decide_eq_true level
  unfold State.fate
  rw [if_neg (by rw [level]; simp), if_neg (by rcases kinds with h | h | h <;> rw [h] <;> decide),
    if_neg (by rcases kinds with h | h | h <;> rw [h] <;> decide), if_neg (by rcases kinds with h | h | h <;> rw [h] <;> simp),
    if_neg (by rcases kinds with h | h | h <;> rw [h] <;> simp)]

section Enabled
variable {p : Packet} {g : StreamEntry} (enabled : s.streamOf l p.header.stream = some g)
include enabled

theorem not_filtered : ¬ (!linkLevel p.header.kind && (s.streamOf l p.header.stream).isNone) = true := by
  rw [enabled]
  simp

theorem fate_of_segment (kind : p.header.kind = 3 ∨ p.header.kind = 4) : s.fate l p = s.deliver l p.header p.payload := by
  unfold State.fate
  rw [if_neg (not_filtered enabled), if_neg (by rcases kind with h | h <;> rw [h] <;> decide),
    if_neg (by rcases kind with h | h <;> rw [h] <;> decide), if_neg (by rcases kind with h | h <;> rw [h] <;> simp),
    if_neg (by rcases kind with h | h <;> rw [h] <;> simp)]

theorem fate_of_row (kind : p.header.kind = 8) (good : crc16 p.payload = leNat p.footer) : s.fate l p
    = if p.payload.length ≠ 2 + 2 * g.rowLen then s.count l .lengthErrors 1 else s.deliver l p.header p.payload := by
  unfold State.fate
  rw [if_neg (not_filtered enabled), if_neg (by rw [kind]; decide), if_neg (by rw [kind]; decide), if_neg (by rw [good]; simp)]
  rw [enabled]
  simp only [kind, true_and, decide_eq_true_eq]

end Enabled

theorem leNat_crcBytes (payload : List Byte) : leNat (leBytes 2 (crc16 payload)) = crc16 payload := by
  rw [leNat_leBytes]
  exact Nat.mod_eq_of_lt (crcFold_lt (by decide) payload)

theorem rowPayload_length (index : BitVec 16) (samples : List (BitVec 16)) : (rowPayload index samples).length = 2 + 2 * samples.length := by
  unfold rowPayload
  rw [List.length_append, leBytes_length, flatMap_leBytes_length]

/-! ### The packet commands -/

section Commands
variable {x : StreamNo} {v tag : BitVec 16} {errs : List MemErr} {samples : List (BitVec 16)}

/-- The part as a packet command with memory errors finds it. -/
abbrev State.heard (l : LinkNo) (errs : List MemErr) (s : State) : State := ({ s with errs := errs } : State).unmark l

theorem heard_touches : Touches [.errs, .links] s (s.heard l errs) := (touches_errs s errs).andThen unmark_touches

theorem heard_streamOf {o : Option StreamEntry} (enabled : s.streamOf l x = o) : (s.heard l errs).streamOf l x = o := unmark_streamOf.trans enabled

theorem u16s_leBytes (values : List (BitVec 16)) : u16s (values.flatMap fun y => leBytes 2 y.toNat) = values.map BitVec.toNat := by
  induction values with
  | nil => rfl
  | cons y values ih =>
    have value : leNat (leBytes 2 y.toNat) = y.toNat := by
      rw [leNat_leBytes]
      exact Nat.mod_eq_of_lt y.isLt
    exact congrArg₂ List.cons value ih

section On
variable (on : s.links[l].phase ≠ .off) {u : State}
include on

theorem exec_exposureOpen (effect : (s.heard l errs).openExposure l tag = u) (keeps : KeepsBusy s u) :
    exec (.exposureOpen l tag errs) s = .next u :=
  congrArg Host.Outcome.next (stepWith_of_keepsBusy
    (((packetArrives_of_on (s := { s with errs := errs }) on (h := ⟨0, 1, tag⟩) (show (1 : Fin 16) ≠ 5 by decide) []).trans
      (fate_of_linkLevel (p := ⟨⟨0, 1, tag⟩, _, _⟩) rfl)).trans effect) keeps)

theorem exec_exposureClose (effect : (s.heard l errs).closeExposure l tag = u) (keeps : KeepsBusy s u) :
    exec (.exposureClose l tag errs) s = .next u :=
  congrArg Host.Outcome.next (stepWith_of_keepsBusy
    (((packetArrives_of_on (s := { s with errs := errs }) on (h := ⟨0, 2, tag⟩) (show (2 : Fin 16) ≠ 5 by decide) []).trans
      (fate_of_linkLevel (p := ⟨⟨0, 2, tag⟩, _, _⟩) rfl)).trans effect) keeps)

theorem exec_burstEnd : exec (.burstEnd l) s = .next { s with links := s.links.set l { s.links[l] with endMark := true } } := by
  refine congrArg Host.Outcome.next ?_
  unfold State.packetArrives
  rw [if_neg on]
  exact fate_of_linkLevel (p := ⟨⟨0, 5, 0⟩, _, _⟩) rfl

theorem segmentBegin_arrives {h : Header} (kind : h.kind ≠ 5) : ({ s with errs := errs } : State).packetArrives l h []
    = (s.heard l errs).fate l ⟨h, [], leBytes 2 (crc16 [])⟩ := packetArrives_of_on (s := { s with errs := errs }) on kind []

theorem row_arrives : exec (.row l x v samples) s = .next ((s.unmark l).fate l ⟨⟨x, 8, BitVec.ofNat 16 (rowPayload v samples).length⟩,
    rowPayload v samples, leBytes 2 (crc16 (rowPayload v samples))⟩) :=
  congrArg Host.Outcome.next (packetArrives_of_on on (show (8 : Fin 16) ≠ 5 by decide) _)

section Enabled
variable {g : StreamEntry} (enabled : s.streamOf l x = some g)
include enabled

theorem exec_segmentBegin (effect : (s.heard l errs).beginSegment l g v.toNat = u) (keeps : KeepsBusy s u) :
    exec (.segmentBegin l x v errs) s = .next u := by
  refine congrArg Host.Outcome.next (stepWith_of_keepsBusy ?_ keeps)
  rw [segmentBegin_arrives on (show (3 : Fin 16) ≠ 5 by decide), fate_of_segment (heard_streamOf enabled) (.inl rfl)]
  unfold State.deliver
  dsimp only
  rw [heard_streamOf enabled]
  exact effect

theorem exec_segmentEnd (effect : (s.heard l errs).endSegment l g.seg v.toNat = u) (keeps : KeepsBusy s u) :
    exec (.segmentEnd l x v errs) s = .next u := by
  refine congrArg Host.Outcome.next (stepWith_of_keepsBusy ?_ keeps)
  rw [segmentBegin_arrives on (show (4 : Fin 16) ≠ 5 by decide), fate_of_segment (heard_streamOf enabled) (.inr rfl)]
  unfold State.deliver
  dsimp only
  rw [heard_streamOf enabled]
  exact effect

theorem exec_row_of_length (length : samples.length = g.rowLen) : exec (.row l x v samples) s
    = .next ((s.unmark l).storeRow l g.seg g.rowLen v.toNat (samples.map BitVec.toNat)) := by
  rw [row_arrives on, fate_of_row (unmark_streamOf.trans enabled) rfl (leNat_crcBytes _).symm, if_neg]
  · unfold State.deliver
    dsimp only
    rw [unmark_streamOf.trans enabled]
    have index : leNat ((rowPayload v samples).take 2) = v.toNat := by
      rw [rowPayload, List.take_left' (leBytes_length 2 _), leNat_leBytes]
      exact Nat.mod_eq_of_lt v.isLt
    have rest : u16s ((rowPayload v samples).drop 2) = samples.map BitVec.toNat := by
      rw [rowPayload, List.drop_left' (leBytes_length 2 _), u16s_leBytes]
    dsimp only
    rw [index, rest]
    rfl
  · rw [rowPayload_length, length]
    exact fun other => other rfl

theorem exec_row_of_wrong_length (length : samples.length ≠ g.rowLen) : exec (.row l x v samples) s
    = .next ((s.unmark l).count l .lengthErrors 1) := by
  rw [row_arrives on, fate_of_row (unmark_streamOf.trans enabled) rfl (leNat_crcBytes _).symm, if_pos]
  rw [rowPayload_length]
  show 2 + 2 * samples.length ≠ 2 + 2 * g.rowLen
  omega

end Enabled
end On
end Commands

theorem endSegment_of_refused {seg : SegNo} {k : Nat} (refused : s.links[l].refused ≠ none) : s.endSegment l seg k = s.count l .refused 1 :=
  if_pos (Option.isSome_iff_ne_none.mpr refused)

theorem beginSegment_of_refused {g : StreamEntry} {n : Nat} (refused : s.links[l].refused ≠ none) : s.beginSegment l g n = s.count l .refused 1 :=
  if_pos (Option.isSome_iff_ne_none.mpr refused)

theorem storeRow_of_refused {seg : SegNo} {n r : Nat} {ys : List Nat} (refused : s.links[l].refused ≠ none) :
    s.storeRow l seg n r ys = s.count l .refused 1 := if_pos (Option.isSome_iff_ne_none.mpr refused)

/-- Settles O27. -/
theorem packetFatesOutsideTheTable : Obligations.PacketFatesOutsideTheTable := by
  intro l x tag v samples errs s k unmarked enabled
  have enabled_iff {g : StreamEntry} : s.streamOf l x = some g ↔ enabled g := by
    unfold State.streamOf
    show _ ↔ ∃ st, s.links[l].settings = some st ∧ st.streams[x] = some g
    cases s.links[l].settings with
    | none => simp
    | some st => simp
  have heard_counts (c : LinkCounter) : Touches [.links, .mirror, .errs] s ((s.heard l errs).count l c 1) :=
    heard_touches.andThen (count_touches _ l c 1)
  have counts (c : LinkCounter) : Touches [.links, .mirror] s ((s.unmark l).count l c 1) := unmark_touches.andThen (count_touches _ l c 1)
  have links (c : LinkCounter) (t : State) (h : t.links = s.links.set l unmarked) : (t.count l c 1).links = s.links.set l (unmarked.counted c) :=
    count_links_of h c
  refine ⟨fun off => ?_, fun on disabled c hc => ?_, fun on g ok length => ?_, fun on g ok length refused c hc => ?_, exec_burstEnd⟩
  · have ignored (h : Header) (payload : List Byte) : s.stepWith errs (State.packetArrives l h payload) = { s with errs := errs } :=
      stepWith_of_keepsBusy (packetArrives_of_off (s := { s with errs := errs }) off h payload) (.of_frame (touches_errs s errs))
    exact ⟨congrArg Host.Outcome.next (ignored _ _), congrArg Host.Outcome.next (ignored _ _), congrArg Host.Outcome.next (ignored _ _),
      congrArg Host.Outcome.next (ignored _ _), congrArg Host.Outcome.next (packetArrives_of_off off _ _),
      congrArg Host.Outcome.next (packetArrives_of_off off _ _)⟩
  · have none_ : s.streamOf l x = none := Option.eq_none_iff_forall_ne_some.mpr fun g here => disabled g (enabled_iff.mp here)
    have filtered (kind : Fin 16) (level : linkLevel kind = false) (not_end : kind ≠ 5) :
        s.stepWith errs (State.packetArrives l ⟨x, kind, v⟩ []) = (s.heard l errs).count l .filtered 1 := by
      refine stepWith_of_keepsBusy ?_ (.of_frame (heard_counts .filtered))
      rw [segmentBegin_arrives on not_end]
      exact fate_of_filtered level (heard_streamOf none_)
    have dropped (kind : Fin 16) (level : linkLevel kind = false) (not_end : kind ≠ 5) : ∃ t,
        Host.Outcome.next (s.stepWith errs (State.packetArrives l ⟨x, kind, v⟩ [])) = (.next t : Host.Outcome State Fault Refusal)
          ∧ Touches [.links, .mirror, .errs] s t ∧ t.links = s.links.set l (unmarked.counted .filtered) :=
      ⟨_, congrArg Host.Outcome.next (filtered kind level not_end), heard_counts .filtered, links _ _ rfl⟩
    simp only [List.mem_cons, List.not_mem_nil, or_false] at hc
    rcases hc with rfl | rfl | rfl
    · exact dropped 3 rfl (by decide)
    · exact dropped 4 rfl (by decide)
    · refine ⟨_, (row_arrives on).trans (congrArg Host.Outcome.next (fate_of_filtered rfl (unmark_streamOf.trans none_))), (counts _).mono,
        links _ _ rfl⟩
  · exact ⟨_, exec_row_of_wrong_length on (enabled_iff.mpr ok) length, counts _, links _ _ rfl⟩
  · have marker {t : State} (h : t.links = s.links.set l unmarked) : t.links[l].refused ≠ none := by
      rw [link_of_set h]
      exact refused
    simp only [List.mem_cons, List.not_mem_nil, or_false] at hc
    rcases hc with rfl | rfl | rfl
    · exact ⟨_, exec_segmentBegin on (enabled_iff.mpr ok) (beginSegment_of_refused (marker rfl)) (.of_frame (heard_counts _)), heard_counts _,
        links _ _ rfl⟩
    · exact ⟨_, exec_segmentEnd on (enabled_iff.mpr ok) (endSegment_of_refused (marker rfl)) (.of_frame (heard_counts _)), heard_counts _,
        links _ _ rfl⟩
    · exact ⟨_, (exec_row_of_length on (enabled_iff.mpr ok) length).trans (congrArg Host.Outcome.next (storeRow_of_refused (marker rfl))),
        (counts _).mono, links _ _ rfl⟩

end Sys2Proof.Machine
end

section
/-! Rules of the exposure table, the tile pool and the deposit unit for one place and one slot (R47, R49, R56, R66, R132 to R140), and
an EXPOSURE_OPEN (O28, O29). -/

-- One theorem at a time: the threads of a parallel elaboration reserve more memory than the check allows.
set_option Elab.async false

namespace Sys2Proof.Machine

variable {s t : State} {l : LinkNo} {tag : Tag}

/-! ### The lowest number that a test holds of -/

theorem find?_finRange_eq_some {n : Nat} {f : Fin n → Bool} {p : Fin n} (holds : f p = true) (lower : ∀ q, q < p → f q = false) :
    (List.finRange n).find? f = some p := by
  refine List.find?_eq_some_iff_getElem.mpr ⟨holds, p.val, by simp, by simp, fun j hj => ?_⟩
  simpa using lower ⟨j, by omega⟩ hj

theorem find?_finRange_lower {n : Nat} {f : Fin n → Bool} {p : Fin n} (found : (List.finRange n).find? f = some p) {q : Fin n} (hq : q < p) :
    f q = false := by
  obtain ⟨-, i, hi, at_, before⟩ := List.find?_eq_some_iff_getElem.mp found
  obtain rfl : i = p.val := by simpa using congrArg Fin.val at_
  simpa using before q.val hq

theorem State.freePlace_eq {p : Fin 4} (free : s.exposures[p] = none) (lower : ∀ q, q < p → s.exposures[q] ≠ none) : s.freePlace = some p :=
  find?_finRange_eq_some (by rw [free]; rfl) fun q hq => Option.isNone_eq_false_iff.mpr (Option.isSome_iff_ne_none.mpr (lower q hq))

theorem State.freePlace_eq_none (full : ∀ p : Fin 4, s.exposures[p] ≠ none) : s.freePlace = none :=
  List.find?_eq_none.mpr fun p _ => by simpa using full p

theorem State.freeSlot_eq {n : SlotNo} (free : s.slots[n] = none) (lower : ∀ m, m < n → s.slots[m] ≠ none) : s.freeSlot = some n :=
  find?_finRange_eq_some (by rw [free]; rfl) fun q hq => Option.isNone_eq_false_iff.mpr (Option.isSome_iff_ne_none.mpr (lower q hq))

theorem State.freeSlot_eq_none (full : ∀ n : SlotNo, s.slots[n] ≠ none) : s.freeSlot = none :=
  List.find?_eq_none.mpr fun n _ => by simpa using full n

theorem State.freeSlot_lower {n : SlotNo} (found : s.freeSlot = some n) {m : SlotNo} (hm : m < n) : s.slots[m] ≠ none := by
  have taken : s.slots[m].isNone = false := find?_finRange_lower (f := fun n : SlotNo => s.slots[n].isNone) found hm
  exact fun free => by rw [free] at taken; cases taken

/-! ### The place of a tag (R47) -/

theorem places_getElem_set (v : Vector (Option ExpEntry) 4) (p q : Fin 4) (new : Option ExpEntry) : (v.set p new)[q] = if q = p then new else v[q] := by
  rw [Fin.getElem_fin, Vector.getElem_set]
  simp only [Fin.val_inj, eq_comm (a := p), Fin.getElem_fin]

theorem slots_getElem_set (v : Vector (Option Slot) 128) (n m : SlotNo) (new : Option Slot) : (v.set n new)[m] = if m = n then new else v[m] := by
  rw [Fin.getElem_fin, Vector.getElem_set]
  simp only [Fin.val_inj, eq_comm (a := n), Fin.getElem_fin]

theorem placeOf_congr_tags (h : ∀ p : Fin 4, (t.exposures[p]).map ExpEntry.tag = (s.exposures[p]).map ExpEntry.tag) :
    t.placeOf tag = s.placeOf tag := by
  unfold State.placeOf
  refine congrArg (List.find? · _) (funext fun p => ?_)
  have test (x : Option ExpEntry) : (match x with | some e => decide (e.tag = tag) | none => false) = decide (x.map ExpEntry.tag = some tag) := by
    cases x <;> simp
  have same : decide ((t.exposures[p]).map ExpEntry.tag = some tag) = decide ((s.exposures[p]).map ExpEntry.tag = some tag) := by rw [h p]
  exact (test _).trans (same.trans (test _).symm)

theorem entryOf_of_place {p : Fin 4} {e : ExpEntry} (place : s.placeOf tag = some p) (here : s.exposures[p] = some e) : s.entryOf tag = some e := by
  unfold State.entryOf
  rw [place]
  exact here

theorem entryOf_congr (h : t.exposures = s.exposures) : t.entryOf tag = s.entryOf tag := by
  unfold State.entryOf State.placeOf
  rw [h]

theorem placeOf_congr (h : t.exposures = s.exposures) : t.placeOf tag = s.placeOf tag := by
  unfold State.placeOf
  rw [h]

theorem entryOf_eq_none (absent : ∀ (p : Fin 4) (e : ExpEntry), s.exposures[p] = some e → e.tag ≠ tag) : s.entryOf tag = none := by
  refine Option.eq_none_iff_forall_ne_some.mpr fun e found => ?_
  obtain ⟨p, -, here, same⟩ := State.entryOf_some found
  exact absent p e here same

theorem placeOf_eq_none (absent : ∀ (p : Fin 4) (e : ExpEntry), s.exposures[p] = some e → e.tag ≠ tag) : s.placeOf tag = none := by
  refine Option.eq_none_iff_forall_ne_some.mpr fun p found => ?_
  obtain ⟨e, here, same⟩ := State.placeOf_some found
  exact absent p e here same

/-- A change of an entry that keeps its tag leaves the place of every tag. -/
theorem placeOf_set {p : Fin 4} {e e' : ExpEntry} (here : s.exposures[p] = some e) (set_ : t.exposures = s.exposures.set p (some e')) (same : e'.tag = e.tag) (tag' : Tag) :
    t.placeOf tag' = s.placeOf tag' := by
  refine placeOf_congr_tags fun q => ?_
  rw [set_, places_getElem_set]
  split
  · next at_ =>
    rw [at_, here]
    exact congrArg some same
  · rfl

section Place
variable {p : Fin 4} {e : ExpEntry} (place : s.placeOf tag = some p) (here : s.exposures[p] = some e)
include place here

theorem place_after_set {e' : ExpEntry} (set_ : t.exposures = s.exposures.set p (some e')) (same : e'.tag = e.tag) :
    t.placeOf tag = some p ∧ t.exposures[p] = some e' ∧ t.entryOf tag = some e' := by
  have still : t.placeOf tag = some p := (placeOf_set here set_ same tag).trans place
  have at_ : t.exposures[p] = some e' := by rw [set_, places_getElem_set, if_pos rfl]
  exact ⟨still, at_, entryOf_of_place still at_⟩

/-- R56: the removal check at the entry of the tag. -/
theorem removalCheck_exposures : (s.removalCheck tag).exposures = if e.Removable then s.exposures.set p none else s.exposures := by
  unfold State.removalCheck
  rw [place]
  dsimp only
  rw [here]
  dsimp only
  by_cases gone : e.Removable
  · rw [if_pos gone, if_pos gone, setPlace_exposures]
  · rw [if_neg gone, if_neg gone]

end Place

theorem vector_set_set {α : Type} {n : Nat} (v : Vector α n) (i : Fin n) (a b : α) : (v.set i a).set i b = v.set i b := Vector.set_set ..

/-- R66: a slot freed is one slot less at its entry, which goes where the removal check has it go. -/
theorem freeSlotAs_exposures {p : Fin 4} {e : ExpEntry} {n : SlotNo} {sl : Slot} (why : FreeReason) (slot : s.slots[n] = some sl)
    (place : s.placeOf sl.tag = some p) (here : s.exposures[p] = some e) :
    (s.freeSlotAs why n).exposures = if ({ e with held := e.held - 1 } : ExpEntry).Removable then s.exposures.set p none
      else s.exposures.set p (some { e with held := e.held - 1 }) := by
  unfold State.freeSlotAs
  rw [slot]
  dsimp only
  have freed : ((s.queueMirror (reportOff sl.seg) (reportBytes why sl)).setSlot n none).exposures = s.exposures := setSlot_exposures _ _ _
  generalize (s.queueMirror (reportOff sl.seg) (reportBytes why sl)).setSlot n none = u at freed
  have place' : u.placeOf sl.tag = some p := (placeOf_congr freed).trans place
  have here' : u.exposures[p] = some e := by rw [freed]; exact here
  have mapped := mapEntry_exposures place' here' fun e => { e with held := e.held - 1 }
  obtain ⟨still, at_, -⟩ := place_after_set place' here' mapped rfl
  rw [removalCheck_exposures still at_, mapped, freed]
  split
  · exact vector_set_set _ _ _ _
  · rfl

/-! ### What waits for the progress block -/

/-- Waiting mirror writes stay in the queue. -/
def MirrorGrows (s t : State) : Prop := s.mirror <+: t.mirror

theorem MirrorGrows.trans {u : State} (h : MirrorGrows s t) (g : MirrorGrows t u) : MirrorGrows s u := List.IsPrefix.trans h g

theorem MirrorGrows.of_eq (h : t.mirror = s.mirror) : MirrorGrows s t := by
  unfold MirrorGrows
  rw [h]

theorem MirrorGrows.mem (h : MirrorGrows s t) {w : MirrorWrite} (hw : w ∈ s.mirror) : w ∈ t.mirror := h.subset hw

theorem queueMirror_grows (off : Nat) (bytes : List Byte) : MirrorGrows s (s.queueMirror off bytes) := List.prefix_append _ _

theorem mirrorIf_grows (c : Bool) (off n v : Nat) : MirrorGrows s (s.mirrorIf c off n v) := by
  unfold State.mirrorIf
  split
  · exact queueMirror_grows _ _
  · exact .of_eq rfl

theorem setSlot_grows (n : SlotNo) (new : Option Slot) : MirrorGrows s (s.setSlot n new) :=
  (MirrorGrows.of_eq rfl : MirrorGrows s { s with slots := s.slots.set n new }).trans (mirrorIf_grows _ _ _ _)

theorem setPlace_grows (p : Fin 4) (new : Option ExpEntry) : MirrorGrows s (s.setPlace p new) := by
  have set_ : MirrorGrows s { s with exposures := s.exposures.set p new } := .of_eq rfl
  unfold State.setPlace
  dsimp only
  split
  · exact set_
  · exact set_.trans (mirrorIf_grows _ _ _ _)
  · exact (((((set_.trans (mirrorIf_grows _ _ _ _)).trans (mirrorIf_grows _ _ _ _)).trans (mirrorIf_grows _ _ _ _)).trans
      (mirrorIf_grows _ _ _ _)).trans (mirrorIf_grows _ _ _ _)).trans (mirrorIf_grows _ _ _ _)
  · exact ((((set_.trans (mirrorIf_grows _ _ _ _)).trans (mirrorIf_grows _ _ _ _)).trans (mirrorIf_grows _ _ _ _)).trans
      (mirrorIf_grows _ _ _ _)).trans (mirrorIf_grows _ _ _ _)

theorem mapEntry_grows (f : ExpEntry → ExpEntry) : MirrorGrows s (s.mapEntry tag f) := by
  unfold State.mapEntry
  split
  · split
    · exact setPlace_grows _ _
    · exact .of_eq rfl
  · exact .of_eq rfl

theorem removalCheck_grows : MirrorGrows s (s.removalCheck tag) := by
  unfold State.removalCheck
  split
  · split
    · split
      · exact setPlace_grows _ _
      · exact .of_eq rfl
    · exact .of_eq rfl
  · exact .of_eq rfl

theorem freeSlotAs_grows (why : FreeReason) (n : SlotNo) : MirrorGrows s (s.freeSlotAs why n) := by
  unfold State.freeSlotAs
  split
  · exact .of_eq rfl
  · exact (((queueMirror_grows _ _).trans (setSlot_grows _ _)).trans (mapEntry_grows _)).trans removalCheck_grows

/-- R66: the report of a slot freed waits. -/
theorem freeSlotAs_reports (why : FreeReason) {n : SlotNo} {sl : Slot} (slot : s.slots[n] = some sl) :
    ⟨reportOff sl.seg, reportBytes why sl⟩ ∈ (s.freeSlotAs why n).mirror := by
  have queued : ⟨reportOff sl.seg, reportBytes why sl⟩ ∈ (s.queueMirror (reportOff sl.seg) (reportBytes why sl)).mirror :=
    List.mem_append_right _ List.mem_cons_self
  unfold State.freeSlotAs
  rw [slot]
  exact (((setSlot_grows n none).trans (mapEntry_grows _)).trans removalCheck_grows).mem queued

/-- A slot that stays taken changes alone. -/
theorem setSlot_of_taken {n : SlotNo} {old : Slot} (here : s.slots[n] = some old) (new : Slot) :
    s.setSlot n (some new) = { s with slots := s.slots.set n (some new) } := by
  unfold State.setSlot
  rw [here]
  rfl

/-! ### The deposit unit at rest (R132 to R140) -/

theorem endTest_of_not_serving (h : ∀ o, s.deposit ≠ .serving o) : s.endTest = s := by
  unfold State.endTest
  split
  · next o serving => exact absurd serving (h o)
  · rfl

/-- R140: while a segment is awaited the order goes on. -/
theorem endTest_of_awaits {o : Assembly} {seg : SegNo} (serving : s.deposit = .serving o) (awaited : s.awaits o seg = true) : s.endTest = s := by
  unfold State.endTest
  rw [serving]
  dsimp only
  rw [if_pos]
  rw [Bool.or_eq_true, List.any_eq_true]
  exact .inl ⟨seg, List.mem_finRange seg, awaited⟩

/-- R134: without an awaited segment that has a COMPLETE slot, none is chosen. -/
theorem choose_of_none {o : Assembly} (serving : s.deposit = .serving o)
    (none_ : ∀ seg, s.awaits o seg = true → s.slotIn o.tag seg [.complete] = none) : s.choose = s := by
  unfold State.choose State.chooseTile
  rw [serving]
  dsimp only
  split
  · rw [List.find?_eq_none.mpr fun seg _ => ?_]
    intro found
    rw [Bool.and_eq_true] at found
    rw [none_ seg found.1] at found
    cases found.2
  · rfl

theorem slotOf_eq_none (absent : ∀ (n : SlotNo) (sl : Slot), s.slots[n] = some sl → sl.tag ≠ tag) (seg : SegNo) : s.slotOf tag seg = none := by
  refine List.find?_eq_none.mpr fun n _ found => ?_
  split at found
  · next sl here =>
    rw [Bool.and_eq_true] at found
    exact absent n sl here (of_decide_eq_true found.1)
  · cases found

theorem slotIn_eq_none (absent : ∀ (n : SlotNo) (sl : Slot), s.slots[n] = some sl → sl.tag ≠ tag) (seg : SegNo) (states : List SlotState) :
    s.slotIn tag seg states = none := by
  refine Option.eq_none_iff_forall_ne_some.mpr fun n found => ?_
  obtain ⟨sl, here, same, -⟩ := State.slotIn_some found
  exact absent n sl here same

theorem awaits_of_entry {o : Assembly} {seg : SegNo} {e : ExpEntry} {x : SegEntry} (present : o.map[seg] = some x) (entry : s.entryOf o.tag = some e)
    (unsettled : e.outcomes[seg] = .unsettled) : s.awaits o seg = true := by
  unfold State.awaits
  rw [present, entry]
  simpa using unsettled

/-- R129, R130: binding to an entry just made, of a tag without slots: nothing is settled and nothing ends. -/
theorem bind_of_no_slots {o : Assembly} {p : Fin 4} {e : ExpEntry} (place : s.placeOf o.tag = some p) (here : s.exposures[p] = some e)
    (open_ : e.state ≠ .closed) (none_ : ∀ (n : SlotNo) (sl : Slot), s.slots[n] = some sl → sl.tag ≠ o.tag)
    (present : ∃ seg : SegNo, o.map[seg] ≠ none ∧ e.outcomes[seg] = .unsettled) :
    s.bind o = { s.mapEntry o.tag fun e => { e with state := .assembling } with deposit := .serving { o with turn := 0, current := none } } := by
  have exposures := mapEntry_exposures place here fun e => { e with state := .assembling }
  have slots : (s.mapEntry o.tag fun e => { e with state := .assembling }).slots = s.slots := mapEntry_touches _ _ _ .slots (by decide)
  unfold State.bind
  rw [entryOf_of_place place here]
  dsimp only
  generalize s.mapEntry o.tag (fun e => { e with state := .assembling }) = u at exposures slots
  have none_left : ∀ (n : SlotNo) (sl : Slot), u.slots[n] = some sl → sl.tag ≠ o.tag := by rw [slots]; exact none_
  obtain ⟨-, -, entry⟩ := place_after_set place here exposures rfl
  obtain ⟨seg, in_map, unsettled⟩ := present
  obtain ⟨x, in_map⟩ := Option.ne_none_iff_exists'.mp in_map
  have bound (seg : SegNo) : State.bindSegment (decide (e.state = .closed)) o
      { u with deposit := .serving { o with turn := 0, current := none } } seg
      = { u with deposit := .serving { o with turn := 0, current := none } } := by
    unfold State.bindSegment
    split
    · rw [slotOf_eq_none (s := { u with deposit := .serving { o with turn := 0, current := none } }) none_left, decide_eq_false open_]
      rfl
    · rfl
  have waits := choose_of_none (s := { u with deposit := .serving { o with turn := 0, current := none } }) rfl fun seg _ =>
    slotIn_eq_none none_left seg _
  rw [List.foldl_fixed' bound, waits]
  exact endTest_of_awaits (seg := seg) rfl (awaits_of_entry (e := { e with state := .assembling }) in_map entry unsettled)

/-! ### EXPOSURE_OPEN (R49) -/

section Open
variable (no_current : s.links[l].current = none)
include no_current

theorem openExposure_of_refused (refused : s.links[l].refused = some tag) : s.openExposure l tag = s.count l .refused 1 := by
  have way : s.clearWay l tag = s := by
    unfold State.clearWay
    rw [no_current]
    exact if_pos refused
  unfold State.openExposure
  rw [way]
  exact if_pos refused

theorem openExposure_of_no_current (refused : s.links[l].refused ≠ some tag) :
    s.openExposure l tag = (s.setNames l none none).openByTable l tag := by
  have way : s.clearWay l tag = s.setNames l none none := by
    unfold State.clearWay
    rw [no_current]
    dsimp only
    rw [if_neg refused, no_current]
  have names : (s.setNames l none none).links[l] = { s.links[l] with current := none, refused := none } := link_of_set rfl
  unfold State.openExposure
  rw [way]
  dsimp only
  rw [names, if_neg (by exact nofun), if_neg (by exact fun h => nomatch h.1)]

end Open

theorem raise_receive_alert : (s.raise .receive).alert = { s.alert with pending := { s.alert.pending with receive := true } } := raise_alert _ _

/-- R49: an open that takes no entry of its own: the tag becomes the refused marker, it is counted, and RECEIVE is raised. -/
def State.refuseOpen (l : LinkNo) (tag : Tag) (c : LinkCounter) (s : State) : State := ((s.setNames l none (some tag)).count l c 1).raise .receive

theorem refuseOpen_touches (c : LinkCounter) : Touches [.links, .mirror, .alert, .messages] s (s.refuseOpen l tag c) :=
  ((setNames_touches s l _ _).andThen (count_touches _ l c 1) : Touches [.links, .mirror] _ _).andThen (raise_touches _ _)

theorem refuseOpen_links {L : Vector Link 4} {k : Link} (h : s.links = L.set l k) (c : LinkCounter) :
    (s.refuseOpen l tag c).links = L.set l (({ k with current := none, refused := some tag } : Link).counted c) := by
  show (((s.setNames l none (some tag)).count l c 1).raise .receive).links = _
  rw [raise_touches _ _ .links (by decide)]
  exact count_links_of (setNames_links_of h _ _) c

theorem refuseOpen_alert (c : LinkCounter) :
    (s.refuseOpen l tag c).alert = { s.alert with pending := { s.alert.pending with receive := true } } := by
  show (((s.setNames l none (some tag)).count l c 1).raise .receive).alert = _
  rw [raise_receive_alert, count_touches _ _ _ _ .alert (by decide), setNames_touches _ _ _ _ .alert (by decide)]

/-- The link whose names an open has cleared. -/
theorem cleared_links {errs : List MemErr} : ((s.heard l errs).setNames l none none).links
    = s.links.set l { s.links[l] with current := none, refused := none, endMark := false } := setNames_links_of unmark_links none none

theorem cleared_touches {errs : List MemErr} : Touches [.errs, .links] s ((s.heard l errs).setNames l none none) :=
  heard_touches.andThen (setNames_touches _ _ _ _)

/-- Settles O29. -/
theorem exposureOpenOfAKnownTag : Obligations.ExposureOpenOfAKnownTag := by
  intro l tag errs s k on no_current
  have no_current' : (s.heard l errs).links[l].current = none := by
    rw [unmark_link]
    exact no_current
  refine ⟨fun refused => ?_, fun other p e place here => ⟨fun arriving => ?_, fun not_arriving => ?_⟩⟩
  · have effect := openExposure_of_refused (s := s.heard l errs) no_current' (tag := tag) (by rw [unmark_link]; exact refused)
    have touches : Touches [.links, .mirror, .errs] s _ := heard_touches.andThen (count_touches (s.heard l errs) l .refused 1)
    exact ⟨_, exec_exposureOpen on effect (.of_frame touches), touches, count_links_of unmark_links _⟩
  all_goals
    have by_table := openExposure_of_no_current (s := s.heard l errs) no_current' (tag := tag) (by rw [unmark_link]; exact other)
    have cleared := cleared_links (s := s) (l := l) (errs := errs)
    have frame := cleared_touches (s := s) (l := l) (errs := errs)
    generalize (s.heard l errs).setNames l none none = u at by_table cleared frame
    have exposures : u.exposures = s.exposures := frame .exposures (by decide)
    have place' : u.placeOf tag = some p := (placeOf_congr exposures).trans place
    have here' : u.exposures[p] = some e := by rw [exposures]; exact here
    have arriving_iff : e.arriving l = true ↔
        (e.state = .opened ∨ e.state = .assembling ∧ e.closedBy ≠ e.openedBy) ∧ e.closedBy.getLsbD l.val = false := by
      simp [ExpEntry.arriving, inLinks]
    unfold State.openByTable at by_table
    rw [entryOf_of_place place' here'] at by_table
    dsimp only at by_table
  · rw [if_pos (arriving_iff.mpr arriving)] at by_table
    have joined := mapEntry_exposures place' here' fun e => { e with openedBy := e.openedBy ||| linkBit l }
    have mapped := mapEntry_touches u tag fun e => { e with openedBy := e.openedBy ||| linkBit l }
    generalize u.mapEntry tag (fun e => { e with openedBy := e.openedBy ||| linkBit l }) = v at by_table joined mapped
    have named := setNames_touches v l (some tag) none
    have touches : Touches [.links, .exposures, .mirror, .errs] s (v.setNames l (some tag) none) :=
      (frame.andThen mapped : Touches [.errs, .links, .exposures, .mirror] _ _).andThen named
    refine ⟨_, exec_exposureOpen on by_table (.of_frame touches), touches, ?_, ?_⟩
    · rw [named .exposures (by decide), joined, exposures]
      rfl
    · exact setNames_links_of ((mapped .links (by decide)).trans cleared) _ _
  · rw [if_neg (fun h => not_arriving (arriving_iff.mp h))] at by_table
    have touches : Touches [.links, .mirror, .alert, .messages, .errs] s (u.refuseOpen l tag .duplicateExposure) := frame.andThen (refuseOpen_touches (s := u) (l := l) (tag := tag) .duplicateExposure)
    refine ⟨_, exec_exposureOpen on by_table (.of_frame touches), touches, refuseOpen_links cleared _, ?_⟩
    exact (refuseOpen_alert _).trans (by rw [frame .alert (by decide)])

end Sys2Proof.Machine
end

section
/-! An EXPOSURE_OPEN of a new tag (O28) and an EXPOSURE_CLOSE (O30). -/

-- One theorem at a time: the threads of a parallel elaboration reserve more memory than the check allows.
set_option Elab.async false

namespace Sys2Proof.Machine

variable {s t : State} {l : LinkNo} {tag : Tag}

/-! ### An open of a tag without an entry -/

theorem openByTable_of_free {p : Fin 4} (absent : s.entryOf tag = none) (free : s.freePlace = some p) :
    s.openByTable l tag = ((s.setPlace p (some (newEntry l tag))).setNames l (some tag) none).tellMade tag := by
  unfold State.openByTable
  rw [absent]
  dsimp only
  rw [free]

theorem openByTable_of_full (absent : s.entryOf tag = none) (full : s.freePlace = none) : s.openByTable l tag = s.refuseOpen l tag .refused := by
  unfold State.openByTable
  rw [absent]
  dsimp only
  rw [full]
  rfl

theorem tellMade_of_not_waiting (h : ∀ o, s.deposit = .waiting o → o.tag ≠ tag) : s.tellMade tag = s := by
  unfold State.tellMade
  split
  · next o waiting => exact if_neg (h o waiting)
  · rfl

theorem tellMade_of_waiting {o : Assembly} (waiting : s.deposit = .waiting o) (same : o.tag = tag) : s.tellMade tag = s.bind o := by
  unfold State.tellMade
  rw [waiting]
  exact if_pos same

/-- An entry put in a place where no other has its tag is the entry of the tag. -/
theorem placeOf_made {p : Fin 4} {e : ExpEntry} (absent : ∀ (q : Fin 4) (d : ExpEntry), s.exposures[q] = some d → d.tag ≠ e.tag)
    (made : t.exposures = s.exposures.set p (some e)) : t.placeOf e.tag = some p := by
  refine find?_finRange_eq_some ?_ fun q hq => ?_
  · rw [made, places_getElem_set, if_pos rfl]
    exact decide_eq_true rfl
  · rw [made, places_getElem_set, if_neg hq.ne]
    split
    · next d here => exact decide_eq_false (absent q d here)
    · rfl

/-! ### The close of another exposure on the way -/

/-- What a close makes of the slots and the entry, before the deposit unit is told (R53). -/
def State.closed (l : LinkNo) (tag : Tag) (s : State) : State :=
  let t := (List.finRange 128).foldl (State.closeSlot l tag) s
  (t.mapEntry tag (ExpEntry.closeBy l)).setNames l none t.links[l].refused

theorem closed_touches : Touches [.links, .exposures, .slots, .mirror] s (s.closed l tag) :=
  ((Touches.foldl _ (fun t n => closeSlot_touches t l tag n) _ s).andThen (mapEntry_touches _ _ _) :
    Touches [.exposures, .slots, .mirror] _ _).andThen (setNames_touches _ _ _ _)

theorem tellComplete_of_not_serving {ns : List SlotNo} (h : ∀ o, s.deposit ≠ .serving o) : s.tellComplete tag ns = s := by
  unfold State.tellComplete
  split
  · next o serving => exact absurd serving (h o)
  · rfl

theorem tellClosed_of_not_serving (h : ∀ o, s.deposit ≠ .serving o) : s.tellClosed tag = s := by
  unfold State.tellClosed
  split
  · next o serving => exact absurd serving (h o)
  · rfl

/-- R53: without an order SERVING a close ends at the table. -/
theorem closeFor_of_not_serving (h : ∀ o, s.deposit ≠ .serving o) :
    s.closeFor l tag = if (s.entryOf tag).isSome then s.closed l tag else s.setNames l none s.links[l].refused := by
  have still : ∀ o, (s.closed l tag).deposit ≠ .serving o := by
    rw [closed_touches .deposit (by decide)]
    exact h
  unfold State.closeFor
  cases s.entryOf tag with
  | none => rfl
  | some e =>
    show (if ((s.closed l tag).tellComplete tag (s.fillingOf l tag)).closedInAssembly tag
      then ((s.closed l tag).tellComplete tag (s.fillingOf l tag)).tellClosed tag
      else (s.closed l tag).tellComplete tag (s.fillingOf l tag)) = s.closed l tag
    rw [tellComplete_of_not_serving still, tellClosed_of_not_serving still, ite_self]

theorem closeFor_touches_of_not_serving (h : ∀ o, s.deposit ≠ .serving o) : Touches [.links, .exposures, .slots, .mirror] s (s.closeFor l tag) := by
  rw [closeFor_of_not_serving h]
  split
  · exact closed_touches
  · exact (setNames_touches _ _ _ _).mono

theorem closeExposure_of_current (marker : s.links[l].refused ≠ some tag) (current : s.links[l].current = some tag) :
    s.closeExposure l tag = s.closeFor l tag := by
  unfold State.closeExposure
  rw [if_neg marker, if_pos current]

/-- R49: the first step of an open once no other exposure is current: another refused marker becomes absent. -/
def State.dropMarker (l : LinkNo) (tag : Tag) (s : State) : State :=
  if s.links[l].refused = some tag then s else s.setNames l s.links[l].current none

theorem clearWay_of_no_current (h : s.links[l].current = none) : s.clearWay l tag = s.dropMarker l tag := by
  unfold State.clearWay
  rw [h]
  unfold State.dropMarker
  rfl

theorem clearWay_of_other {c : Tag} (h : s.links[l].current = some c) (differs : c ≠ tag) : s.clearWay l tag = (s.closeFor l c).dropMarker l tag := by
  unfold State.clearWay
  rw [h]
  simp only [if_neg differs]
  rfl

theorem openExposure_congr (h : s.clearWay l tag = t.clearWay l tag) : s.openExposure l tag = t.openExposure l tag := by
  unfold State.openExposure
  rw [h]

theorem unmark_of_unmarked (h : s.links[l].endMark = false) : s.unmark l = s := by
  have same : ({ s.links[l] with endMark := false } : Link) = s.links[l] := by rw [← h]
  unfold State.unmark
  rw [same, ← links_eq_set]

theorem heard_of_unmarked {errs : List MemErr} (h : s.links[l].endMark = false) (from_ : s.errs = errs) : s.heard l errs = s := by
  subst from_
  exact unmark_of_unmarked h

theorem exposureOpen_arrives {errs : List MemErr} (on : s.links[l].phase ≠ .off) :
    ({ s with errs := errs } : State).packetArrives l ⟨0, 1, tag⟩ [] = (s.heard l errs).openExposure l tag :=
  (packetArrives_of_on (s := { s with errs := errs }) on (h := ⟨0, 1, tag⟩) (show (1 : Fin 16) ≠ 5 by decide) []).trans
    (fate_of_linkLevel (p := ⟨⟨0, 1, tag⟩, _, _⟩) rfl)

/-- A step is told by its effect, the units busy before it, and the reads and memory before it. -/
theorem stepWith_congr {errs : List MemErr} {f g : State → State} (effect : f { s with errs := errs } = g { t with errs := errs })
    (deposit : t.deposit = s.deposit) (service : t.service = s.service) (mem : t.mem = s.mem) : s.stepWith errs f = t.stepWith errs g := by
  have busy : ({ t with errs := errs } : State).depositBusy = ({ s with errs := errs } : State).depositBusy := by
    show Option.isSome _ = Option.isSome _
    rw [State.assembly, State.assembly, deposit]
  have serviced : ({ t with errs := errs } : State).serviceBusy = ({ s with errs := errs } : State).serviceBusy := congrArg Option.isSome service
  have reading : ({ t with errs := errs } : State).reading = ({ s with errs := errs } : State).reading := by
    unfold State.reading
    rw [service]
  unfold State.stepWith State.afterFlight State.noteMemory
  dsimp only
  rw [effect, busy, serviced, reading, mem]

/-- Settles O28. -/
theorem exposureOpenOfANewTag : Obligations.ExposureOpenOfANewTag := by
  intro l tag errs s k on
  refine ⟨fun no_current other absent => ?_, fun c current differs marker idle => ?_⟩
  · have by_table := openExposure_of_no_current (s := s.heard l errs) (l := l) (tag := tag) (by rw [unmark_link]; exact no_current)
      (by rw [unmark_link]; exact other)
    have cleared := cleared_links (s := s) (l := l) (errs := errs)
    have frame := cleared_touches (s := s) (l := l) (errs := errs)
    generalize (s.heard l errs).setNames l none none = u at by_table cleared frame
    have exposures : u.exposures = s.exposures := frame .exposures (by decide)
    have absent' : ∀ (p : Fin 4) (e : ExpEntry), u.exposures[p] = some e → e.tag ≠ tag := by rw [exposures]; exact absent
    refine ⟨fun p free lower => ?_, fun full => ?_⟩
    · intro made named
      rw [openByTable_of_free (p := p) (entryOf_eq_none absent') (State.freePlace_eq (by rw [exposures]; exact free) (by rw [exposures]; exact lower))]
        at by_table
      have placed : (u.setPlace p (some (newEntry l tag))).exposures = s.exposures.set p (some (newEntry l tag)) :=
        (setPlace_exposures _ _ _).trans (by rw [exposures])
      have place_touches := setPlace_touches u p (some (newEntry l tag))
      generalize u.setPlace p (some (newEntry l tag)) = v at by_table placed place_touches
      have name_touches := setNames_touches v l (some tag) none
      have links : (v.setNames l (some tag) none).links = named :=
        setNames_links_of ((place_touches .links (by decide)).trans cleared) (some tag) none
      have made_exposures : (v.setNames l (some tag) none).exposures = made .opened := (name_touches .exposures (by decide)).trans placed
      have touches : Touches [.links, .exposures, .mirror, .errs] s (v.setNames l (some tag) none) :=
        (frame.andThen place_touches : Touches [.errs, .links, .exposures, .mirror] _ _).andThen name_touches
      generalize v.setNames l (some tag) none = w at by_table links made_exposures touches
      have deposit : w.deposit = s.deposit := touches .deposit (by decide)
      refine ⟨fun not_waiting => ?_, fun o waiting same present none_ => ?_⟩
      · rw [tellMade_of_not_waiting (by rw [deposit]; exact not_waiting)] at by_table
        exact ⟨w, exec_exposureOpen on by_table (.of_frame touches), touches, made_exposures, links⟩
      · subst same
        have place : w.placeOf o.tag = some p := placeOf_made (e := newEntry l o.tag) absent made_exposures
        have here : w.exposures[p] = some (newEntry l o.tag) := by rw [made_exposures, places_getElem_set, if_pos rfl]; rfl
        have slots : w.slots = s.slots := touches .slots (by decide)
        have bound := bind_of_no_slots place here (by exact nofun) (by rw [slots]; exact none_)
          (present.imp fun seg in_map => ⟨in_map, by simp [newEntry]⟩)
        have assembling := mapEntry_exposures place here fun e => { e with state := .assembling }
        have map_touches := mapEntry_touches w o.tag fun e => { e with state := .assembling }
        rw [tellMade_of_waiting (deposit.trans waiting) rfl, bound] at by_table
        have all : Touches [.links, .exposures, .deposit, .mirror, .errs] s _ :=
          (touches.andThen map_touches : Touches [.links, .exposures, .mirror, .errs] _ _).andThen
            (touches_deposit (w.mapEntry o.tag fun e => { e with state := .assembling }) (.serving { o with turn := 0, current := none }))
        refine ⟨_, exec_exposureOpen on by_table ⟨?_, ?_, ?_⟩, all, ?_, ?_, rfl⟩
        · show true = Option.isSome _
          rw [State.assembly, waiting]
          rfl
        · exact congrArg Option.isSome (all .service (by decide))
        · exact all .mem (by decide)
        · show (w.mapEntry o.tag _).exposures = _
          rw [assembling, made_exposures]
          exact vector_set_set _ _ _ _
        · exact (map_touches .links (by decide)).trans links
    · rw [openByTable_of_full (entryOf_eq_none absent') (State.freePlace_eq_none (by rw [exposures]; exact full))] at by_table
      have touches : Touches [.links, .mirror, .alert, .messages, .errs] s (u.refuseOpen l tag .refused) :=
        frame.andThen (refuseOpen_touches (s := u) (l := l) (tag := tag) .refused)
      refine ⟨_, exec_exposureOpen on by_table (.of_frame touches), touches, refuseOpen_links cleared _, ?_⟩
      exact (refuseOpen_alert _).trans (by rw [frame .alert (by decide)])
  · have idle' : ∀ o, (s.heard l errs).deposit ≠ .serving o := idle
    have frame := closeFor_touches_of_not_serving (s := s.heard l errs) (l := l) (tag := c) idle'
    have touches : Touches [.errs, .links, .exposures, .slots, .mirror] s ((s.heard l errs).closeFor l c) := heard_touches.andThen frame
    have closes := closeExposure_of_current (s := s.heard l errs) (l := l) (tag := c) (by rw [unmark_link]; exact marker)
      (by rw [unmark_link]; exact current)
    have links := closeFor_links (s.heard l errs) l c
    rw [unmark_link] at links
    have link : ((s.heard l errs).closeFor l c).links[l] = { s.links[l] with current := none, endMark := false } := link_of_set links
    have same_open : (s.heard l errs).openExposure l tag = ((s.heard l errs).closeFor l c).openExposure l tag := by
      refine openExposure_congr ?_
      rw [clearWay_of_other (by rw [unmark_link]; exact current) differs, clearWay_of_no_current (by rw [link])]
    refine ⟨_, exec_exposureClose on closes (.of_frame touches), ?_⟩
    generalize (s.heard l errs).closeFor l c = u at touches links link same_open frame
    have heard : u.heard l errs = u := heard_of_unmarked (by rw [link]) (frame .errs (by decide))
    refine congrArg Host.Outcome.next (stepWith_congr ?_ (touches .deposit (by decide)) (touches .service (by decide)) (touches .mem (by decide)))
    rw [exposureOpen_arrives on, exposureOpen_arrives (by rw [link]; exact on), heard]
    exact same_open

/-! ### EXPOSURE_CLOSE (R52, R53) -/

/-- R53: a slot of the tag and the link once the link has closed, where none of them is LATE. -/
def Slot.closedFor (l : LinkNo) (tag : Tag) (sl : Slot) : Slot :=
  if sl.tag = tag ∧ sl.link = l ∧ sl.state = .filling then { sl with state := .complete, unterminated := true } else sl

theorem slots_set_self (n : SlotNo) : s.slots.set n s.slots[n] = s.slots := by simp

theorem closeSlot_of_not_late {n : SlotNo} (h : ∀ sl, s.slots[n] = some sl → sl.tag = tag → sl.link = l → sl.state ≠ .late) :
    State.closeSlot l tag s n = { s with slots := s.slots.set n ((s.slots[n]).map (Slot.closedFor l tag)) } := by
  have same {x : Option Slot} (here : s.slots[n] = x) (kept : x.map (Slot.closedFor l tag) = x) :
      s = { s with slots := s.slots.set n (x.map (Slot.closedFor l tag)) } := by
    rw [kept, ← here, slots_set_self]
  unfold State.closeSlot
  cases here : s.slots[n] with
  | none => exact same here rfl
  | some sl =>
    have kept_of (other : ¬ (sl.tag = tag ∧ sl.link = l ∧ sl.state = .filling)) : (some sl).map (Slot.closedFor l tag) = some sl :=
      congrArg some (if_neg other)
    dsimp only
    split
    · next mine =>
      split
      · next filling =>
        rw [setSlot_of_taken here]
        have closed : Slot.closedFor l tag sl = { sl with state := .complete, unterminated := true } := if_pos ⟨mine.1, mine.2, filling⟩
        rw [Option.map_some, closed]
      · next complete => exact same here (kept_of fun all => nomatch complete.symm.trans all.2.2)
      · next late => exact absurd late (h sl here mine.1 mine.2)
    · next other => exact same here (kept_of fun all => other ⟨all.1, all.2.1⟩)

theorem closedFor_closedFor (sl : Slot) : (sl.closedFor l tag).closedFor l tag = sl.closedFor l tag := by
  unfold Slot.closedFor
  by_cases mine : sl.tag = tag ∧ sl.link = l ∧ sl.state = .filling
  · rw [if_pos mine]
    exact if_neg fun again => nomatch again.2.2
  · rw [if_neg mine, if_neg mine]

/-- R53, step 1, where no slot of the tag and the link is LATE. -/
theorem closeSlots_slots (ns : List SlotNo)
    (h : ∀ (n : SlotNo) (sl : Slot), s.slots[n] = some sl → sl.tag = tag → sl.link = l → sl.state ≠ .late) :
    Touches [.slots] s (ns.foldl (State.closeSlot l tag) s)
    ∧ ∀ n : SlotNo, (ns.foldl (State.closeSlot l tag) s).slots[n] = if n ∈ ns then (s.slots[n]).map (Slot.closedFor l tag) else s.slots[n] := by
  induction ns generalizing s with
  | nil => exact ⟨Touches.refl _ s, fun n => rfl⟩
  | cons m ns ih =>
    have step := closeSlot_of_not_late (h m)
    rw [List.foldl_cons, step]
    have slots (n : SlotNo) : (s.slots.set m ((s.slots[m]).map (Slot.closedFor l tag)))[n]
        = if n = m then (s.slots[m]).map (Slot.closedFor l tag) else s.slots[n] := slots_getElem_set _ _ _ _
    obtain ⟨touches, each⟩ := ih (s := { s with slots := s.slots.set m ((s.slots[m]).map (Slot.closedFor l tag)) }) (by
      intro n sl here tags links
      have here := (slots n).symm.trans here
      split at here
      · obtain ⟨old, was, rfl⟩ := Option.map_eq_some_iff.mp here
        unfold Slot.closedFor at tags links ⊢
        split
        · exact nofun
        · next kept =>
          rw [if_neg kept] at tags links
          exact h m old was tags links
      · exact h n sl here tags links)
    refine ⟨(touches_slots s _).trans touches, fun n => (each n).trans ?_⟩
    rw [slots]
    by_cases at_ : n = m
    · subst at_
      rw [if_pos rfl, if_pos List.mem_cons_self, Option.map_map]
      split
      · exact congrArg (fun f => (s.slots[n]).map f) (funext closedFor_closedFor)
      · rfl
    · rw [if_neg at_]
      simp only [List.mem_cons, at_, false_or]

/-- Settles O30. -/
theorem exposureCloseOnALink : Obligations.ExposureCloseOnALink := by
  intro l tag errs s k on
  have link := unmark_link (s := { s with errs := errs }) (l := l)
  refine ⟨fun marker => ?_, fun marker current => ?_, fun marker current idle no_late p e place here => ?_⟩
  · have effect : (s.heard l errs).closeExposure l tag
        = ((s.heard l errs).count l .refused 1).setNames l (s.heard l errs).links[l].current none := by
      unfold State.closeExposure
      rw [if_pos (by rw [link]; exact marker)]
    have touches : Touches [.links, .mirror, .errs] s (((s.heard l errs).count l .refused 1).setNames l (s.heard l errs).links[l].current none) :=
      (heard_touches.andThen (count_touches _ _ _ _) : Touches [.errs, .links, .mirror] _ _).andThen (setNames_touches _ _ _ _)
    refine ⟨_, exec_exposureClose on effect (.of_frame touches), touches, ?_⟩
    rw [link]
    exact setNames_links_of (count_links_of unmark_links _) _ _
  · have effect : (s.heard l errs).closeExposure l tag = s.heard l errs := by
      unfold State.closeExposure
      rw [if_neg (by rw [link]; exact marker), if_neg (by rw [link]; exact current)]
    exact exec_exposureClose on effect (.of_frame (heard_touches (errs := errs)))
  · have closes := closeExposure_of_current (s := s.heard l errs) (l := l) (tag := tag) (by rw [link]; exact marker) (by rw [link]; exact current)
    have not_serving : ∀ o, (s.heard l errs).deposit ≠ .serving o := by
      show ∀ o, s.deposit ≠ .serving o
      rw [idle]
      exact nofun
    have entry : (s.heard l errs).entryOf tag = some e := entryOf_of_place (s := s.heard l errs) place here
    have links := closeFor_links (s.heard l errs) l tag
    rw [closeFor_of_not_serving not_serving, entry, if_pos (show (some e).isSome = true from rfl)] at closes links
    have touches : Touches [.links, .exposures, .slots, .mirror, .errs] s ((s.heard l errs).closed l tag) := heard_touches.andThen closed_touches
    obtain ⟨fold_touches, slots⟩ := closeSlots_slots (s := s.heard l errs) (List.finRange 128) no_late
    refine ⟨_, exec_exposureClose on closes (.of_frame touches), touches, ?_, ?_, fun n => ?_⟩
    · rw [links, link]
      exact Vector.set_set ..
    · unfold State.closed
      dsimp only
      rw [setNames_touches _ _ _ _ .exposures (by decide)]
      generalize (List.finRange 128).foldl (State.closeSlot l tag) (s.heard l errs) = u at fold_touches
      have exposures : u.exposures = s.exposures := fold_touches .exposures (by decide)
      rw [mapEntry_exposures ((placeOf_congr exposures).trans place) (by rw [exposures]; exact here), exposures]
      rfl
    · unfold State.closed
      dsimp only
      rw [setNames_touches _ _ _ _ .slots (by decide), mapEntry_touches _ _ _ .slots (by decide), slots n, if_pos (List.mem_finRange n)]
      rfl

end Sys2Proof.Machine
end

section
/-! SEGMENT_BEGIN, ROW and SEGMENT_END at the tile pool (R57 to R66; O31, O32, O33). -/

-- One theorem at a time: the threads of a parallel elaboration reserve more memory than the check allows.
set_option Elab.async false

namespace Sys2Proof.Machine

variable {s t : State} {l : LinkNo} {tag : Tag}

/-- A counter of the link of a packet, upon the end-mark state cleared. -/
theorem heard_count {errs : List MemErr} (c : LinkCounter) : Touches [.links, .mirror, .errs] s ((s.heard l errs).count l c 1)
    ∧ ((s.heard l errs).count l c 1).links = s.links.set l (({ s.links[l] with endMark := false } : Link).counted c) :=
  ⟨heard_touches.andThen (count_touches _ l c 1), count_links_of unmark_links c⟩

/-! ### SEGMENT_BEGIN (R59 to R61) -/

/-- R59: the segment of the stream is accepted for a new slot. -/
theorem beginSegment_of_unsettled {g : StreamEntry} {n : Nat} {e : ExpEntry} (refused : s.links[l].refused = none)
    (current : s.links[l].current = some tag) (entry : s.entryOf tag = some e) (arriving : e.state ≠ .assembled)
    (unsettled : e.outcomes[g.seg] = .unsettled) :
    s.beginSegment l g n = match s.slotIn tag g.seg [.filling, .complete] with
      | some old => s.restartSlot l old (newSlot l tag g n)
      | none => s.takeSlot l (newSlot l tag g n) := by
  unfold State.beginSegment
  rw [refused, if_neg (by decide), current]
  dsimp only
  rw [entry]
  dsimp only
  rw [if_neg (not_or.mpr ⟨arriving, not_not.mpr unsettled⟩)] <;> rfl

theorem beginSegment_of_settled {g : StreamEntry} {n : Nat} {e : ExpEntry} (refused : s.links[l].refused = none)
    (current : s.links[l].current = some tag) (entry : s.entryOf tag = some e) (settled : e.outcomes[g.seg] ≠ .unsettled) :
    s.beginSegment l g n = s.count l .refused 1 := by
  unfold State.beginSegment
  rw [refused, if_neg (by decide), current]
  dsimp only
  rw [entry]
  dsimp only
  rw [if_pos (.inr settled)]

/-- R59: the lowest FREE slot is taken, for an entry that no order serves. -/
theorem takeSlot_of_free {new : Slot} {n : SlotNo} {p : Fin 4} {e : ExpEntry} (free : s.freeSlot = some n) (place : s.placeOf new.tag = some p)
    (here : s.exposures[p] = some e) (unbound : e.state ≠ .assembling) :
    s.takeSlot l new = (s.setSlot n (some new)).mapEntry new.tag fun e => { e with held := e.held + 1 } := by
  have exposures : (s.setSlot n (some new)).exposures = s.exposures := setSlot_touches _ _ _ .exposures (by decide)
  have place' : (s.setSlot n (some new)).placeOf new.tag = some p := (placeOf_congr exposures).trans place
  have here' : (s.setSlot n (some new)).exposures[p] = some e := by rw [exposures]; exact here
  obtain ⟨-, -, entry⟩ := place_after_set place' here' (mapEntry_exposures place' here' fun e => { e with held := e.held + 1 }) rfl
  unfold State.takeSlot
  rw [free]
  dsimp only
  rw [entry]
  exact if_neg unbound

/-- What a slot taken leaves: the slot, its entry with one slot more, and nothing else. -/
theorem takeSlot_spec {new : Slot} {n : SlotNo} {p : Fin 4} {e : ExpEntry} (free : s.freeSlot = some n) (place : s.placeOf new.tag = some p)
    (here : s.exposures[p] = some e) (unbound : e.state ≠ .assembling) :
    Touches [.exposures, .slots, .mirror] s (s.takeSlot l new) ∧ (s.takeSlot l new).slots = s.slots.set n (some new)
      ∧ (s.takeSlot l new).exposures = s.exposures.set p (some { e with held := e.held + 1 }) := by
  have exposures : (s.setSlot n (some new)).exposures = s.exposures := setSlot_touches _ _ _ .exposures (by decide)
  rw [takeSlot_of_free free place here unbound]
  refine ⟨(setSlot_touches s n (some new)).andThen (mapEntry_touches _ _ _), ?_, ?_⟩
  · rw [mapEntry_touches _ _ _ .slots (by decide), setSlot_slots]
  · rw [mapEntry_exposures ((placeOf_congr exposures).trans place) (by rw [exposures]; exact here), exposures]

theorem takeSlot_of_full {new : Slot} (full : s.freeSlot = none) : s.takeSlot l new = (s.count l .noRoom 1).raise .receive := by
  unfold State.takeSlot
  rw [full]

/-- Once a slot is free, the lowest FREE one is it or lies below it. -/
theorem freeSlot_after_free {old : SlotNo} (freed : t.slots = s.slots.set old none) :
    ∃ n, t.freeSlot = some n ∧ (n = old ∨ n < old ∧ s.slots[n] = none) ∧ ∀ m : SlotNo, m < n → s.slots[m] ≠ none := by
  have at_ (m : SlotNo) : t.slots[m] = if m = old then none else s.slots[m] := by rw [freed, slots_getElem_set]
  cases found : t.freeSlot with
  | none =>
    have taken := List.find?_eq_none.mp found old (List.mem_finRange old)
    rw [at_, if_pos rfl] at taken
    exact absurd rfl taken
  | some n =>
    have free := State.freeSlot_some found
    have lowest {m : SlotNo} (hm : m < n) : t.slots[m] ≠ none := State.freeSlot_lower found hm
    have not_above : ¬ old < n := fun above => lowest above (by rw [at_, if_pos rfl])
    refine ⟨n, rfl, ?_, fun m hm => ?_⟩
    · by_cases same : n = old
      · exact .inl same
      · rw [at_, if_neg same] at free
        exact .inr ⟨lt_of_le_of_ne (not_lt.mp not_above) same, free⟩
    · have := lowest hm
      rwa [at_, if_neg (show ¬ m = old from fun same => not_above (same ▸ hm))] at this

/-- Settles O31. -/
theorem segmentBeginTakesASlot : Obligations.SegmentBeginTakesASlot := by
  intro l x v errs s st g tag p e k unmarked new on settings stream refused current place here state
  have enabled : s.streamOf l x = some g := (streamOf_eq settings).trans stream
  have not_assembled : e.state ≠ .assembled := by rcases state with h | h <;> rw [h] <;> exact nofun
  have unbound : e.state ≠ .assembling := by rcases state with h | h <;> rw [h] <;> exact nofun
  have not_discarded : e.state ≠ .discarded := by rcases state with h | h <;> rw [h] <;> exact nofun
  have link : (s.heard l errs).links[l] = unmarked := unmark_link (s := { s with errs := errs })
  have begins := beginSegment_of_unsettled (s := s.heard l errs) (l := l) (g := g) (n := v.toNat) (e := e) (tag := tag)
    (by rw [link]; exact refused) (by rw [link]; exact current) (entryOf_of_place (s := s.heard l errs) place here) not_assembled
  refine ⟨fun unsettled no_slot => ⟨fun n free lower => ?_, fun full => ?_⟩, fun unsettled pos old sl found slot => ?_, fun settled => ?_⟩
  · have effect := begins unsettled
    rw [show (s.heard l errs).slotIn tag g.seg _ = none from no_slot] at effect
    obtain ⟨touches, slots, exposures⟩ := takeSlot_spec (s := s.heard l errs) (l := l) (new := newSlot l tag g v.toNat) (n := n) (p := p) (e := e)
      (State.freeSlot_eq (s := s.heard l errs) free lower) place here unbound
    have all : Touches [.links, .exposures, .slots, .mirror, .errs] s _ := heard_touches.andThen touches
    exact ⟨_, exec_segmentBegin on enabled effect (.of_frame all), all, slots, exposures, touches .links (by decide)⟩
  · have effect := begins unsettled
    rw [show (s.heard l errs).slotIn tag g.seg _ = none from no_slot] at effect
    dsimp only at effect
    rw [takeSlot_of_full (s := s.heard l errs) (State.freeSlot_eq_none (s := s.heard l errs) full)] at effect
    obtain ⟨touches, links⟩ := heard_count (s := s) (l := l) (errs := errs) .noRoom
    generalize (s.heard l errs).count l .noRoom 1 = u at effect touches links
    have raised := raise_touches u .receive
    have all : Touches [.links, .mirror, .alert, .messages, .errs] s (u.raise .receive) := touches.andThen raised
    refine ⟨_, exec_segmentBegin on enabled effect (.of_frame all), all, (raised .links (by decide)).trans links, ?_⟩
    rw [raise_receive_alert, touches .alert (by decide)]
  · have effect := begins unsettled
    rw [show (s.heard l errs).slotIn tag g.seg _ = some old from found] at effect
    dsimp only at effect
    unfold State.restartSlot at effect
    rw [show (s.heard l errs).slots[old] = some sl from slot] at effect
    dsimp only at effect
    obtain ⟨touches, links⟩ := heard_count (s := s) (l := l) (errs := errs) .restarts
    generalize (s.heard l errs).count l .restarts 1 = u at effect touches links
    have u_slots : u.slots = s.slots := touches .slots (by decide)
    have u_exposures : u.exposures = s.exposures := touches .exposures (by decide)
    obtain ⟨sl', slot', tags, -, -⟩ := State.slotIn_some found
    obtain rfl : sl' = sl := Option.some.inj (slot'.symm.trans slot)
    have u_slot : u.slots[old] = some sl' := by rw [u_slots]; exact slot
    have u_place : u.placeOf sl'.tag = some p := by rw [placeOf_congr u_exposures, tags]; exact place
    have u_here : u.exposures[p] = some e := by rw [u_exposures]; exact here
    have freed := freeSlotAs_touches u .restart old
    have freed_slots := freeSlotAs_slots u .restart old sl' u_slot
    have freed_exposures := freeSlotAs_exposures .restart u_slot u_place u_here
    rw [if_neg (not_or.mpr ⟨fun h => not_assembled h.1, not_discarded⟩)] at freed_exposures
    obtain ⟨w_place, w_here, -⟩ := place_after_set u_place u_here freed_exposures rfl
    obtain ⟨n, free, where_, lower⟩ := freeSlot_after_free freed_slots
    generalize u.freeSlotAs .restart old = w at effect freed freed_slots freed_exposures w_place w_here free
    obtain ⟨taken, slots, exposures⟩ := takeSlot_spec (l := l) (new := { newSlot l tag g v.toNat with cursor := sl'.cursor, restarted := true }) free
      (tags ▸ w_place) w_here unbound
    have all : Touches [.links, .exposures, .slots, .mirror, .errs] s _ :=
      (touches.andThen freed : Touches [.links, .mirror, .errs, .exposures, .slots] _ _).andThen taken
    refine ⟨n, _, exec_segmentBegin on enabled effect (.of_frame all), all, ?_, ?_, ?_, ?_, ?_⟩
    · rwa [u_slots] at where_
    · rwa [u_slots] at lower
    · rw [slots, freed_slots, u_slots]
      rfl
    · rw [exposures, freed_exposures, u_exposures]
      refine (vector_set_set _ _ _ _).trans ?_
      rw [show e.held - 1 + 1 = e.held by omega]
    · rw [taken .links (by decide), freed .links (by decide)]
      exact links
  · have effect := beginSegment_of_settled (s := s.heard l errs) (l := l) (g := g) (n := v.toNat) (e := e) (tag := tag)
      (by rw [link]; exact refused) (by rw [link]; exact current) (entryOf_of_place (s := s.heard l errs) place here) settled
    obtain ⟨touches, links⟩ := heard_count (s := s) (l := l) (errs := errs) .refused
    exact ⟨_, exec_segmentBegin on enabled effect (.of_frame touches), touches, links⟩

/-! ### ROW (R44, R45, R57, R62) -/

section Row
variable {seg : SegNo} {rowLen r : Nat} {samples : List Nat} (refused : s.links[l].refused = none)
include refused

theorem storeRow_of_no_current (current : s.links[l].current = none) : s.storeRow l seg rowLen r samples = s.count l .strayRows 1 := by
  unfold State.storeRow
  rw [refused, if_neg (by decide), current]

variable (current : s.links[l].current = some tag)
include current

theorem storeRow_of_no_slot (no_slot : s.slotIn tag seg [.filling] = none) : s.storeRow l seg rowLen r samples = s.count l .strayRows 1 := by
  unfold State.storeRow
  rw [refused, if_neg (by decide), current]
  dsimp only
  rw [no_slot]

/-- R62: the rows that a FILLING slot does not take. -/
def Slot.strays (sl : Slot) (r : Nat) : Prop := sl.expected ≤ r ∨ ∃ h, sl.rows.getLast? = some h ∧ r ≤ h

theorem storeRow_of_slot {n : SlotNo} {sl : Slot} (found : s.slotIn tag seg [.filling] = some n) (slot : s.slots[n] = some sl) :
    (sl.rowLen ≠ rowLen → s.storeRow l seg rowLen r samples = s.count l .lengthErrors 1)
    ∧ (sl.rowLen = rowLen → sl.strays r → s.storeRow l seg rowLen r samples = s.count l .strayRows 1)
    ∧ (sl.rowLen = rowLen → ¬ sl.strays r → s.storeRow l seg rowLen r samples
      = ({ s with mem := Memory.writeBytes s.mem (rowOff n r) (sampleBytes samples) } : State).setSlot n (some { sl with rows := sl.rows ++ [r] })) := by
  have not_above : (match sl.highest with
      | some h => decide (r ≤ h)
      | none => false) = true ↔ ∃ h, sl.rows.getLast? = some h ∧ r ≤ h := by
    unfold Slot.highest
    cases sl.rows.getLast? <;> simp
  unfold State.storeRow Slot.strays
  rw [refused, if_neg (by decide), current]
  dsimp only
  rw [found]
  dsimp only
  rw [slot]
  dsimp only
  refine ⟨fun other => if_pos other, fun fits strays => (if_neg (not_not.mpr fits)).trans ?_, fun fits stored => (if_neg (not_not.mpr fits)).trans
    ((if_neg fun h => stored (.inl h)).trans (if_neg fun h => stored (.inr (not_above.mp h))))⟩
  by_cases beyond : sl.expected ≤ r
  · exact if_pos beyond
  · exact (if_neg beyond).trans (if_pos (not_above.mpr (strays.resolve_left beyond)))

end Row

/-- Settles O32. -/
theorem rowIsStoredOrStray : Obligations.RowIsStoredOrStray := by
  intro l x index samples s st g k unmarked stray on settings stream length refused
  have enabled : s.streamOf l x = some g := (streamOf_eq settings).trans stream
  have link : (s.unmark l).links[l] = unmarked := unmark_link
  have refused' : (s.unmark l).links[l].refused = none := by rw [link]; exact refused
  have exec_eq := exec_row_of_length (v := index) on enabled length
  have counts (c : LinkCounter) : Touches [.links, .mirror] s ((s.unmark l).count l c 1)
      ∧ ((s.unmark l).count l c 1).links = s.links.set l (unmarked.counted c) :=
    ⟨unmark_touches.andThen (count_touches _ l c 1), count_links_of unmark_links c⟩
  have stray_of (h : (s.unmark l).storeRow l g.seg g.rowLen index.toNat (samples.map BitVec.toNat) = (s.unmark l).count l .strayRows 1) : stray :=
    ⟨_, exec_eq.trans (congrArg Host.Outcome.next h), counts .strayRows⟩
  refine ⟨fun no_current => stray_of ?_, fun tag current => ⟨fun no_slot => stray_of ?_, fun n sl found slot => ?_⟩⟩
  · exact storeRow_of_no_current refused' (by rw [link]; exact no_current)
  · exact storeRow_of_no_slot refused' (tag := tag) (by rw [link]; exact current) no_slot
  obtain ⟨wrong, strays, stored⟩ := storeRow_of_slot refused' (tag := tag) (by rw [link]; exact current) (seg := g.seg) (rowLen := g.rowLen)
    (r := index.toNat) (samples := samples.map BitVec.toNat) (n := n) (sl := sl) found slot
  refine ⟨fun fits where_ => stray_of (strays fits where_), fun other => ⟨_, exec_eq.trans (congrArg Host.Outcome.next (wrong other)),
    counts .lengthErrors⟩, fun fits below above expected rowLen => ?_⟩
  intro off
  have effect := stored fits (by
    rintro (beyond | ⟨h, last, behind⟩)
    · omega
    · have := above h last
      omega)
  have bytes : sampleBytes (samples.map BitVec.toNat) = samples.flatMap fun y => leBytes 2 y.toNat := List.flatMap_map ..
  have place : rowOff n index.toNat = off := rfl
  rw [setSlot_of_taken (s := { s.unmark l with mem := Memory.writeBytes (s.unmark l).mem (rowOff n index.toNat) (sampleBytes _) }) slot,
    bytes, place] at effect
  have size : (samples.flatMap fun y => leBytes 2 y.toNat).length = 2 * samples.length := flatMap_leBytes_length 2 _ _
  have inside : off + 2 * samples.length ≤ Config.memSize := by
    have pool : Config.memSize = 17179869184 := rfl
    have := n.isLt
    show 0x3D8000000 + n.val * 4587520 + index.toNat * 2240 + 2 * samples.length ≤ _
    omega
  refine ⟨_, exec_eq.trans (congrArg Host.Outcome.next effect), ?_, rfl, rfl, fun a ha => ?_, fun i y here => ?_⟩
  · exact ((unmark_touches.andThen (touches_mem _ _) : Touches [.links, .mem] _ _).andThen (touches_slots _ _))
  · exact Memory.read_writeBytes_outside _ _ _ _ (by rw [size]; exact ha)
  · obtain ⟨hi, rfl⟩ := List.getElem?_eq_some_iff.mp here
    refine (readNat_flatMap_leBytes (n := 2) (f := BitVec.toNat) s.mem hi inside).trans ?_
    exact Nat.mod_eq_of_lt samples[i].isLt

/-! ### SEGMENT_END (R64) -/

section End
variable {seg : SegNo} {k : Nat} (refused : s.links[l].refused = none)
include refused

theorem endSegment_of_no_current (current : s.links[l].current = none) : s.endSegment l seg k = s := by
  unfold State.endSegment
  rw [refused, if_neg (by decide), current]

variable (current : s.links[l].current = some tag)
include current

theorem endSegment_of_no_slot (no_slot : s.slotOf tag seg = none) : s.endSegment l seg k = s := by
  unfold State.endSegment
  rw [refused, if_neg (by decide), current]
  dsimp only
  rw [no_slot]

variable {n : SlotNo} {sl : Slot} (found : s.slotOf tag seg = some n) (slot : s.slots[n] = some sl)
include found slot

theorem endSegment_of_complete (complete : sl.state = .complete) : s.endSegment l seg k = s := by
  unfold State.endSegment
  rw [refused, if_neg (by decide), current]
  dsimp only
  rw [found]
  dsimp only
  rw [slot]
  dsimp only
  rw [complete]

theorem endSegment_of_filling (filling : sl.state = .filling) : s.endSegment l seg k
    = ({ s with slots := s.slots.set n (some { sl with state := .complete, sent := some k, unterminated := false }) } : State).tellComplete tag [n] := by
  rw [← setSlot_of_taken slot]
  unfold State.endSegment
  rw [refused, if_neg (by decide), current]
  dsimp only
  rw [found]
  dsimp only
  rw [slot]
  dsimp only
  rw [filling]

/-- A slot with the rows sent recorded. -/
def State.sentSlot (n : SlotNo) (sl : Slot) (k : Nat) (s : State) : State := { s with slots := s.slots.set n (some { sl with sent := some k }) }

theorem endSegment_of_late (late : sl.state = .late) : s.endSegment l seg k = (s.sentSlot n sl k).freeSlotAs .late n := by
  have marks : s.setSlot n (some { sl with sent := some k }) = s.sentSlot n sl k := setSlot_of_taken slot _
  rw [← marks]
  unfold State.endSegment
  rw [refused, if_neg (by decide), current]
  dsimp only
  rw [found]
  dsimp only
  rw [slot]
  dsimp only
  rw [late]

end End

theorem slotOf_some {seg : SegNo} {n : SlotNo} (h : s.slotOf tag seg = some n) : ∃ sl, s.slots[n] = some sl ∧ sl.tag = tag ∧ sl.seg = seg := by
  obtain ⟨sl, here, test⟩ := State.findSlot_some h
  simp only [Bool.and_eq_true, decide_eq_true_eq] at test
  exact ⟨sl, here, test⟩

/-- Settles O33. -/
theorem segmentEndOfASlot : Obligations.SegmentEndOfASlot := by
  intro l x sent errs s st g k unmarked on settings stream refused
  have enabled : s.streamOf l x = some g := (streamOf_eq settings).trans stream
  have link : (s.heard l errs).links[l] = unmarked := unmark_link (s := { s with errs := errs })
  have refused' : (s.heard l errs).links[l].refused = none := by rw [link]; exact refused
  have unchanged (effect : (s.heard l errs).endSegment l g.seg sent.toNat = s.heard l errs) :
      exec (.segmentEnd l x sent errs) s = .next { s with errs := errs, links := s.links.set l unmarked } :=
    exec_segmentEnd on enabled effect (.of_frame (heard_touches (errs := errs)))
  refine ⟨fun no_current => unchanged (endSegment_of_no_current refused' (by rw [link]; exact no_current)), fun tag current => ?_⟩
  have current' : (s.heard l errs).links[l].current = some tag := by rw [link]; exact current
  refine ⟨fun no_slot => unchanged (endSegment_of_no_slot refused' current' no_slot), fun n sl found slot => ?_⟩
  obtain ⟨sl', slot', tags, segs⟩ := slotOf_some found
  obtain rfl : sl' = sl := Option.some.inj (slot'.symm.trans slot)
  refine ⟨fun complete => unchanged (endSegment_of_complete refused' current' found slot complete), fun filling idle => ?_, fun late => ?_,
    fun late p e place here assembled => ?_⟩
  · have ends := endSegment_of_filling (k := sent.toNat) refused' current' found slot filling
    rw [tellComplete_of_not_serving (by show ∀ o, s.deposit ≠ _; rw [idle]; exact nofun)] at ends
    have all (slots : Vector (Option Slot) 128) : Touches [.errs, .links, .slots] s { s.heard l errs with slots := slots } :=
      heard_touches.andThen (touches_slots (s.heard l errs) slots)
    exact exec_segmentEnd on enabled ends (.of_frame (all _))
  all_goals
    have ends := endSegment_of_late (k := sent.toNat) refused' current' found slot late
    have marked : Touches [.errs, .links, .slots] s ((s.heard l errs).sentSlot n sl' sent.toNat) := heard_touches.andThen (touches_slots _ _)
    have links : ((s.heard l errs).sentSlot n sl' sent.toNat).links = s.links.set l unmarked := rfl
    have slots : ((s.heard l errs).sentSlot n sl' sent.toNat).slots = s.slots.set n (some { sl' with sent := some sent.toNat }) := rfl
    generalize (s.heard l errs).sentSlot n sl' sent.toNat = u at ends marked links slots
    have at_ : u.slots[n] = some { sl' with sent := some sent.toNat } := by rw [slots, slots_getElem_set, if_pos rfl]
    have freed := freeSlotAs_touches u .late n
    have exposures : u.exposures = s.exposures := marked .exposures (by decide)
    have all : Touches [.links, .exposures, .slots, .mirror, .errs] s (u.freeSlotAs .late n) := marked.andThen freed
    have entry {p : Fin 4} {e : ExpEntry} (place : s.placeOf tag = some p) (here : s.exposures[p] = some e) :=
      freeSlotAs_exposures .late at_ (p := p) (e := e) (by rw [placeOf_congr exposures, tags]; exact place) (by rw [exposures]; exact here)
    have step := exec_segmentEnd on enabled ends (.of_frame all)
  · refine ⟨_, step, all, ?_, ?_, ⟨_, freeSlotAs_reports .late at_, ?_, rfl⟩, fun p e place here state => ?_⟩
    · rw [freed .links (by decide), links]
    · rw [freeSlotAs_slots u .late n _ at_, slots]
      exact Vector.set_set ..
    · rw [← segs]
      rfl
    · rw [entry place here, if_neg, exposures]
      rintro (⟨assembled, -⟩ | discarded)
      · rcases state with h | h | h <;> exact nomatch h.symm.trans assembled
      · rcases state with h | h | h <;> exact nomatch h.symm.trans discarded
  · refine ⟨_, step, ?_⟩
    rw [entry place here, exposures]
    by_cases last : e.held ≤ 1
    · rw [if_pos last, if_pos (.inl ⟨assembled, by show e.held - 1 = 0; omega⟩)]
    · rw [if_neg last, if_neg]
      rintro (⟨-, none_held⟩ | discarded)
      · exact last (by have : e.held - 1 = 0 := none_held; omega)
      · exact nomatch assembled.symm.trans discarded

end Sys2Proof.Machine
end

section
/-! Pixel calibration (R80 to R89; O38) and the accumulator record (R114, R179, R180; O41). -/

-- One theorem at a time: the threads of a parallel elaboration reserve more memory than the check allows.
set_option Elab.async false

namespace Sys2Proof.Machine

variable {s t : State}

/-! ### The stages of a calibrated value -/

theorem sum_take_drop (l : List Nat) (k n : Nat) : ((l.drop k).take n).sum = ((List.range n).map fun i => l.getD (k + i) 0).sum := by
  induction n generalizing k with
  | zero => simp
  | succ n ih =>
    rw [List.range_succ_eq_map, List.map_cons, List.sum_cons, List.map_map]
    have rest : ((l.drop (k + 1)).take n).sum = ((List.range n).map ((fun i => l.getD (k + i) 0) ∘ Nat.succ)).sum := by
      rw [ih]
      simp only [Function.comp_def, Nat.succ_eq_add_one, Nat.add_assoc, Nat.add_comm 1]
    rw [← rest]
    by_cases inside : k < l.length
    · rw [List.drop_eq_getElem_cons inside, List.take_succ_cons, List.sum_cons, ← List.getD_eq_getElem l 0 inside]
      rfl
    · rw [List.drop_of_length_le (by omega), List.drop_of_length_le (by omega), List.getD_eq_default _ _ (by omega)]
      simp

theorem linearityIndex_eq (S : Int) : linearityIndex S = if S < 0 then 0 else if 65535 < S then 1023 else S.toNat / 64 := by
  unfold linearityIndex
  split
  · next negative => rw [max_eq_right negative.le]; rfl
  · next not_negative =>
    rw [max_eq_left (not_lt.mp not_negative)]
    split
    · next above => rw [min_eq_right above.le]; rfl
    · next inside => rw [min_eq_left (not_lt.mp inside)]

theorem clampStage_eq (V : Int) : clampStage V = if V.natAbs ≤ 268435455 then (V, false) else (if V < 0 then -268435455 else 268435455, true) := by
  unfold clampStage valueMax
  by_cases inside : V.natAbs ≤ 268435455
  · rw [if_pos inside, if_neg (by omega), if_neg (by omega)]
  · rw [if_neg inside]
    by_cases negative : V < 0
    · rw [if_neg (by omega), if_pos (by omega), if_pos negative]
    · rw [if_pos (by omega), if_neg negative]

theorem covers_iff {d : Defect} {seg : SegNo} {x y : Nat} : d.covers seg x y = true
    ↔ d.seg = seg.val ∧ (d.firstCol ≤ x ∧ x ≤ d.lastCol) ∧ (d.firstRow ≤ y ∧ y ≤ d.lastRow) := by
  simp only [Defect.covers, Bool.and_eq_true, decide_eq_true_eq, and_assoc]

section Outcome
variable {amp : Amp} {defects : List Defect} {seg : SegNo} {e : SegEntry} {r : RowData} {x y : Nat}

theorem pixelOutcome_of_saturated (h : amp.sat ≤ r.samples.getD (e.prescan + x) 0) : pixelOutcome amp defects seg e r x y = .saturated := if_pos h

theorem bad_iff : (defects.any (fun d => d.covers seg x y) || rowFlat r x == 0) = true
    ↔ rowFlat r x = 0 ∨ ∃ d ∈ defects, d.seg = seg.val ∧ (d.firstCol ≤ x ∧ x ≤ d.lastCol) ∧ (d.firstRow ≤ y ∧ y ≤ d.lastRow) := by
  rw [Bool.or_eq_true, List.any_eq_true, beq_iff_eq, or_comm]
  simp only [covers_iff]

variable (h : r.samples.getD (e.prescan + x) 0 < amp.sat)
include h

theorem pixelOutcome_of_bad (bad : (defects.any (fun d => d.covers seg x y) || rowFlat r x == 0) = true) :
    pixelOutcome amp defects seg e r x y = .bad := by
  unfold pixelOutcome
  dsimp only
  rw [if_neg (Nat.not_le.mpr h), if_pos bad]

theorem pixelOutcome_of_good (good : ¬ (defects.any (fun d => d.covers seg x y) || rowFlat r x == 0) = true) :
    pixelOutcome amp defects seg e r x y
      = .deposit (calibratedValue (r.samples.getD (e.prescan + x) 0) (rowBias amp e r x) amp.gain r.lut (rowFlat r x)).1
        (calibratedValue (r.samples.getD (e.prescan + x) 0) (rowBias amp e r x) amp.gain r.lut (rowFlat r x)).2 := by
  unfold pixelOutcome
  dsimp only
  rw [if_neg (Nat.not_le.mpr h), if_neg good]

end Outcome

/-- Settles O38. -/
theorem pixelOutcomeAndCalibratedValue : Obligations.PixelOutcomeAndCalibratedValue := by
  intro amp defects seg e r x y D F bad B S L V
  have bias : rowBias amp e r x = B := by
    show _ = (match amp.mode with | .overscan => _ | .fixed => _ | .plane => _ : Nat)
    unfold rowBias
    cases amp.mode with
    | overscan =>
      show overscanMean _ _ = _
      rw [sum_take_drop, overscanMean]
      simp only [Nat.add_assoc]
    | fixed => rfl
    | plane =>
      show (r.bias.getD []).getD x 0 = _
      cases r.bias <;> rfl
  have flat : rowFlat r x = F := rfl
  refine ⟨pixelOutcome_of_saturated, fun below is_bad => pixelOutcome_of_bad below (bad_iff.mpr is_bad), fun below good => ?_⟩
  rw [pixelOutcome_of_good below fun h => good (bad_iff.mp h), bias, flat]
  have value : calibratedValue D B amp.gain r.lut F = clampStage V := by
    unfold calibratedValue gainStage linearityStage flatStage
    dsimp only
    rw [linearityIndex_eq]
  rw [value, clampStage_eq]
  split <;> rfl

/-! ### The accumulator record -/

/-- A field within a run of bytes. -/
theorem readNat_of_split {m : List Host.Cell} {off i n v : Nat} {bs before after : List Byte} (split : bs = before ++ (leBytes n v ++ after))
    (at_ : before.length = i) (fits : off + bs.length ≤ Config.memSize) (small : v < 256 ^ n) :
    Memory.readNat (Memory.writeBytes m off bs) (off + i) n = v := by
  have size := leBytes_length n v
  rw [Memory.readNat_writeBytes _ _ _ _ _ (by rw [split]; simp only [List.length_append]; omega) fits, split, List.drop_left' at_, List.take_left' size,
    leNat_leBytes, Nat.mod_eq_of_lt small]

theorem stored_lt (w : Nat) (x : Int) : stored w x < 2 ^ w := by
  have nonneg := Int.emod_nonneg x (b := 2 ^ w) (by positivity)
  have below := Int.emod_lt_of_pos x (b := 2 ^ w) (by positivity)
  unfold stored
  rw [Int.toNat_lt nonneg]
  exact_mod_cast below

theorem signed_stored {w : Nat} (pos : 0 < w) {x : Int} (low : -2 ^ (w - 1) ≤ x) (high : x < 2 ^ (w - 1)) : signed w (stored w x) = x := by
  obtain ⟨k, rfl⟩ := Nat.exists_eq_add_of_lt pos
  simp only [Nat.zero_add, Nat.add_sub_cancel] at low high
  have double : (2 : Int) ^ (k + 1) = 2 * 2 ^ k := by rw [pow_succ, mul_comm]
  have nonneg := Int.emod_nonneg x (b := 2 ^ (k + 1)) (by positivity)
  have value : ((stored (k + 1) x : Nat) : Int) = x % 2 ^ (k + 1) := Int.toNat_of_nonneg nonneg
  unfold signed
  rw [Nat.zero_add, Nat.add_sub_cancel]
  by_cases negative : x < 0
  · have wraps : x % 2 ^ (k + 1) = x + 2 ^ (k + 1) := by
      rw [← Int.add_emod_right, Int.emod_eq_of_lt (by omega) (by omega)]
    rw [if_neg, value, wraps]
    · omega
    · rw [Nat.not_lt]
      zify
      rw [value, wraps]
      omega
  · have stays : x % 2 ^ (k + 1) = x := Int.emod_eq_of_lt (by omega) (by omega)
    rw [if_pos, value, stays]
    zify
    rw [value, stays]
    exact high

theorem bytes_length (r : AccRecord) : r.bytes.length = 24 := by
  simp only [AccRecord.bytes, List.length_append, leBytes_length]

/-- R179, R180: a record in the ranges of its fields reads back as it was written. -/
theorem readRecord_writeBytes {r : AccRecord} (range : r.InRange) (m : List Host.Cell) {off : Nat} (fits : off + 24 ≤ Config.memSize) :
    readRecord (Memory.writeBytes m off r.bytes) off = r := by
  obtain ⟨count, wsum, fsum, hiValue, hiWeight, mask⟩ := range
  have whole : off + r.bytes.length ≤ Config.memSize := by rw [bytes_length]; exact fits
  have b8 : (leBytes 8 (stored 64 r.fsum)).length = 8 := leBytes_length _ _
  have b4 (v : Nat) : (leBytes 4 v).length = 4 := leBytes_length _ _
  have b2 (v : Nat) : (leBytes 2 v).length = 2 := leBytes_length _ _
  have at0 := readNat_of_split (m := m) (off := off) (bs := r.bytes) (before := []) (i := 0) (n := 8) (v := stored 64 r.fsum)
    (by simp only [AccRecord.bytes, List.append_assoc, List.nil_append]; rfl) rfl whole (stored_lt 64 _)
  have at8 := readNat_of_split (m := m) (off := off) (bs := r.bytes) (before := leBytes 8 (stored 64 r.fsum)) (i := 8) (n := 4) (v := r.wsum)
    (by simp only [AccRecord.bytes, List.append_assoc]; rfl) b8 whole (by omega)
  have at12 := readNat_of_split (m := m) (off := off) (bs := r.bytes) (before := leBytes 8 (stored 64 r.fsum) ++ leBytes 4 r.wsum) (i := 12) (n := 4)
    (v := stored 32 r.hiValue) (by simp only [AccRecord.bytes, List.append_assoc]; rfl) (by rw [List.length_append, b8, b4]) whole (stored_lt 32 _)
  have at16 := readNat_of_split (m := m) (off := off) (bs := r.bytes)
    (before := leBytes 8 (stored 64 r.fsum) ++ leBytes 4 r.wsum ++ leBytes 4 (stored 32 r.hiValue)) (i := 16) (n := 2)
    (v := r.hiWeight) (by simp only [AccRecord.bytes, List.append_assoc]; rfl) (by simp only [List.length_append, b8, b4]) whole (by omega)
  have at18 := readNat_of_split (m := m) (off := off) (bs := r.bytes)
    (before := leBytes 8 (stored 64 r.fsum) ++ leBytes 4 r.wsum ++ leBytes 4 (stored 32 r.hiValue) ++ leBytes 2 r.hiWeight) (i := 18) (n := 2)
    (v := r.count) (by simp only [AccRecord.bytes, List.append_assoc]; rfl) (by simp only [List.length_append, b8, b4, b2]) whole (by omega)
  have at20 := readNat_of_split (m := m) (off := off) (bs := r.bytes)
    (before := leBytes 8 (stored 64 r.fsum) ++ leBytes 4 r.wsum ++ leBytes 4 (stored 32 r.hiValue) ++ leBytes 2 r.hiWeight ++ leBytes 2 r.count)
    (i := 20) (n := 2) (v := r.mask) (by simp only [AccRecord.bytes, List.append_assoc]; rfl) (by simp only [List.length_append, b8, b4, b2]) whole
    (by omega)
  rw [Nat.add_zero] at at0
  unfold readRecord Memory.readInt
  rw [at0, at8, at12, at16, at18, at20, signed_stored (by decide) (by omega) (by omega), signed_stored (by decide) (by omega) (by omega),
    Nat.mod_eq_of_lt mask]

theorem addFlag_lt {mask : Nat} (h : mask < 16) {f : MaskFlag} (low : f.value < 16) : addFlag mask f < 16 := Nat.or_lt_two_pow (n := 4) h low

/-- A share below a full count, and one at it. -/
theorem share_of_count {r : AccRecord} (below : r.count ≠ 65535) (V : Int) (w : Nat) (c : Bool) : r.share V w c
    = ({ fsum := r.fsum + V * w, wsum := r.wsum + w,
         hiValue := if decide (r.count = 0) || decide (r.hiValue < V) then V else r.hiValue,
         hiWeight := if decide (r.count = 0) || decide (r.hiValue < V) then w else r.hiWeight,
         count := r.count + 1, mask := if c then addFlag r.mask .clamped else r.mask }, true) := if_neg below

theorem share_of_full {r : AccRecord} (full : r.count = 65535) (V : Int) (w : Nat) (c : Bool) :
    r.share V w c = ({ r with mask := addFlag (if c then addFlag r.mask .clamped else r.mask) .full }, false) := if_pos full

theorem share_inRange {r : AccRecord} (range : r.InRange) {V : Int} {w : Nat} (c : Bool) (value : V.natAbs ≤ 268435455) (weight : w ≤ 65280) :
    (r.share V w c).1.InRange := by
  obtain ⟨count, wsum, fsum, hiValue, hiWeight, mask⟩ := range
  have clamped : (if c then addFlag r.mask .clamped else r.mask) < 16 := by
    split
    · exact addFlag_lt mask (by decide)
    · exact mask
  by_cases full : r.count = 65535
  · rw [share_of_full full]
    exact ⟨count, wsum, fsum, hiValue, hiWeight, addFlag_lt clamped (by decide)⟩
  · rw [share_of_count full]
    have product : (V * w).natAbs ≤ 268435455 * w := by
      rw [Int.natAbs_mul, Int.natAbs_natCast]
      exact Nat.mul_le_mul_right _ value
    refine ⟨by show r.count + 1 ≤ 65535; omega, by show r.wsum + w ≤ 65280 * (r.count + 1); omega, ?_, ?_, ?_, clamped⟩
    · have triangle := Int.natAbs_add_le r.fsum (V * w)
      show (r.fsum + V * w).natAbs ≤ 268435455 * (r.wsum + w)
      omega
    · dsimp only
      split
      · exact value
      · exact hiValue
    · dsimp only
      split
      · exact weight
      · exact hiWeight

/-- Settles O41. -/
theorem accumulatorRecordKeepsItsRange : Obligations.AccumulatorRecordKeepsItsRange := by
  intro r range
  refine ⟨fun m off fits => readRecord_writeBytes range m fits, fun V w c value weight => ⟨share_inRange range c value weight, ?_, fun below => ?_,
    fun full => ?_⟩⟩
  · have top := range.1
    by_cases full : r.count = 65535
    · rw [share_of_full full]
      simp [full]
    · rw [share_of_count full]
      simp only [true_iff]
      omega
  · rw [share_of_count below.ne]
    refine ⟨rfl, rfl, rfl, ?_, ?_⟩
    · simp only [Bool.or_eq_true, decide_eq_true_eq]
      split <;> rfl
    · rfl
  · rw [share_of_full full]
    cases c
    · simp [addFlag, MaskFlag.value]
    · simp only [if_true, addFlag, MaskFlag.value, Nat.or_assoc, Nat.or_comm 4]

end Sys2Proof.Machine
end

section
/-! One share on a cell of the sky canvas (R110 to R120; O42). -/

-- One theorem at a time: the threads of a parallel elaboration reserve more memory than the check allows.
set_option Elab.async false

namespace Sys2Proof.Machine

variable {s t : State} {f : Fin 4} {fd : Field} {c : Nat} {d : DirCell}

/-! ### One directory entry replaced -/

/-- The field table with the directory entry of one cell of one field replaced. -/
def cellSet (fields : Vector (Option Field) 4) (f : Fin 4) (fd : Field) (c : Nat) (d : DirCell) : Vector (Option Field) 4 :=
  fields.set f (some { fd with cells := fd.cells.set c d })

theorem modify_eq_set {l : List DirCell} (here : l[c]? = some d) (g : DirCell → DirCell) : l.modify c g = l.set c (g d) := by
  refine List.ext_getElem? fun i => ?_
  rw [List.getElem?_modify, List.getElem?_set]
  by_cases at_ : c = i
  · subst at_
    obtain ⟨inside, rfl⟩ := List.getElem?_eq_some_iff.mp here
    simp [inside]
  · simp [at_]

theorem mapCell_fields (field : s.fields[f] = some fd) (here : fd.cells[c]? = some d) (g : DirCell → DirCell) :
    (s.mapCell f c g).fields = cellSet s.fields f fd c (g d) := by
  unfold State.mapCell
  rw [field]
  dsimp only
  rw [modify_eq_set here]
  rfl

theorem fields_set_getElem_self (fields : Vector (Option Field) 4) (x : Option Field) : (fields.set f x)[f] = x := by
  rw [Fin.getElem_fin, Vector.getElem_set_self]

/-- A cell replaced is the cell found there. -/
theorem cellSet_spec (here : fd.cells[c]? = some d) (d' : DirCell) : ({ fd with cells := fd.cells.set c d' } : Field).cells[c]? = some d' := by
  obtain ⟨inside, -⟩ := List.getElem?_eq_some_iff.mp here
  exact List.getElem?_set_self inside

theorem cellSet_cellSet (fields : Vector (Option Field) 4) (d' d'' : DirCell) :
    cellSet (cellSet fields f fd c d') f { fd with cells := fd.cells.set c d' } c d'' = cellSet fields f fd c d'' := by
  unfold cellSet
  dsimp only
  rw [List.set_set]
  exact Vector.set_set ..

theorem cellSet_self (field : s.fields[f] = some fd) (here : fd.cells[c]? = some d) : cellSet s.fields f fd c d = s.fields := by
  obtain ⟨inside, rfl⟩ := List.getElem?_eq_some_iff.mp here
  unfold cellSet
  rw [List.set_getElem_self, ← field]
  simp

theorem cellAt_eq (field : s.fields[f] = some fd) : s.cellAt f c = fd.cells[c]? := by
  unfold State.cellAt
  rw [field]

/-! ### A cell made ready (R112, R113) -/

/-- R112, R113: what a touch leaves of a cell made ready: ACCUMULATING, over the memory given. -/
structure Prepared (s u : State) (f : Fin 4) (fd : Field) (c : Nat) (d : DirCell) (m : List Host.Cell) : Prop where
  touches : Touches [.mem, .fields] s u
  fields : u.fields = cellSet s.fields f fd c { d with state := .accumulating }
  mem : u.mem = m

section Prepare
variable (field : s.fields[f] = some fd) (here : fd.cells[c]? = some d)
include field here

theorem prepareCell_of_accumulating (state : d.state = .accumulating) : s.prepareCell f c = s := by
  unfold State.prepareCell
  rw [cellAt_eq field, here]
  dsimp only
  rw [state]

theorem prepared_of_accumulating (state : d.state = .accumulating) : Prepared s (s.prepareCell f c) f fd c d s.mem := by
  rw [prepareCell_of_accumulating field here state]
  have same : ({ d with state := .accumulating } : DirCell) = d := by rw [← state]
  exact ⟨Touches.refl _ s, by rw [same, cellSet_self field here], rfl⟩

theorem prepareCell_of_spoiled (state : d.state = .spoiled) : s.prepareCell f c = s := by
  unfold State.prepareCell
  rw [cellAt_eq field, here]
  dsimp only
  rw [state]

theorem prepared_of_mapped (m : List Host.Cell) :
    Prepared s (({ s with mem := m } : State).mapCell f c fun d => { d with state := .accumulating }) f fd c d m where
  touches := (touches_mem s m).andThen (mapCell_touches _ _ _ _)
  fields := mapCell_fields (s := { s with mem := m }) field here _
  mem := mapCell_touches _ _ _ _ .mem (by decide)

theorem prepared_of_vacant (state : d.state = .vacant) :
    Prepared s (s.prepareCell f c) f fd c d (Memory.zero s.mem (fd.base + c * 1572864) 1572864) := by
  have zeroed : s.prepareCell f c = ({ s with mem := Memory.zero s.mem (fd.base + c * Config.cellBytes) Config.cellBytes } : State).mapCell f c
      fun d => { d with state := .accumulating } := by
    unfold State.prepareCell
    rw [cellAt_eq field, here]
    dsimp only
    rw [state]
    unfold State.zeroCell
    dsimp only
    rw [field]
  rw [zeroed]
  exact prepared_of_mapped field here _

theorem prepareCell_of_finalized (state : d.state = .finalized) : s.prepareCell f c = (match d.last with
      | some off => s.writeStale off
      | none => s).mapCell f c fun d => { d with state := .accumulating } := by
  unfold State.prepareCell
  rw [cellAt_eq field, here]
  dsimp only
  rw [state] <;> rfl

theorem prepared_of_finalized (state : d.state = .finalized) (last : d.last = none) : Prepared s (s.prepareCell f c) f fd c d s.mem := by
  rw [prepareCell_of_finalized field here state, last]
  exact ⟨(mapCell_touches _ _ _ _).mono, mapCell_fields field here _, mapCell_touches _ _ _ _ .mem (by decide)⟩

theorem prepared_of_stale {p : Nat} (state : d.state = .finalized) (last : d.last = some p) (low : 0x1000 ≤ p) (high : p + 4 ≤ 0x3D8000000)
    (apart : ∀ (k : Fin 4) (g : Field), s.fields[k] = some g → p + 4 ≤ g.base ∨ g.base + g.regionBytes ≤ p) :
    Prepared s (s.prepareCell f c) f fd c d (Memory.writeBytes s.mem p [3, 0, 0, 0]) := by
  have outside : s.inSomeField p 4 = false := by
    rw [← Bool.not_eq_true, inSomeField_iff]
    rintro ⟨k, g, at_, x, shared⟩
    have := apart k g at_
    omega
  have stale : s.writeStale p = { s with mem := Memory.writeBytes s.mem p [3, 0, 0, 0] } := by
    unfold State.writeStale
    rw [outside, inGeneral_iff.mpr ⟨low, high⟩]
    rfl
  rw [prepareCell_of_finalized field here state, last]
  dsimp only
  rw [stale]
  exact prepared_of_mapped field here _

end Prepare

/-! ### The share (R114, R119, R120) -/

section Share
variable {u : State} {m : List Host.Cell} {off : Nat} {tag : Tag} {V : Int} {w : Nat} {cl : Bool}

theorem Prepared.cell (h : Prepared s u f fd c d m) (here : fd.cells[c]? = some d) :
    u.fields[f] = some { fd with cells := fd.cells.set c { d with state := .accumulating } }
    ∧ ({ fd with cells := fd.cells.set c { d with state := .accumulating } } : Field).cells[c]? = some { d with state := .accumulating } := by
  refine ⟨?_, cellSet_spec here _⟩
  rw [h.fields]
  exact fields_set_getElem_self _ _

/-- A share on a cell made ready, its record read without a memory error. -/
theorem Prepared.takes (h : Prepared s u f fd c d m) (here : fd.cells[c]? = some d) (unmet : u.readErr .accumulator off 24 = false) :
    Touches [.mem, .fields] s (u.takeShare f c off tag V w cl).1
    ∧ (u.takeShare f c off tag V w cl).1.mem = Memory.writeBytes m off ((readRecord m off).share V w cl).1.bytes
    ∧ (u.takeShare f c off tag V w cl).2 = (if ((readRecord m off).share V w cl).2 then .made else .refusedFull)
    ∧ (u.takeShare f c off tag V w cl).1.fields = cellSet s.fields f fd c (if ((readRecord m off).share V w cl).2
        then ({ d with state := .accumulating } : DirCell).noteExposure tag else { d with state := .accumulating }) := by
  obtain ⟨field, cell⟩ := h.cell here
  have written : Touches [.mem, .fields] s { u with mem := Memory.writeBytes m off ((readRecord m off).share V w cl).1.bytes } :=
    h.touches.andThen (touches_mem _ _)
  have share : u.takeShare f c off tag V w cl = if ((readRecord m off).share V w cl).2
      then (({ u with mem := Memory.writeBytes m off ((readRecord m off).share V w cl).1.bytes } : State).mapCell f c (DirCell.noteExposure tag), .made)
      else ({ u with mem := Memory.writeBytes m off ((readRecord m off).share V w cl).1.bytes }, .refusedFull) := by
    unfold State.takeShare
    rw [cellAt_eq field, cell]
    dsimp only
    rw [if_neg (by exact nofun), unmet, if_neg (by decide), h.mem]
  rw [share]
  cases ((readRecord m off).share V w cl).2 with
  | true =>
    rw [if_pos rfl, if_pos rfl, if_pos rfl]
    refine ⟨written.andThen (mapCell_touches _ _ _ _), mapCell_touches _ _ _ _ .mem (by decide), rfl, ?_⟩
    have noted := mapCell_fields (s := { u with mem := Memory.writeBytes m off ((readRecord m off).share V w cl).1.bytes }) field cell
      (DirCell.noteExposure tag)
    refine noted.trans ?_
    show cellSet u.fields f _ c _ = _
    rw [h.fields, cellSet_cellSet]
  | false =>
    rw [if_neg (by decide), if_neg (by decide), if_neg (by decide)]
    exact ⟨written, rfl, rfl, h.fields⟩

/-- A share on a cell made ready whose record's read meets memory errors. -/
theorem Prepared.spoils (h : Prepared s u f fd c d m) (here : fd.cells[c]? = some d) (met : u.readErr .accumulator off 24 = true) :
    Touches [.mem, .fields, .alert, .mirror, .messages] s (u.takeShare f c off tag V w cl).1
    ∧ (u.takeShare f c off tag V w cl).1.mem = m ∧ (u.takeShare f c off tag V w cl).2 = .droppedSpoiled
    ∧ (u.takeShare f c off tag V w cl).1.fields = cellSet s.fields f fd c { d with state := .spoiled }
    ∧ (u.takeShare f c off tag V w cl).1.alert = { s.alert with
        pending := { s.alert.pending with fault := true }
        memErrors := s.alert.memErrors.set 2 (min (s.alert.memErrors[2] + 1) 4294967295) } := by
  obtain ⟨field, cell⟩ := h.cell here
  have share : u.takeShare f c off tag V w cl = (u.spoilCell f c, .droppedSpoiled) := by
    unfold State.takeShare
    rw [cellAt_eq field, cell]
    dsimp only
    rw [if_neg (by exact nofun), met, if_pos rfl]
  rw [share]
  have spoiled := spoilCell_touches u f c
  refine ⟨h.touches.andThen spoiled, (spoiled .mem (by decide)).trans h.mem, rfl, ?_, ?_⟩
  · unfold State.spoilCell
    rw [memError_touches _ _ .fields (by decide), mapCell_fields field cell, h.fields, cellSet_cellSet]
  · unfold State.spoilCell
    rw [memError_alert, mapCell_touches _ _ _ _ .alert (by decide), h.touches .alert (by decide)]
    rfl

end Share

theorem touchShare_eq {i j : Nat} {tag : Tag} {V : Int} {w : Nat} {cl : Bool} (field : s.fields[f] = some fd) :
    s.touchShare f i j tag V w cl = (s.prepareCell f (fd.cellNo (i / 256) (j / 256))).takeShare f (fd.cellNo (i / 256) (j / 256))
      (fd.recordOff i j) tag V w cl := by
  unfold State.touchShare
  rw [field]

/-- Settles O42. -/
theorem shareOnACell : Obligations.ShareOnACell := by
  intro s f fd i j d tag V w c cell off r d' met cells takes field here
  have r_eq : r = (s.prepareCell f cell).takeShare f cell off tag V w c := touchShare_eq field
  have takes_of {m : List Host.Cell} (h : Prepared s (s.prepareCell f cell) f fd cell d m) : takes m := by
    have met_iff : (s.prepareCell f cell).readErr .accumulator off 24 = true ↔ met := by
      rw [readErr_iff, h.touches .errs (by decide)]
    constructor
    · intro unmet
      rw [r_eq]
      exact h.takes here (by rw [← Bool.not_eq_true, met_iff]; exact unmet)
    · intro meets
      rw [r_eq]
      exact h.spoils here (met_iff.mpr meets)
  refine ⟨fun state => takes_of (prepared_of_accumulating field here state), fun state => ?_, fun state => takes_of (prepared_of_vacant field here state),
    fun state last => takes_of (prepared_of_finalized field here state last), fun p state last low high apart =>
      takes_of (prepared_of_stale field here state last low high apart)⟩
  rw [r_eq, prepareCell_of_spoiled field here state]
  unfold State.takeShare
  rw [cellAt_eq field, here]
  exact if_pos state

end Sys2Proof.Machine
end

section
/-! One image pixel on the sky canvas (R82, R83, R89, R96 to R102, R110 to R115; O43): the records of a field change at the pixel's targets
alone, each by its own target. -/

-- One theorem at a time: the threads of a parallel elaboration reserve more memory than the check allows.
set_option Elab.async false

namespace Sys2Proof.Machine

variable {s u : State} {f : Fin 4} {fd : Field}

/-! ### A field whose cells are ACCUMULATING -/

/-- A field of the size and place of `fd` whose cells are ACCUMULATING, its records in range, and no memory error to be met. -/
structure Canvas (f : Fin 4) (fd : Field) (s : State) : Prop where
  field : ∃ cs, s.fields[f] = some { fd with cells := cs } ∧ cs.length = fd.cols * fd.rows ∧ ∀ d ∈ cs, d.state = .accumulating
  errs : s.errs = []
  records : ∀ i j, i < 256 * fd.cols → j < 256 * fd.rows → (readRecord s.mem (fd.recordOff i j)).InRange

/-- One record of the field rewritten. -/
structure Rewritten (f : Fin 4) (fd : Field) (s u : State) (i j : Nat) (r : AccRecord) : Prop where
  touches : Touches [.mem, .fields] s u
  mem : u.mem = Memory.writeBytes s.mem (fd.recordOff i j) r.bytes
  canvas : Canvas f fd u

theorem readRecord_writeBytes_apart {r : AccRecord} {m : List Host.Cell} {off a : Nat} (apart : a + 24 ≤ off ∨ off + 24 ≤ a) :
    readRecord (Memory.writeBytes m off r.bytes) a = readRecord m a := by
  have field (k n : Nat) (h : k + n ≤ 24) : Memory.readNat (Memory.writeBytes m off r.bytes) (a + k) n = Memory.readNat m (a + k) n :=
    Memory.readNat_writeBytes_outside _ _ _ _ _ (by rw [bytes_length]; omega)
  have at0 := field 0 8 (by decide)
  rw [Nat.add_zero] at at0
  unfold readRecord Memory.readInt
  rw [at0, field 8 4 (by decide), field 12 4 (by decide), field 16 2 (by decide), field 18 2 (by decide), field 20 2 (by decide)]

theorem Field.Ok.record_fits (ok : fd.Ok) {i j : Nat} (hi : i < 256 * fd.cols) (hj : j < 256 * fd.rows) :
    fd.recordOff i j + 24 ≤ Config.memSize := by
  obtain ⟨-, -, -, ⟨-, region⟩, -, -⟩ := ok
  have pool : Config.poolBase ≤ Config.memSize := by decide
  have := (Field.record_in_region hi hj).2
  omega

theorem Canvas.cell (h : Canvas f fd s) {i j : Nat} (hi : i < 256 * fd.cols) (hj : j < 256 * fd.rows) :
    ∃ cs d, s.fields[f] = some { fd with cells := cs } ∧ cs.length = fd.cols * fd.rows ∧ (∀ d ∈ cs, d.state = .accumulating)
      ∧ cs[fd.cellNo (i / 256) (j / 256)]? = some d ∧ d.state = .accumulating := by
  obtain ⟨cs, field, length, all⟩ := h.field
  have inside : fd.cellNo (i / 256) (j / 256) < cs.length := by
    rw [length]
    exact Field.cellNo_lt (Nat.div_lt_of_lt_mul hi) (Nat.div_lt_of_lt_mul hj)
  exact ⟨cs, cs[fd.cellNo (i / 256) (j / 256)], field, length, all, List.getElem?_eq_getElem inside, all _ (List.getElem_mem inside)⟩

/-- A record rewritten within its ranges leaves a canvas. -/
theorem Canvas.rewritten (h : Canvas f fd s) (ok : fd.Ok) {i j : Nat} (hi : i < 256 * fd.cols) (hj : j < 256 * fd.rows) {r : AccRecord}
    (range : r.InRange) (touches : Touches [.mem, .fields] s u) (mem : u.mem = Memory.writeBytes s.mem (fd.recordOff i j) r.bytes)
    (field : ∃ cs, u.fields[f] = some { fd with cells := cs } ∧ cs.length = fd.cols * fd.rows ∧ ∀ d ∈ cs, d.state = .accumulating) :
    Rewritten f fd s u i j r := by
  refine ⟨touches, mem, field, (touches .errs (by decide)).trans h.errs, fun i' j' hi' hj' => ?_⟩
  rw [mem]
  by_cases same : (i, j) = (i', j')
  · cases same
    rw [readRecord_writeBytes range _ (ok.record_fits hi hj)]
    exact range
  · rw [readRecord_writeBytes_apart (Field.records_disjoint hi hi' same).symm]
    exact h.records i' j' hi' hj'

theorem Rewritten.here {i j : Nat} {r : AccRecord} (h : Rewritten f fd s u i j r) (ok : fd.Ok) (hi : i < 256 * fd.cols) (hj : j < 256 * fd.rows)
    (range : r.InRange) : readRecord u.mem (fd.recordOff i j) = r := by
  rw [h.mem, readRecord_writeBytes range _ (ok.record_fits hi hj)]

theorem Rewritten.elsewhere {i j i' j' : Nat} {r : AccRecord} (h : Rewritten f fd s u i j r) (hi : i < 256 * fd.cols) (hi' : i' < 256 * fd.cols)
    (other : (i, j) ≠ (i', j')) : readRecord u.mem (fd.recordOff i' j') = readRecord s.mem (fd.recordOff i' j') := by
  rw [h.mem, readRecord_writeBytes_apart (Field.records_disjoint hi hi' other).symm]

/-! ### One share and one mask effect on a canvas -/

/-- R115: a record with a mask flag added. -/
def AccRecord.flagged (flag : MaskFlag) (r : AccRecord) : AccRecord := { r with mask := r.mask ||| flag.value }

theorem flagged_inRange {flag : MaskFlag} (low : flag.value < 16) {r : AccRecord} (range : r.InRange) : (r.flagged flag).InRange := by
  obtain ⟨count, wsum, fsum, hiValue, hiWeight, small⟩ := range
  exact ⟨count, wsum, fsum, hiValue, hiWeight, Nat.or_lt_two_pow (n := 4) small low⟩

section Touch
variable (h : Canvas f fd s) (ok : fd.Ok) {i j : Nat} (hi : i < 256 * fd.cols) (hj : j < 256 * fd.rows)
include h ok hi hj

theorem Canvas.touchShare {tag : Tag} {V : Int} {w : Nat} {cl : Bool} (value : V.natAbs ≤ 268435455) (weight : w ≤ 65280) :
    Rewritten f fd s (s.touchShare f i j tag V w cl).1 i j ((readRecord s.mem (fd.recordOff i j)).share V w cl).1
    ∧ (s.touchShare f i j tag V w cl).2
      = if (readRecord s.mem (fd.recordOff i j)).count = 65535 then .refusedFull else .made := by
  obtain ⟨cs, d, field, length, all, here, state⟩ := h.cell hi hj
  rw [touchShare_eq field]
  have prepared := prepared_of_accumulating field here state
  obtain ⟨touches, mem, outcome, fields⟩ := prepared.takes (off := fd.recordOff i j) (tag := tag) (V := V) (w := w) (cl := cl) here
    (readErr_of_no_errs ((prepared.touches .errs (by decide)).trans h.errs) _ _ _)
  obtain ⟨x, fields, accumulating⟩ : ∃ x : DirCell, State.fields _ = cellSet s.fields f _ _ x ∧ x.state = .accumulating := by
    refine ⟨_, fields, ?_⟩
    split
    · unfold DirCell.noteExposure
      split
      · rfl
      · split <;> rfl
    · rfl
  refine ⟨h.rewritten ok hi hj (share_inRange (h.records i j hi hj) cl value weight) touches mem
    ⟨cs.set (fd.cellNo (i / 256) (j / 256)) x, ?_, ?_, fun e he => ?_⟩, ?_⟩
  · exact (congrArg (·[f]) fields).trans (fields_set_getElem_self _ _)
  · rw [List.length_set, length]
  · rcases List.mem_or_eq_of_mem_set he with old | rfl
    · exact all e old
    · exact accumulating
  · refine outcome.trans ?_
    by_cases full : (readRecord s.mem (fd.recordOff i j)).count = 65535
    · rw [share_of_full full, if_pos full]
      rfl
    · rw [share_of_count full, if_neg full]
      rfl

theorem Canvas.touchMask {flag : MaskFlag} (low : flag.value < 16) :
    Rewritten f fd s (s.touchMask f i j flag) i j ((readRecord s.mem (fd.recordOff i j)).flagged flag) := by
  obtain ⟨cs, d, field, length, all, here, state⟩ := h.cell hi hj
  have mask : s.touchMask f i j flag
      = { s with mem := Memory.writeBytes s.mem (fd.recordOff i j) ((readRecord s.mem (fd.recordOff i j)).flagged flag).bytes } := by
    unfold State.touchMask
    rw [field]
    dsimp only
    rw [show ({ fd with cells := cs } : Field).cellNo (i / 256) (j / 256) = fd.cellNo (i / 256) (j / 256) from rfl,
      prepareCell_of_accumulating field here state]
    unfold State.takeMask
    rw [cellAt_eq field, here]
    dsimp only
    rw [if_neg (by rw [state]; exact nofun), readErr_of_no_errs h.errs, if_neg (by decide)]
    rfl
  rw [mask]
  exact h.rewritten ok hi hj (flagged_inRange low (h.records i j hi hj)) (touches_mem s _).mono rfl ⟨cs, field, length, all⟩

end Touch

/-! ### The targets of a pixel, one after the other -/

/-- R100: a target lies in the field. -/
abbrev Target.within (fd : Field) (x : Target) : Prop := (0 ≤ x.i ∧ x.i < 256 * fd.cols) ∧ 0 ≤ x.j ∧ x.j < 256 * fd.rows

theorem Target.within.bounds {x : Target} (h : x.within fd) : x.i.toNat < 256 * fd.cols ∧ x.j.toNat < 256 * fd.rows := by
  obtain ⟨⟨i0, hi⟩, j0, hj⟩ := h
  omega

/-- Two targets at different sky pixels. -/
def Target.apart (x y : Target) : Prop := (x.i, x.j) ≠ (y.i, y.j)

theorem Target.apart.records {x y : Target} (h : x.apart y) (hx : x.within fd) (hy : y.within fd) :
    (x.i.toNat, x.j.toNat) ≠ (y.i.toNat, y.j.toNat) := by
  obtain ⟨⟨hxi, -⟩, hxj, -⟩ := hx
  obtain ⟨⟨hyi, -⟩, hyj, -⟩ := hy
  rintro same
  obtain ⟨hi, hj⟩ := Prod.mk.inj same
  exact h (Prod.ext (by show x.i = y.i; omega) (by show x.j = y.j; omega))

theorem targets_apart (p q : Int) : (targets p q).Pairwise Target.apart := by
  unfold targets
  simp [Target.apart]

/-- What the targets of a pixel make of a canvas: the record of each target that touches is rewritten by its own change, no other record and
no byte outside the field changes. -/
structure Deposited (f : Fin 4) (fd : Field) (change : Target → Option (AccRecord → AccRecord)) (ts : List Target) (s u : State) : Prop where
  touches : Touches [.mem, .fields] s u
  canvas : Canvas f fd u
  outside : ∀ b, b < fd.base ∨ fd.base + fd.regionBytes ≤ b → Memory.read u.mem b = Memory.read s.mem b
  others : ∀ i j, i < 256 * fd.cols → j < 256 * fd.rows → (∀ x ∈ ts, change x ≠ none → ¬ (x.i = i ∧ x.j = j)) →
    readRecord u.mem (fd.recordOff i j) = readRecord s.mem (fd.recordOff i j)
  changed : ∀ x ∈ ts, ∀ g, change x = some g →
    readRecord u.mem (fd.recordOff x.i.toNat x.j.toNat) = g (readRecord s.mem (fd.recordOff x.i.toNat x.j.toNat))

/-- The step of each of the targets `ts` upon a canvas. -/
structure StepsBy (f : Fin 4) (fd : Field) (change : Target → Option (AccRecord → AccRecord)) (ts : List Target)
    (step : RowRun → Target → RowRun) : Prop where
  idle : ∀ a, ∀ x ∈ ts, change x = none → (step a x).st = a.st
  takes : ∀ a, ∀ x ∈ ts, ∀ g, Canvas f fd a.st → change x = some g → x.within fd
    ∧ Rewritten f fd a.st (step a x).st x.i.toNat x.j.toNat (g (readRecord a.st.mem (fd.recordOff x.i.toNat x.j.toNat)))
  range : ∀ x ∈ ts, ∀ g r, change x = some g → r.InRange → (g r).InRange

theorem StepsBy.tail {change : Target → Option (AccRecord → AccRecord)} {step : RowRun → Target → RowRun} {x : Target} {ts : List Target}
    (h : StepsBy f fd change (x :: ts) step) : StepsBy f fd change ts step where
  idle a y hy := h.idle a y (List.mem_cons_of_mem _ hy)
  takes a y hy := h.takes a y (List.mem_cons_of_mem _ hy)
  range y hy := h.range y (List.mem_cons_of_mem _ hy)

theorem StepsBy.fold {change : Target → Option (AccRecord → AccRecord)} {step : RowRun → Target → RowRun} {ts : List Target}
    (h : StepsBy f fd change ts step) (ok : fd.Ok) (apart : ts.Pairwise Target.apart) {a : RowRun} (canvas : Canvas f fd a.st) :
    Deposited f fd change ts a.st (ts.foldl step a).st := by
  induction ts generalizing a with
  | nil => exact ⟨Touches.refl _ _, canvas, fun _ _ => rfl, fun _ _ _ _ _ => rfl, fun _ hx => nomatch hx⟩
  | cons x ts ih =>
    obtain ⟨first, rest⟩ := List.pairwise_cons.mp apart
    have ih := fun {a : RowRun} => ih h.tail (a := a)
    have here : x ∈ x :: ts := List.mem_cons_self
    rw [List.foldl_cons]
    cases change_x : change x with
    | none =>
      have same := h.idle a x here change_x
      obtain ⟨touches, canvas', outside, others, changed⟩ := ih rest (a := step a x) (by rw [same]; exact canvas)
      rw [same] at touches outside others changed
      refine ⟨touches, canvas', outside, fun i j hi hj none_ => others i j hi hj fun y hy => none_ y (List.mem_cons_of_mem _ hy), fun y hy g hg => ?_⟩
      rcases List.mem_cons.mp hy with rfl | hy
      · rw [change_x] at hg
        cases hg
      · exact changed y hy g hg
    | some g =>
      obtain ⟨within, written⟩ := h.takes a x here g canvas change_x
      obtain ⟨hi, hj⟩ := within.bounds
      have range := h.range x here g _ change_x (canvas.records _ _ hi hj)
      obtain ⟨touches, canvas', outside, others, changed⟩ := ih rest written.canvas
      refine ⟨written.touches.trans touches, canvas', fun b hb => ?_, fun i j hi' hj' none_ => ?_, fun y hy g' hg' => ?_⟩
      · rw [outside b hb, written.mem]
        have region := Field.record_in_region hi hj
        exact Memory.read_writeBytes_outside _ _ _ _ (by rw [bytes_length]; omega)
      · rw [others i j hi' hj' fun y hy => none_ y (List.mem_cons_of_mem _ hy)]
        refine written.elsewhere hi hi' fun same => none_ x List.mem_cons_self (by rw [change_x]; exact nofun) ?_
        obtain ⟨⟨hxi, -⟩, hxj, -⟩ := within
        obtain ⟨si, sj⟩ := Prod.mk.inj same
        omega
      · rcases List.mem_cons.mp hy with rfl | hy
        · obtain rfl : g = g' := Option.some.inj (change_x.symm.trans hg')
          rw [others _ _ hi hj, written.here ok hi hj range]
          rintro z hz - ⟨si, sj⟩
          obtain ⟨⟨hyi, -⟩, hyj, -⟩ := within
          exact first z hz (Prod.ext (by show y.i = z.i; omega) (by show y.j = z.j; omega))
        · rw [changed y hy g' hg']
          obtain ⟨within', -⟩ := h.takes (step a x) y (List.mem_cons_of_mem _ hy) g' written.canvas hg'
          rw [written.elsewhere hi within'.bounds.1 ((first y hy).records within within')]

end Sys2Proof.Machine
end

section
/-! The steps of a pixel's targets and what they count (R89, R98 to R102, R114, R115; O43). -/

-- One theorem at a time: the threads of a parallel elaboration reserve more memory than the check allows.
set_option Elab.async false

namespace Sys2Proof.Machine

variable {s u : State} {fd : Field} {o : Assembly}

theorem inField_iff (width : o.width = 256 * fd.cols) (height : o.height = 256 * fd.rows) {x : Target} :
    x.inField o.width o.height = true ↔ x.within fd := by
  unfold Target.inField Target.within
  rw [decide_eq_true_iff]
  omega

/-! ### Mask effects (R101, R115) -/

/-- R101: what a target of a SATURATED or BAD pixel makes of its record. -/
def maskChange (fd : Field) (flag : MaskFlag) (x : Target) : Option (AccRecord → AccRecord) :=
  if x.split ≠ 0 ∧ x.within fd then some (AccRecord.flagged flag) else none

theorem maskTarget_eq (width : o.width = 256 * fd.cols) (height : o.height = 256 * fd.rows) (flag : MaskFlag) (a : RowRun) (x : Target) :
    maskTarget o flag a x = if x.split ≠ 0 ∧ x.within fd
      then { a with st := a.st.touchMask o.field x.i.toNat x.j.toNat flag } else a := by
  unfold maskTarget
  by_cases split : x.split = 0
  · rw [if_pos split, if_neg (fun h => h.1 split)]
  · rw [if_neg split]
    exact if_congr ((inField_iff width height).trans ⟨fun inside => ⟨split, inside⟩, And.right⟩) rfl rfl

theorem maskTarget_stepsBy (ok : fd.Ok) (width : o.width = 256 * fd.cols) (height : o.height = 256 * fd.rows) {flag : MaskFlag}
    (low : flag.value < 16) (ts : List Target) : StepsBy o.field fd (maskChange fd flag) ts (maskTarget o flag) where
  idle a x _ none_ := by
    rw [maskTarget_eq width height, if_neg]
    intro touches
    unfold maskChange at none_
    rw [if_pos touches] at none_
    cases none_
  takes a x _ g canvas some_ := by
    obtain ⟨touches, changes⟩ := Option.ite_none_right_eq_some.mp some_
    cases changes
    obtain ⟨hi, hj⟩ := touches.2.bounds
    rw [maskTarget_eq width height, if_pos touches]
    exact ⟨touches.2, canvas.touchMask ok hi hj low⟩
  range x _ g r some_ range := by
    obtain ⟨-, changes⟩ := Option.ite_none_right_eq_some.mp some_
    cases changes
    exact flagged_inRange low range

theorem maskTarget_counts {flag : MaskFlag} (ts : List Target) (a : RowRun) :
    (ts.foldl (maskTarget o flag) a).res = a.res ∧ (ts.foldl (maskTarget o flag) a).made = a.made
    ∧ (ts.foldl (maskTarget o flag) a).cells = a.cells := by
  induction ts generalizing a with
  | nil => exact ⟨rfl, rfl, rfl⟩
  | cons x ts ih =>
    obtain ⟨res, made, cells⟩ := ih (maskTarget o flag a x)
    have same : (maskTarget o flag a x).res = a.res ∧ (maskTarget o flag a x).made = a.made ∧ (maskTarget o flag a x).cells = a.cells := by
      unfold maskTarget
      split
      · exact ⟨rfl, rfl, rfl⟩
      · split <;> exact ⟨rfl, rfl, rfl⟩
    exact ⟨res.trans same.1, made.trans same.2.1, cells.trans same.2.2⟩

/-! ### Shares (R102, R114) -/

/-- R102: a target inside the field with a share of some weight. -/
abbrev Target.takesShare (fd : Field) (o : Assembly) (x : Target) : Prop :=
  (x.split ≠ 0 ∧ x.within fd) ∧ shareWeight x.split o.weight ≠ 0

/-- R114: the record at a target, in the memory given, counts no further share. -/
abbrev Target.full (fd : Field) (m : List Host.Cell) (x : Target) : Prop :=
  (readRecord m (fd.recordOff x.i.toNat x.j.toNat)).count = 65535

/-- The number of the cell a target lies in. -/
def Target.cellNo (fd : Field) (x : Target) : Nat := x.j.toNat / 256 * fd.cols + x.i.toNat / 256

/-- R102, R114: what a target of a DEPOSIT pixel makes of its record. -/
def shareChange (fd : Field) (o : Assembly) (V : Int) (cl : Bool) (x : Target) : Option (AccRecord → AccRecord) :=
  if x.takesShare fd o then some fun r => (r.share V (shareWeight x.split o.weight) cl).1 else none

section Step
variable (width : o.width = 256 * fd.cols) (height : o.height = 256 * fd.rows) {V : Int} {cl : Bool} {a : RowRun} {x : Target}
include width height

/-- R100: a target outside the field is clipped, when it has a split weight at all. -/
theorem depositTarget_of_idle (idle : ¬ x.takesShare fd o) : depositTarget o V cl a x = if x.split ≠ 0 ∧ ¬ x.within fd
    then { a with res := { a.res with clipped := satAdd a.res.clipped 1 } } else a := by
  unfold depositTarget
  by_cases split : x.split = 0
  · rw [if_pos split, if_neg (fun h => h.1 split)]
  · rw [if_neg split]
    by_cases inside : x.within fd
    · have weightless : shareWeight x.split o.weight = 0 := by
        by_contra heavy
        exact idle ⟨⟨split, inside⟩, heavy⟩
      rw [if_pos ((inField_iff width height).mpr inside), if_neg (fun h : x.split ≠ 0 ∧ ¬ x.within fd => h.2 inside)]
      dsimp only
      rw [if_pos weightless]
    · rw [if_neg (fun h => inside ((inField_iff width height).mp h)), if_pos ⟨split, inside⟩]

/-- R102, R114: a target that takes a share: made, or refused FULL. -/
theorem depositTarget_of_share (ok : fd.Ok) (canvas : Canvas o.field fd a.st) (takes : x.takesShare fd o) (value : V.natAbs ≤ 268435455)
    (weight : shareWeight x.split o.weight ≤ 65280) :
    depositTarget o V cl a x = if x.full fd a.st.mem
      then { a with
        st := (a.st.touchShare o.field x.i.toNat x.j.toNat o.tag V (shareWeight x.split o.weight) cl).1
        res := { a.res with refusedFull := satAdd a.res.refusedFull 1 } }
      else { a with
        st := (a.st.touchShare o.field x.i.toNat x.j.toNat o.tag V (shareWeight x.split o.weight) cl).1
        made := true
        cells := if x.cellNo fd ∈ a.cells then a.cells else a.cells ++ [x.cellNo fd] } := by
  obtain ⟨⟨split, inside⟩, heavy⟩ := takes
  obtain ⟨hi, hj⟩ := inside.bounds
  obtain ⟨-, outcome⟩ := canvas.touchShare ok hi hj (tag := o.tag) (cl := cl) value weight
  have cols : o.width / 256 = fd.cols := by omega
  unfold depositTarget
  rw [if_neg split, if_pos ((inField_iff width height).mpr inside), cols]
  dsimp only
  rw [if_neg heavy, outcome]
  by_cases full : x.full fd a.st.mem
  · rw [if_pos full, if_pos full]
  · rw [if_neg full, if_neg full]
    rfl

theorem depositTarget_stepsBy (ok : fd.Ok) (value : V.natAbs ≤ 268435455) {ts : List Target}
    (weight : ∀ x ∈ ts, shareWeight x.split o.weight ≤ 65280) :
    StepsBy o.field fd (shareChange fd o V cl) ts (depositTarget o V cl) where
  idle a x _ none_ := by
    rw [depositTarget_of_idle width height]
    · split <;> rfl
    · intro takes
      unfold shareChange at none_
      rw [if_pos takes] at none_
      cases none_
  takes a x hx g canvas some_ := by
    obtain ⟨takes, changes⟩ := Option.ite_none_right_eq_some.mp some_
    cases changes
    obtain ⟨hi, hj⟩ := takes.1.2.bounds
    refine ⟨takes.1.2, ?_⟩
    rw [depositTarget_of_share width height ok canvas takes value (weight x hx)]
    obtain ⟨written, -⟩ := canvas.touchShare ok hi hj (tag := o.tag) (cl := cl) value (weight x hx)
    split <;> exact written
  range x hx g r some_ range := by
    obtain ⟨-, changes⟩ := Option.ite_none_right_eq_some.mp some_
    cases changes
    exact share_inRange range cl value (weight x hx)

end Step

/-! ### What the shares of a pixel count -/

/-- R100: the targets clipped. -/
def clippedAt (fd : Field) (x : Target) : Bool := decide (x.split ≠ 0) && !decide (x.within fd)

/-- R114: the shares refused FULL. -/
def refusedAt (fd : Field) (o : Assembly) (m : List Host.Cell) (x : Target) : Bool :=
  decide (x.split ≠ 0) && decide (x.within fd) && decide (shareWeight x.split o.weight ≠ 0) && decide (x.full fd m)

theorem clippedAt_iff {x : Target} : clippedAt fd x = true ↔ x.split ≠ 0 ∧ ¬ x.within fd := by
  unfold clippedAt
  rw [Bool.and_eq_true, decide_eq_true_iff, Bool.not_eq_true', decide_eq_false_iff_not]

theorem refusedAt_iff {m : List Host.Cell} {x : Target} : refusedAt fd o m x = true ↔ x.takesShare fd o ∧ x.full fd m := by
  unfold refusedAt
  rw [Bool.and_eq_true, Bool.and_eq_true, Bool.and_eq_true, decide_eq_true_iff, decide_eq_true_iff, decide_eq_true_iff, decide_eq_true_iff]

/-- R100, R111, R114, R116: what the targets `ts` of a DEPOSIT pixel add to the results, over records that read as in the memory `m`. -/
structure Counts (fd : Field) (o : Assembly) (m : List Host.Cell) (ts : List Target) (a b : RowRun) : Prop where
  res : b.res = { a.res with
    clipped := min (a.res.clipped + ts.countP (clippedAt fd)) 4294967295
    refusedFull := min (a.res.refusedFull + ts.countP (refusedAt fd o m)) 4294967295 }
  made : b.made = true ↔ a.made = true ∨ ∃ x ∈ ts, x.takesShare fd o ∧ ¬ x.full fd m
  cells : ∀ k, k ∈ b.cells ↔ k ∈ a.cells ∨ ∃ x ∈ ts, (x.takesShare fd o ∧ ¬ x.full fd m) ∧ k = x.cellNo fd

theorem Counts.trans {m : List Host.Cell} {x : Target} {ts : List Target} {a b c : RowRun} (first : Counts fd o m [x] a b)
    (rest : Counts fd o m ts b c) : Counts fd o m (x :: ts) a c where
  res := by
    have gain (n : Nat) (P : Target → Bool) : min (min (n + [x].countP P) 4294967295 + ts.countP P) 4294967295
        = min (n + (x :: ts).countP P) 4294967295 := by
      rw [List.countP_singleton, List.countP_cons]
      omega
    rw [rest.res, first.res]
    dsimp only
    rw [gain, gain]
  made := by
    rw [rest.made, first.made]
    simp only [List.mem_cons, List.not_mem_nil, or_false, exists_eq_left, exists_eq_or_imp, or_assoc]
  cells k := by
    rw [rest.cells, first.cells]
    simp only [List.mem_cons, List.not_mem_nil, or_false, exists_eq_left, exists_eq_or_imp, or_assoc]

theorem Counts.single {m : List Host.Cell} {x : Target} {a b : RowRun}
    (res : b.res = { a.res with
      clipped := min (a.res.clipped + if clippedAt fd x then 1 else 0) 4294967295
      refusedFull := min (a.res.refusedFull + if refusedAt fd o m x then 1 else 0) 4294967295 })
    (made : b.made = true ↔ a.made = true ∨ x.takesShare fd o ∧ ¬ x.full fd m)
    (cells : ∀ k, k ∈ b.cells ↔ k ∈ a.cells ∨ (x.takesShare fd o ∧ ¬ x.full fd m) ∧ k = x.cellNo fd) : Counts fd o m [x] a b where
  res := by rw [res, List.countP_singleton, List.countP_singleton]
  made := by simp only [made, List.mem_singleton, exists_eq_left]
  cells k := by simp only [cells, List.mem_singleton, exists_eq_left]

theorem depositTarget_counts (ok : fd.Ok) (width : o.width = 256 * fd.cols) (height : o.height = 256 * fd.rows) {V : Int} {cl : Bool}
    (value : V.natAbs ≤ 268435455) {x : Target} (weight : shareWeight x.split o.weight ≤ 65280) {a : RowRun} (canvas : Canvas o.field fd a.st)
    (clipped : a.res.clipped ≤ 4294967295) (refused : a.res.refusedFull ≤ 4294967295) :
    Counts fd o a.st.mem [x] a (depositTarget o V cl a x) := by
  have same_clipped : min a.res.clipped 4294967295 = a.res.clipped := Nat.min_eq_left clipped
  have same_refused : min a.res.refusedFull 4294967295 = a.res.refusedFull := Nat.min_eq_left refused
  have keeps {P Q : Prop} (none_ : ¬ P) : Q ↔ Q ∨ P := ⟨Or.inl, fun h => h.resolve_right none_⟩
  by_cases takes : x.takesShare fd o
  · have unclipped : clippedAt fd x = false := by
      rw [← Bool.not_eq_true, clippedAt_iff]
      exact fun h => h.2 takes.1.2
    rw [depositTarget_of_share width height ok canvas takes value weight]
    by_cases full : x.full fd a.st.mem
    · rw [if_pos full]
      refine .single ?_ (keeps fun h => h.2 full) fun k => keeps fun h => h.1.2 full
      rw [unclipped, refusedAt_iff.mpr ⟨takes, full⟩]
      simp [satAdd, Config.counterMax, same_clipped]
    · have accepted : refusedAt fd o a.st.mem x = false := by
        rw [← Bool.not_eq_true, refusedAt_iff]
        exact fun h => full h.2
      rw [if_neg full]
      refine .single ?_ ⟨fun _ => Or.inr ⟨takes, full⟩, fun _ => rfl⟩ fun k => ?_
      · rw [unclipped, accepted]
        simp [same_clipped, same_refused]
      · rw [and_iff_right (⟨takes, full⟩ : x.takesShare fd o ∧ ¬ x.full fd a.st.mem)]
        dsimp only
        split
        case isTrue noted => exact ⟨Or.inl, fun h => h.elim id fun at_ => at_ ▸ noted⟩
        case isFalse => rw [List.mem_append, List.mem_singleton]
  · have accepted : refusedAt fd o a.st.mem x = false := by
      rw [← Bool.not_eq_true, refusedAt_iff]
      exact fun h => takes h.1
    rw [depositTarget_of_idle width height takes]
    by_cases outside : x.split ≠ 0 ∧ ¬ x.within fd
    · rw [if_pos outside]
      refine .single ?_ (keeps fun h => takes h.1) fun k => keeps fun h => takes h.1.1
      rw [clippedAt_iff.mpr outside, accepted]
      simp [satAdd, Config.counterMax, same_refused]
    · have unclipped : clippedAt fd x = false := by
        rw [← Bool.not_eq_true, clippedAt_iff]
        exact outside
      rw [if_neg outside]
      refine .single ?_ (keeps fun h => takes h.1) fun k => keeps fun h => takes h.1.1
      rw [unclipped, accepted]
      simp [same_clipped, same_refused]

/-- The records at the targets `ts` count as many shares in the memory `m` as in `m'`. -/
def SameCounts (fd : Field) (ts : List Target) (m m' : List Host.Cell) : Prop := ∀ x ∈ ts, x.within fd → (x.full fd m ↔ x.full fd m')

theorem Counts.congr {m m' : List Host.Cell} {ts : List Target} (same : SameCounts fd ts m m') {a b : RowRun} (h : Counts fd o m ts a b) :
    Counts fd o m' ts a b := by
  have refused : ts.countP (refusedAt fd o m) = ts.countP (refusedAt fd o m') := by
    refine List.countP_congr fun x hx => ?_
    rw [refusedAt_iff, refusedAt_iff]
    exact and_congr_right fun takes => same x hx takes.1.2
  have deposits {x : Target} (hx : x ∈ ts) : (x.takesShare fd o ∧ ¬ x.full fd m) ↔ x.takesShare fd o ∧ ¬ x.full fd m' :=
    and_congr_right fun takes => not_congr (same x hx takes.1.2)
  refine ⟨by rw [h.res, refused], h.made.trans (or_congr_right ?_), fun k => (h.cells k).trans (or_congr_right ?_)⟩
  · exact exists_congr fun x => and_congr_right deposits
  · exact exists_congr fun x => and_congr_right fun hx => and_congr_left fun _ => deposits hx

theorem depositTargets_count (ok : fd.Ok) (width : o.width = 256 * fd.cols) (height : o.height = 256 * fd.rows) {V : Int} {cl : Bool}
    (value : V.natAbs ≤ 268435455) {ts : List Target} (weight : ∀ x ∈ ts, shareWeight x.split o.weight ≤ 65280)
    (apart : ts.Pairwise Target.apart) {a : RowRun} (canvas : Canvas o.field fd a.st)
    (clipped : a.res.clipped ≤ 4294967295) (refused : a.res.refusedFull ≤ 4294967295) :
    Counts fd o a.st.mem ts a (ts.foldl (depositTarget o V cl) a) := by
  induction ts generalizing a with
  | nil => exact ⟨by simp [clipped, refused], by simp, by simp⟩
  | cons x ts ih =>
    obtain ⟨first, rest⟩ := List.pairwise_cons.mp apart
    have heavy := weight x List.mem_cons_self
    have one := depositTarget_counts ok width height value (cl := cl) heavy canvas clipped refused
    have stepped := (depositTarget_stepsBy width height ok (cl := cl) value (ts := [x]) (by simpa using heavy)).fold ok
      (List.pairwise_singleton _ x) canvas
    rw [List.foldl_cons, List.foldl_nil] at stepped
    have same : SameCounts fd ts (depositTarget o V cl a x).st.mem a.st.mem := by
      intro y hy inside
      obtain ⟨hi, hj⟩ := inside.bounds
      unfold Target.full
      rw [stepped.others _ _ hi hj]
      simp only [List.mem_singleton, forall_eq]
      rintro - ⟨si, sj⟩
      obtain ⟨⟨yi, -⟩, yj, -⟩ := inside
      exact first y hy (Prod.ext (by show x.i = y.i; omega) (by show x.j = y.j; omega))
    rw [List.foldl_cons]
    refine one.trans ((ih (fun y hy => weight y (List.mem_cons_of_mem _ hy)) rest stepped.canvas ?_ ?_).congr same)
    · rw [one.res]
      exact Nat.min_le_right _ _
    · rw [one.res]
      exact Nat.min_le_right _ _

/-! ### A pixel (R90, R99) -/

section Pixel
variable {p : Placement} {x y : Nat} {a : RowRun} {V : Int} {cl : Bool}

/-- The results of a row with a pixel of an outcome counted. -/
def Results.gainPixel (out : PixelOutcome) (r : Results) : Results :=
  match out with
  | .saturated => { r with saturated := satAdd r.saturated 1 }
  | .bad => { r with bad := satAdd r.bad 1 }
  | .deposit _ cl => if cl then { r with clamped := satAdd r.clamped 1 } else r

/-- What a target of a pixel makes of its record. -/
def pixelChange (fd : Field) (o : Assembly) (out : PixelOutcome) : Target → Option (AccRecord → AccRecord) :=
  match out with
  | .saturated => maskChange fd .saturated
  | .bad => maskChange fd .badPix
  | .deposit V cl => shareChange fd o V cl

/-- The step of a target of a pixel. -/
def pixelStep (o : Assembly) (out : PixelOutcome) : RowRun → Target → RowRun :=
  match out with
  | .saturated => maskTarget o .saturated
  | .bad => maskTarget o .badPix
  | .deposit V cl => depositTarget o V cl

theorem depositPixel_eq (out : PixelOutcome) : depositPixel o p x y out a
    = (targets (p.u x y) (p.v x y)).foldl (pixelStep o out) { a with res := a.res.gainPixel out } := by
  cases out with
  | saturated => rfl
  | bad => rfl
  | deposit V cl => cases cl <;> rfl

theorem pixelStep_stepsBy (ok : fd.Ok) (width : o.width = 256 * fd.cols) (height : o.height = 256 * fd.rows) (weight : o.weight ≤ 255)
    {out : PixelOutcome} (value : ∀ V c, out = .deposit V c → V.natAbs ≤ 268435455) (u v : Int) :
    StepsBy o.field fd (pixelChange fd o out) (targets u v) (pixelStep o out) := by
  cases out with
  | saturated => exact maskTarget_stepsBy ok width height (by decide) _
  | bad => exact maskTarget_stepsBy ok width height (by decide) _
  | deposit V cl =>
    exact depositTarget_stepsBy width height ok (value V cl rfl) fun x hx => shareWeight_le (split_le_of_mem_targets hx) weight

theorem pixelChange_of_split_zero {out : PixelOutcome} {t : Target} (split : t.split = 0) : pixelChange fd o out t = none := by
  cases out with
  | saturated => exact if_neg fun h => h.1 split
  | bad => exact if_neg fun h => h.1 split
  | deposit V cl => exact if_neg fun h => h.1.1 split

end Pixel

theorem Target.apart_symm : Std.Symm Target.apart := ⟨fun _ _ h => h.symm⟩

/-- Settles O43. -/
theorem pixelOnTheCanvas : Obligations.PixelOnTheCanvas := by
  intro s o fd p x y out res made cells a ts inside off weight takes full field ok width height low errs accumulating ranges value clipped refused
  have ⟨_, _, _, _, length, _⟩ := ok
  have canvas : Canvas o.field fd s := ⟨⟨fd.cells, field, length, accumulating⟩, errs, ranges⟩
  let start : RowRun := ⟨s, res.gainPixel out, made, cells⟩
  have apart : ts.Pairwise Target.apart := targets_apart _ _
  have a_eq : a = ts.foldl (pixelStep o out) start := depositPixel_eq out
  have deposited : Deposited o.field fd (pixelChange fd o out) ts s a.st := by
    rw [a_eq]
    exact (pixelStep_stepsBy ok width height low value _ _).fold ok apart (a := start) canvas
  have masked {flag : MaskFlag} (h : pixelChange fd o out = maskChange fd flag) {t : Target} (ht : t ∈ ts) (split : t.split ≠ 0)
      (within : inside t) : readRecord a.st.mem (off t) = (readRecord s.mem (off t)).flagged flag :=
    deposited.changed t ht _ (by rw [h]; exact if_pos ⟨split, within⟩)
  refine ⟨deposited.touches, deposited.outside, fun i j hi hj none_ => deposited.others i j hi hj fun t ht changes => none_ t ht ?_,
    fun t ht split within => ⟨?_, ?_, ?_⟩, ?_, ?_, ?_⟩
  · exact fun split => changes (pixelChange_of_split_zero split)
  · rintro rfl
    exact masked (flag := .saturated) rfl ht split within
  · rintro rfl
    exact masked (flag := .badPix) rfl ht split within
  · rintro V c rfl
    by_cases weightless : weight t = 0
    · rw [if_pos weightless]
      obtain ⟨hi, hj⟩ := Target.within.bounds within
      refine deposited.others _ _ hi hj fun t' ht' changes ⟨si, sj⟩ => ?_
      obtain ⟨⟨i0, -⟩, j0, -⟩ := within
      have same : t = t' := by
        by_contra other
        have := Target.apart_symm
        exact apart.forall ht ht' other (Prod.ext (by show t.i = t'.i; omega) (by show t.j = t'.j; omega))
      subst same
      exact changes (if_neg fun heavy => heavy.2 weightless)
    · rw [if_neg weightless]
      exact deposited.changed t ht _ (if_pos ⟨⟨split, within⟩, weightless⟩)
  · rintro rfl
    rw [a_eq]
    exact maskTarget_counts ts _
  · rintro rfl
    rw [a_eq]
    exact maskTarget_counts ts _
  · rintro V c rfl
    have counts : Counts fd o s.mem ts start a := by
      rw [a_eq]
      refine depositTargets_count ok width height (value V c rfl) (fun t ht => shareWeight_le (split_le_of_mem_targets ht) low) apart (a := start) canvas ?_ ?_
      · cases c <;> exact clipped
      · cases c <;> exact refused
    refine ⟨?_, counts.made, counts.cells⟩
    rw [counts.res]
    cases c <;> rfl

end Sys2Proof.Machine
end

section
/-! Start marks, and the lane events that are ignored (R14, R16; O22). -/

-- One theorem at a time: the threads of a parallel elaboration reserve more memory than the check allows.
set_option Elab.async false

namespace Sys2Proof.Machine

variable {s : State} {l : LinkNo} {n : LaneNo} {b : Byte}

/-! ### Events that a link does not take (R14) -/

theorem inUse_iff {k : Link} : k.inUse n = true ↔ ∃ st, k.settings = some st ∧ n.val < st.lanes := by
  unfold Link.inUse
  cases k.settings with
  | none => simp
  | some st => simp

theorem inUse_of_settings {k : Link} {st : LinkSettings} (settings : k.settings = some st) (used : n.val < st.lanes) : k.inUse n = true :=
  inUse_iff.mpr ⟨st, settings, used⟩

/-- R14: the events of lane `n` of link `l` are ignored. -/
def State.ignores (s : State) (l : LinkNo) (n : LaneNo) : Prop := s.links[l].phase = .off ∨ s.links[l].inUse n = false

theorem laneStart_of_ignored (ignored : s.ignores l n) : s.laneStart l n = s := by
  unfold State.laneStart
  dsimp only
  rcases ignored with phase | unused
  · rw [phase]
    split <;> rfl
  · rw [unused]
    rfl

theorem laneEnd_of_ignored (ignored : s.ignores l n) : s.laneEnd l n = s := by
  unfold State.laneEnd
  dsimp only
  rcases ignored with phase | unused
  · rw [phase]
    split <;> rfl
  · rw [unused]
    rfl

theorem laneByte_of_ignored (ignored : s.ignores l n) : s.laneByte l n b = s := by
  unfold State.laneByte
  dsimp only
  rcases ignored with phase | unused
  · rw [phase]
    split <;> rfl
  · rw [unused]
    rfl

theorem laneEnd_of_idle (phase : s.links[l].phase = .idle) : s.laneEnd l n = s := by
  unfold State.laneEnd
  dsimp only
  rw [phase]
  split <;> rfl

theorem laneByte_of_idle (phase : s.links[l].phase = .idle) : s.laneByte l n b = s := by
  unfold State.laneByte
  dsimp only
  rw [phase]
  split <;> rfl

/-! ### Start marks (R16) -/

theorem laneStart_of_idle (used : s.links[l].inUse n = true) (phase : s.links[l].phase = .idle) :
    s.laneStart l n = { s with links := s.links.set l (s.links[l].openBurst n) } := by
  unfold State.laneStart
  dsimp only
  rw [used, phase]
  rfl

theorem laneStart_of_waiting (used : s.links[l].inUse n = true) (phase : s.links[l].phase = .burst) (waiting : s.links[l].lanes[n].phase = .waiting) :
    s.laneStart l n = { s with links := s.links.set l (s.links[l].setLane n { s.links[l].lanes[n] with phase := .opened }) } := by
  unfold State.laneStart
  dsimp only
  rw [used, phase]
  dsimp only
  rw [waiting]
  rfl

theorem openBurst_lane (k : Link) (n m : LaneNo) :
    ((k.openBurst n).lanes[m]).phase = (if m = n then .opened else .waiting) ∧ ((k.openBurst n).lanes[m]).held = [] := by
  show (((Vector.replicate 4 Lane.start).set n ⟨.opened, false, []⟩)[m.val]).phase = _ ∧ (((Vector.replicate 4 Lane.start).set n ⟨.opened, false, []⟩)[m.val]).held = []
  rw [Vector.getElem_set]
  by_cases same : m = n
  · subst same
    simp
  · rw [if_neg (fun h => same (Fin.ext h.symm)), if_neg same, Vector.getElem_replicate]
    exact ⟨rfl, rfl⟩

/-! ### The lane commands -/

section Commands
variable {errs : List MemErr} {u : State}

theorem exec_laneStartMark (effect : ({ s with errs := errs } : State).laneStart l n = u) (keeps : KeepsBusy s u) :
    exec (.laneStartMark l n errs) s = .next u := congrArg Host.Outcome.next (stepWith_of_keepsBusy effect keeps)

theorem exec_laneEndMark (effect : ({ s with errs := errs } : State).laneEnd l n = u) (keeps : KeepsBusy s u) :
    exec (.laneEndMark l n errs) s = .next u := congrArg Host.Outcome.next (stepWith_of_keepsBusy effect keeps)

theorem exec_laneDataByte (effect : ({ s with errs := errs } : State).laneByte l n b = u) (keeps : KeepsBusy s u) :
    exec (.laneDataByte l n b errs) s = .next u := congrArg Host.Outcome.next (stepWith_of_keepsBusy effect keeps)

end Commands

/-- Settles O22. -/
theorem startMarksAndIgnoredLaneEvents : Obligations.StartMarksAndIgnoredLaneEvents := by
  intro l n b errs s
  have quiet : KeepsBusy s { s with errs := errs } := .of_frame (touches_errs s errs)
  have linked (L : Vector Link 4) : KeepsBusy s { s with errs := errs, links := L } :=
    .of_frame (ps := [.errs, .links]) ((touches_errs s errs).andThen (touches_links _ L))
  refine ⟨fun ignored => ?_, fun idle => ⟨exec_laneEndMark (laneEnd_of_idle idle) quiet, exec_laneDataByte (laneByte_of_idle idle) quiet⟩,
    fun st settings used => ⟨fun idle => ?_, fun burst waiting => ?_⟩⟩
  · have ignores : ({ s with errs := errs } : State).ignores l n := by
      refine ignored.imp id fun unused => ?_
      rw [← Bool.not_eq_true, inUse_iff]
      rintro ⟨st, settings, used⟩
      exact absurd used (Nat.not_lt.mpr (unused st settings))
    exact ⟨exec_laneStartMark (laneStart_of_ignored ignores) quiet, exec_laneEndMark (laneEnd_of_ignored ignores) quiet,
      exec_laneDataByte (laneByte_of_ignored ignores) quiet⟩
  · exact ⟨s.links[l].openBurst n, exec_laneStartMark (laneStart_of_idle (inUse_of_settings settings used) idle) (linked _), rfl,
      openBurst_lane _ n⟩
  · exact exec_laneStartMark (laneStart_of_waiting (inUse_of_settings settings used) burst waiting) (linked _)

end Sys2Proof.Machine
end

section
/-! A NUDGE over a POSTED order that is not held, its next field 0 (R161, R163, R164, R167, R168): the order is taken, dispatched, and the
walker parked on it. The unit's own part of it is a hypothesis of the rules here. -/

-- One theorem at a time: the threads of a parallel elaboration reserve more memory than the check allows.
set_option Elab.async false

namespace Sys2Proof.Machine

variable {s v x : State} {errs : List MemErr} {kind : Nat}

/-! ### Fields that a write leaves as they were -/

theorem readBytes_of_same {m m' : List Host.Cell} {off n : Nat} (same : ∀ a, off ≤ a → a < off + n → Memory.read m' a = Memory.read m a) :
    Memory.readBytes m' off n = Memory.readBytes m off n := by
  induction n generalizing off with
  | zero => rfl
  | succ n ih =>
    exact congrArg₂ List.cons (same off le_rfl (by omega)) (ih fun a low high => same a (by omega) (by omega))

theorem readNat_of_same {m m' : List Host.Cell} {off n : Nat} (same : ∀ a, off ≤ a → a < off + n → Memory.read m' a = Memory.read m a) :
    Memory.readNat m' off n = Memory.readNat m off n := by
  unfold Memory.readNat
  rw [readBytes_of_same same]

theorem read_of_readNat_ne {m m' : List Host.Cell} {off n : Nat} (h : Memory.readNat m' off n ≠ Memory.readNat m off n) : m' ≠ m := by
  rintro rfl
  exact h rfl

/-! ### The order taken (R163) -/

/-- The part at the dispatch of the order at the cursor: memory errors given, poll timer started, the record marked TAKEN. -/
def State.taken (errs : List MemErr) (s : State) : State := ({ s with errs := errs } : State).startPoll.markTaken s.walker.cursor

theorem taken_touches : Touches [.errs, .walker, .mem] s (s.taken errs) :=
  ((touches_errs s errs).andThen (startPoll_touches _) : Touches [.errs, .walker] _ _).andThen (markTaken_touches _ _)

theorem taken_walker : (s.taken errs).walker = { s.walker with pollTimer := some (s.timeBase + s.port.poll.toNat) } := rfl

theorem taken_errs : (s.taken errs).errs = errs := rfl

theorem taken_mem : (s.taken errs).mem
    = Memory.writeBytes (Memory.writeBytes s.mem s.walker.cursor (leBytes 4 2)) (s.walker.cursor + 24) (leBytes 8 s.timeBase) := rfl

section Record
variable (fits : s.walker.cursor + 128 ≤ Config.memSize)
include fits

theorem taken_word : Memory.readNat (s.taken errs).mem s.walker.cursor 4 = 2 := by
  rw [taken_mem, readNat_writeBytes_apart _ (by omega), readNat_leBytes _ (by omega)]
  rfl

theorem taken_time : Memory.readNat (s.taken errs).mem (s.walker.cursor + 24) 8 = s.timeBase % 2 ^ 64 := by
  rw [taken_mem, readNat_leBytes _ (by omega)]
  rfl

end Record

theorem taken_read {a : Nat} (word : a < s.walker.cursor ∨ s.walker.cursor + 4 ≤ a)
    (time : a < s.walker.cursor + 24 ∨ s.walker.cursor + 32 ≤ a) : Memory.read (s.taken errs).mem a = Memory.read s.mem a := by
  rw [taken_mem, read_writeBytes_apart _ (by omega), read_writeBytes_apart _ (by omega)]

theorem taken_sameOutside : Memory.sameOutside s.mem (s.taken errs).mem s.walker.cursor 128 := fun _ h => taken_read (by omega) (by omega)

/-- The record's fields beside the state word and the take time. -/
theorem taken_readNat (i n : Nat) (outside : (4 ≤ i ∧ i + n ≤ 24) ∨ 32 ≤ i := by decide) :
    Memory.readNat (s.taken errs).mem (s.walker.cursor + i) n = Memory.readNat s.mem (s.walker.cursor + i) n :=
  readNat_of_same fun _ _ _ => taken_read (by omega) (by omega)

/-- The signed fields of the kind parameters. -/
theorem taken_readInt (i n : Nat) (outside : (4 ≤ i ∧ i + n ≤ 24) ∨ 32 ≤ i := by decide) :
    Memory.readInt (s.taken errs).mem (s.walker.cursor + i) n = Memory.readInt s.mem (s.walker.cursor + i) n :=
  congrArg (signed (8 * n)) (taken_readNat i n outside)

/-! ### An order presented -/

/-- What `State.Presents` says, by name. -/
structure Presented (s : State) (kind : Nat) : Prop where
  examines : s.Examines
  unparked : s.walker.parked = false
  passes : offsetPasses s.walker.cursor = true
  word : Memory.readNat s.mem s.walker.cursor 4 = 1
  kind_eq : Memory.readNat s.mem (s.walker.cursor + 4) 1 = kind
  free : s.held (readHead s.mem s.walker.cursor) = false
  next : Memory.readNat s.mem (s.walker.cursor + 8) 8 = 0

theorem State.Presents.presented (h : s.Presents kind) : Presented s kind := by
  obtain ⟨examines, unparked, passes, word, kind_eq, free, next⟩ := h
  exact ⟨examines, unparked, passes, word, kind_eq, free, next⟩

theorem Presented.place (h : Presented s kind) : 0x1000 ≤ s.walker.cursor ∧ s.walker.cursor + 128 ≤ 0x3D8000000 :=
  (offsetPasses_iff.mp h.passes).2

theorem Presented.fits (h : Presented s kind) : s.walker.cursor + 128 ≤ Config.memSize :=
  h.place.2.trans (by decide)

theorem Presented.head_kind (h : Presented s kind) : (readHead s.mem s.walker.cursor).kind = kind := h.kind_eq

/-- An ASSEMBLE is presented with the deposit unit IDLE. -/
theorem Presented.deposit_idle (h : Presented s 1) : s.deposit = .idle := by
  by_contra busy
  have held := held_iff.mpr (Or.inl ⟨h.head_kind, busy⟩)
  rw [h.free] at held
  cases held

/-- An order of another kind is presented with the service unit idle. -/
theorem Presented.service_none (h : Presented s kind) (other : kind ≠ 1) : s.service = none := by
  by_contra busy
  have held := held_iff.mpr (Or.inr (Or.inl ⟨by rw [h.head_kind]; exact other, busy⟩))
  rw [h.free] at held
  cases held

/-! ### Memory noted for reads under way (R8, R74) -/

theorem reading_congr {t : State} (h : t.service = s.service) : t.reading = s.reading := by
  unfold State.reading
  rw [h]

/-- R8, R74: what an effect leaves of the contents noted before the step notes its own. -/
structure NotesKept (s v : State) : Prop where
  reads : s.reading.isSome = true → v.reading = s.reading → v.past = s.past
  ends : v.reading = none → v.past = s.past

theorem NotesKept.of_past (h : v.past = s.past) : NotesKept s v := ⟨fun _ _ => h, fun _ => h⟩

theorem keepsPast_noteMemory {u : State} (h : NotesKept s u) (changed : u.mem ≠ s.mem) :
    s.KeepsPast (u.noteMemory { s with errs := errs }) := by
  have reading : (u.noteMemory { s with errs := errs }).reading = u.reading := reading_congr (noteMemory_touches u _ .service (by decide))
  constructor
  · intro reads same
    rw [reading] at same
    have noted : u.noteMemory { s with errs := errs } = { u with past := u.past ++ [s.mem] } := if_pos ⟨reads, same, changed⟩
    rw [noted]
    exact congrArg (· ++ [s.mem]) (h.reads reads same)
  · intro none_
    rw [reading] at none_
    rw [noteMemory_of_none_reads _ none_]
    exact h.ends none_

theorem NotesKept.of_congr {u : State} (h : NotesKept s v) (service : u.service = v.service) (past : u.past = v.past) : NotesKept s u := by
  refine ⟨fun reads same => past.trans (h.reads reads ?_), fun none_ => past.trans (h.ends ?_)⟩
  · rw [← reading_congr service]
    exact same
  · rw [← reading_congr service]
    exact none_

/-! ### What a retirement leaves waiting for the progress block -/

theorem setWalker_grows (w : Walker) : MirrorGrows s (s.setWalker w) := by
  have set_ : MirrorGrows s { s with walker := w } := .of_eq rfl
  exact ((((((set_.trans (mirrorIf_grows _ _ _ _)).trans (mirrorIf_grows _ _ _ _)).trans (mirrorIf_grows _ _ _ _)).trans
    (mirrorIf_grows _ _ _ _)).trans (mirrorIf_grows _ _ _ _)).trans (mirrorIf_grows _ _ _ _)).trans (mirrorIf_grows _ _ _ _)

theorem raise_grows (c : Cause) : MirrorGrows s (s.raise c) := .of_eq (raise_touches s c .mirror (by decide))

theorem memError_grows (src : MemSource) : MirrorGrows s (s.memError src) := by
  have set_ (a : AlertUnit) : MirrorGrows s { s with alert := a } := .of_eq rfl
  exact ((set_ _).trans (mirrorIf_grows _ _ _ _)).trans (raise_grows _)

theorem faultRecord_grows (why : FaultReason) (off : Nat) : MirrorGrows s (s.faultRecord why off) := (setWalker_grows _).trans (raise_grows _)

theorem retire_grows (off : Nat) (st : Status) (rs : List Nat) : MirrorGrows s (s.retire off st rs) := by
  unfold State.retire
  split
  · exact (memError_grows _).trans (faultRecord_grows _ _)
  · split
    · have written (m : List Host.Cell) : MirrorGrows s { s with mem := m } := .of_eq rfl
      exact ((written _).trans (setWalker_grows _)).trans (.of_eq (alertRetirement_touches _ .mirror (by decide)))
    · exact faultRecord_grows _ _

/-! ### The examination that takes it -/

/-- An effect after which no unit is idle that was busy, over memory that did change: the step notes the old memory and no more. -/
theorem stepWith_of_noLeave {effect : State → State} {u : State} (is_effect : effect { s with errs := errs } = u)
    (deposit : s.depositBusy = true → u.depositBusy = true) (service : s.serviceBusy = true → u.serviceBusy = true) :
    s.stepWith errs effect = u.noteMemory { s with errs := errs } := by
  have busy : ¬ ((s.depositBusy && !u.depositBusy) || (s.serviceBusy && !u.serviceBusy)) = true := by
    cases b : s.depositBusy <;> cases c : s.serviceBusy <;> simp_all
  have no_follow_up : State.afterFlight { s with errs := errs } u = u := if_neg busy
  unfold State.stepWith
  dsimp only
  rw [is_effect, no_follow_up]

section Nudge
variable (h : Presented s kind) (unread : ∀ e ∈ errs, e.by_ = .takeUp)

theorem readErr_of_other_read {u : State} {by_ : ReadBy} (errs_eq : u.errs = errs) (unread : ∀ e ∈ errs, e.by_ = .takeUp) (other : by_ ≠ .takeUp)
    (off n : Nat) : u.readErr by_ off n = false := by
  rw [← Bool.not_eq_true, readErr_iff, errs_eq]
  rintro ⟨e, he, same, -⟩
  exact other (same.symm.trans (unread e he))

include h unread

/-- R161, R163, R164: the order is taken and dispatched, its next field read, and the walker parked on it. -/
theorem nudge_dispatched (dispatched : (s.taken errs).dispatch s.walker.cursor (readHead s.mem s.walker.cursor) = v)
    (cursor : v.walker.cursor = s.walker.cursor) (errs_eq : v.errs = errs) (notes : NotesKept s v)
    (next : Memory.readNat v.mem (s.walker.cursor + 8) 8 = 0) (changed : v.mem ≠ s.mem)
    (deposit : s.depositBusy = true → v.depositBusy = true) (service : s.serviceBusy = true → v.serviceBusy = true) :
    ∃ t, (∀ w, exec (.nudge w errs) s = .next t) ∧ Touches [.past, .walker, .mirror] v t ∧ s.KeepsPast t
      ∧ t.walker = { v.walker with parked := true } ∧ (s.reading = none → t.past = v.past) ∧ MirrorGrows v t := by
  have once : ({ s with errs := errs } : State).examineOnce = (v.setWalker { v.walker with parked := true }, false) := by
    refine (examineOnce_of_posted (s := { s with errs := errs }) h.unparked h.passes
      (readErr_of_other_read rfl unread (by decide) _ _) h.word h.free).trans ?_
    refine (congrArg State.followNext dispatched).trans ?_
    rw [followNext_of_zero (readErr_of_other_read errs_eq unread (by decide) _ _) (by rw [cursor]; exact next)]
  have effect := examine_of_once (s := { s with errs := errs }) h.examines once
  have parks := setWalker_touches v { v.walker with parked := true }
  have notes' := notes.of_congr (parks .service (by decide)) (parks .past (by decide))
  have mem : (v.setWalker { v.walker with parked := true }).mem = v.mem := parks .mem (by decide)
  refine ⟨(v.setWalker { v.walker with parked := true }).noteMemory { s with errs := errs }, fun w => ?_,
    parks.andThen (noteMemory_touches _ _), keepsPast_noteMemory notes' (by rw [mem]; exact changed), ?_, fun none_ => ?_,
    (setWalker_grows _).trans (.of_eq (noteMemory_touches _ _ .mirror (by decide)))⟩
  · rw [exec_nudge]
    refine congrArg Host.Outcome.next (stepWith_of_noLeave effect (fun busy => ?_) fun busy => ?_)
    · rw [State.depositBusy, State.assembly, parks .deposit (by decide)]
      exact deposit busy
    · rw [State.serviceBusy, parks .service (by decide)]
      exact service busy
  · rw [noteMemory_touches _ _ .walker (by decide), setWalker_walker]
  · exact (congrArg State.past (noteMemory_of_not_reading _ ({ s with errs := errs } : State) none_)).trans (parks .past (by decide))

/-- R167, R168: the order retires in the examination that takes it. -/
theorem nudge_retires {st : Status} {rs : List Nat}
    (dispatched : (s.taken errs).dispatch s.walker.cursor (readHead s.mem s.walker.cursor) = x.retire s.walker.cursor st rs)
    (walker : x.walker = (s.taken errs).walker) (mem : x.mem = (s.taken errs).mem) (errs_eq : x.errs = errs) (time : x.timeBase = s.timeBase)
    (notes : NotesKept s x)
    (deposit : s.depositBusy = true → x.depositBusy = true) (service : s.serviceBusy = true → x.serviceBusy = true) :
    ∃ t, (∀ w, exec (.nudge w errs) s = .next t) ∧ Touches [.mem, .past, .walker, .mirror, .alert, .messages] x t ∧ s.KeepsPast t
      ∧ Memory.recordShows t.mem s.walker.cursor st rs s.timeBase ∧ Memory.readNat t.mem (s.walker.cursor + 24) 8 = s.timeBase % 2 ^ 64
      ∧ Memory.sameOutside s.mem t.mem s.walker.cursor 128
      ∧ t.walker = { s.parkedWalker with retired := (s.walker.retired + 1) % 2 ^ 32, lastRetired := s.walker.cursor }
      ∧ t.alert = x.alertRetirement.alert ∧ t.messages = x.alertRetirement.messages ∧ MirrorGrows x t := by
  have unmet : x.readErr .reread s.walker.cursor 4 = false := readErr_of_other_read errs_eq unread (by decide) _ _
  have taken : Memory.readNat x.mem s.walker.cursor 4 = 2 := by
    rw [mem]
    exact taken_word h.fits
  have retired := retire_touches x s.walker.cursor st rs
  have retired_mem : (x.retire s.walker.cursor st rs).mem = recordResults s.walker.cursor st rs s.timeBase (s.taken errs).mem := by
    rw [retire_mem unmet taken, time, mem]
  have retired_walker : (x.retire s.walker.cursor st rs).walker
      = { s.walker with
        pollTimer := some (s.timeBase + s.port.poll.toNat)
        retired := (s.walker.retired + 1) % 2 ^ 32
        lastRetired := s.walker.cursor } := by
    rw [retire_walker unmet taken, State.retiredWalker, walker]
    rfl
  have shows_ := recordResults_shows st rs s.timeBase (s.taken errs).mem h.fits
  have untouched (i n : Nat) (inside : 8 ≤ i ∧ i + n ≤ 32) :
      Memory.readNat (recordResults s.walker.cursor st rs s.timeBase (s.taken errs).mem) (s.walker.cursor + i) n
        = Memory.readNat (s.taken errs).mem (s.walker.cursor + i) n :=
    readNat_of_same fun a _ _ => read_recordResults_outside _ _ _ _ (by omega)
  obtain ⟨t, step, touches, keeps, parked, -, grows⟩ := nudge_dispatched h unread dispatched (by rw [retired_walker])
    ((retired .errs (by decide)).trans errs_eq) (notes.of_congr (retired .service (by decide)) (retired .past (by decide)))
    (by rw [retired_mem, untouched 8 8 (by decide), taken_readNat 8 8, h.next])
    (by
      rw [retired_mem]
      refine read_of_readNat_ne (off := s.walker.cursor) (n := 4) ?_
      rw [h.word, shows_.1]
      split <;> decide)
    (fun busy => by
      rw [State.depositBusy, State.assembly, retired .deposit (by decide)]
      exact deposit busy)
    (fun busy => by
      rw [State.serviceBusy, retired .service (by decide)]
      exact service busy)
  have mem_eq : t.mem = _ := (touches .mem (by decide)).trans retired_mem
  obtain ⟨alert, messages⟩ := retire_alert (st := st) (rs := rs) unmet taken
  refine ⟨t, step, retired.andThen touches, keeps, by rw [mem_eq]; exact shows_, ?_, fun a outside => ?_, ?_,
    (touches .alert (by decide)).trans alert, (touches .messages (by decide)).trans messages, (retire_grows _ _ _).trans grows⟩
  · rw [mem_eq, untouched 24 8 (by decide), taken_time h.fits]
  · rw [mem_eq, recordResults_sameOutside _ _ _ _ _ a outside]
    exact taken_sameOutside a outside
  · rw [parked, retired_walker]
    rfl

end Nudge

/-! ### The take-up as the obligations state it -/

section TakeUp
variable (h : Presented s kind) {ps : List Part}
include h

/-- R166, R167: the order is in flight. -/
theorem takesInto (dispatched : (s.taken []).dispatch s.walker.cursor (readHead s.mem s.walker.cursor) = v)
    (frame : Touches (.past :: ps) (s.taken []) v) (notes : NotesKept s v)
    (deposit : s.depositBusy = true → v.depositBusy = true) (service : s.serviceBusy = true → v.serviceBusy = true)
    (mem : Part.mem ∉ Part.past :: ps := by decide) (walker : Part.walker ∉ Part.past :: ps := by decide)
    (no_errs : Part.errs ∉ Part.past :: ps := by decide) :
    ∃ t, s.TakesInto t ps ∧ Touches [.past, .walker, .mirror] v t ∧ (s.reading = none → t.past = v.past) := by
  have v_mem := frame .mem mem
  have v_walker := frame .walker walker
  obtain ⟨t, step, touches, keeps, parked, past, -⟩ := nudge_dispatched h (by simp) dispatched (congrArg Walker.cursor v_walker : v.walker.cursor = (s.taken []).walker.cursor) (frame .errs no_errs) notes
    (by rw [v_mem, taken_readNat 8 8, h.next])
    (by
      rw [v_mem]
      refine read_of_readNat_ne (off := s.walker.cursor) (n := 4) ?_
      rw [h.word, taken_word h.fits]
      decide) deposit service
  have t_mem : t.mem = (s.taken []).mem := (touches .mem (by decide)).trans v_mem
  refine ⟨t, ⟨step, fun p hp => ?_, keeps, ?_, ?_, fun a word time => ?_, ?_⟩, touches, past⟩
  · simp only [List.mem_cons, not_or] at hp
    obtain ⟨not_mem, not_past, not_walker, not_mirror, not_errs, not_ps⟩ := hp
    have first := taken_touches (s := s) (errs := []) p (by simp [not_mem, not_walker, not_errs])
    exact State.sameAt_trans (State.sameAt_trans first (frame p (by simp [not_past, not_ps]))) (touches p (by simp [not_past, not_walker, not_mirror]))
  · rw [t_mem, taken_word h.fits]
  · rw [t_mem, taken_time h.fits]
  · rw [t_mem, taken_read word time]
  · rw [parked, v_walker]
    rfl

/-- R167, R168: the order retires at its take-up, after an effect on the parts listed. -/
theorem takesAndRetires {st : Status} {rs : List Nat}
    (dispatched : (s.taken []).dispatch s.walker.cursor (readHead s.mem s.walker.cursor) = x.retire s.walker.cursor st rs)
    (frame : Touches (.mirror :: ps) (s.taken []) x)
    (deposit : s.depositBusy = true → x.depositBusy = true) (service : s.serviceBusy = true → x.serviceBusy = true)
    (mem : Part.mem ∉ Part.mirror :: ps := by decide) (walker : Part.walker ∉ Part.mirror :: ps := by decide)
    (no_errs : Part.errs ∉ Part.mirror :: ps := by decide) (past : Part.past ∉ Part.mirror :: ps := by decide)
    (alert : Part.alert ∉ Part.mirror :: ps := by decide) (messages : Part.messages ∉ Part.mirror :: ps := by decide)
    (port : Part.port ∉ Part.mirror :: ps := by decide) (time : Part.timeBase ∉ Part.mirror :: ps := by decide) :
    ∃ t, s.TakesAndRetires t st rs ps ∧ Touches [.mem, .past, .walker, .mirror, .alert, .messages] x t ∧ MirrorGrows x t := by
  obtain ⟨t, step, touches, keeps, shows_, took, outside, parked, t_alert, t_messages, grows⟩ := nudge_retires h (by simp) dispatched
    (frame .walker walker) (frame .mem mem) (frame .errs no_errs) (frame .timeBase time) (.of_past (frame .past past)) deposit service
  obtain ⟨alert_eq, messages_eq⟩ := alertRetirement_congr (s := s) (t := x) (frame .alert alert) (frame .port port) (frame .timeBase time)
    (frame .messages messages)
  refine ⟨t, ⟨step, fun p hp => ?_, keeps, shows_, took, outside, parked, t_alert.trans alert_eq, t_messages.trans messages_eq⟩, touches, grows⟩
  simp only [List.mem_cons, not_or] at hp
  obtain ⟨not_mem, not_past, not_walker, not_mirror, not_alert, not_messages, not_errs, not_ps⟩ := hp
  have first := taken_touches (s := s) (errs := []) p (by simp [not_mem, not_walker, not_errs])
  exact State.sameAt_trans (State.sameAt_trans first (frame p (by simp [not_mirror, not_ps])))
    (touches p (by simp [not_mem, not_past, not_walker, not_mirror, not_alert, not_messages]))

/-- R167, R168: the order fails at its take-up. -/
theorem failsTakeUp {st : Status}
    (dispatched : (s.taken []).dispatch s.walker.cursor (readHead s.mem s.walker.cursor) = (s.taken []).retire s.walker.cursor st []) :
    s.FailsTakeUp st := by
  obtain ⟨t, takes, -⟩ := takesAndRetires h (ps := []) dispatched (Touches.refl _ _) (fun busy => busy) fun busy => busy
  exact ⟨t, takes⟩

end TakeUp

/-! ### The dispatch, by kind (R167) -/

section Dispatch
variable {off : Nat} {head : OrderHead}

theorem dispatch_of_unknown (unknown : head.kind = 0 ∨ 7 < head.kind) : s.dispatch off head = s.retire off .badKind [] := if_pos unknown

theorem dispatch_of_unread (known : ¬ (head.kind = 0 ∨ 7 < head.kind)) (met : s.readErr .takeUp (off + 40) 44 = true) :
    s.dispatch off head = s.failUnread off head := by
  unfold State.dispatch
  rw [if_neg known, if_pos met]

variable (no_errs : s.errs = [])
include no_errs

theorem dispatch_of_read (known : ¬ (head.kind = 0 ∨ 7 < head.kind)) : s.dispatch off head
    = if head.kind = 1 then s.takeAssemble off head.tag head.field head.bank
      else if head.kind = 2 then s.takeFinalize off head.field
      else if head.kind = 3 then s.takeClear off head.field
      else if head.kind = 4 then s.takeDefineField off head.field
      else if head.kind = 5 then s.takeDefineBank off head.bank
      else if head.kind = 6 then s.takeDiscard off head.tag
      else s.takeLoadMap off := by
  unfold State.dispatch
  rw [if_neg known, if_neg (by rw [readErr_of_no_errs no_errs]; decide)]

theorem dispatch_assemble (kind : head.kind = 1) : s.dispatch off head = s.takeAssemble off head.tag head.field head.bank := by
  rw [dispatch_of_read no_errs (by omega), if_pos kind]

theorem dispatch_finalize (kind : head.kind = 2) : s.dispatch off head = s.takeFinalize off head.field := by
  rw [dispatch_of_read no_errs (by omega), if_neg (by omega), if_pos kind]

theorem dispatch_clear (kind : head.kind = 3) : s.dispatch off head = s.takeClear off head.field := by
  rw [dispatch_of_read no_errs (by omega), if_neg (by omega), if_neg (by omega), if_pos kind]

theorem dispatch_defineField (kind : head.kind = 4) : s.dispatch off head = s.takeDefineField off head.field := by
  rw [dispatch_of_read no_errs (by omega), if_neg (by omega), if_neg (by omega), if_neg (by omega), if_pos kind]

theorem dispatch_defineBank (kind : head.kind = 5) : s.dispatch off head = s.takeDefineBank off head.bank := by
  rw [dispatch_of_read no_errs (by omega), if_neg (by omega), if_neg (by omega), if_neg (by omega), if_neg (by omega), if_pos kind]

theorem dispatch_discard (kind : head.kind = 6) : s.dispatch off head = s.takeDiscard off head.tag := by
  rw [dispatch_of_read no_errs (by omega), if_neg (by omega), if_neg (by omega), if_neg (by omega), if_neg (by omega), if_neg (by omega),
    if_pos kind]

theorem dispatch_loadMap (kind : head.kind = 7) : s.dispatch off head = s.takeLoadMap off := by
  rw [dispatch_of_read no_errs (by omega), if_neg (by omega), if_neg (by omega), if_neg (by omega), if_neg (by omega), if_neg (by omega),
    if_neg (by omega)]

end Dispatch

end Sys2Proof.Machine
end

section
/-! Take-ups that end where they begin: an unknown kind, a record that does not read (R167; O18), and DEFINE_FIELD (R107, R108; O19). -/

-- One theorem at a time: the threads of a parallel elaboration reserve more memory than the check allows.
set_option Elab.async false

namespace Sys2Proof.Machine

variable {s : State} {kind : Nat}

/-! ### The hold test's reading (R164) -/

theorem readHead_field (m : List Host.Cell) {off : Nat} (other : Memory.readNat m (off + 4) 1 ≠ 1) :
    (readHead m off).field = Memory.readNat m (off + 40) 1 := if_neg other

theorem readHead_bank (m : List Host.Cell) {off : Nat} (other : Memory.readNat m (off + 4) 1 ≠ 1) :
    (readHead m off).bank = Memory.readNat m (off + 40) 1 := if_neg other

theorem Presented.head_field (h : Presented s kind) (other : kind ≠ 1) :
    (readHead s.mem s.walker.cursor).field = Memory.readNat s.mem (s.walker.cursor + 40) 1 :=
  readHead_field _ (by rw [h.kind_eq]; exact other)

theorem Presented.head_bank (h : Presented s kind) (other : kind ≠ 1) :
    (readHead s.mem s.walker.cursor).bank = Memory.readNat s.mem (s.walker.cursor + 40) 1 :=
  readHead_bank _ (by rw [h.kind_eq]; exact other)

theorem idx?_val {k : Nat} (i : Fin k) : idx? k i.val = some i := dif_pos i.isLt

theorem idx?_of_ge {k n : Nat} (h : k ≤ n) : idx? k n = none := dif_neg (Nat.not_lt.mpr h)

theorem emptyBank_of_number {n : Nat} {k : Fin 8} (number : n = k.val) : s.emptyBank n = { s with banks := s.banks.set k none } := by
  subst number
  unfold State.emptyBank
  rw [idx?_val]

theorem emptyBank_of_no_bank {n : Nat} (number : 7 < n) : s.emptyBank n = s := by
  unfold State.emptyBank
  rw [idx?_of_ge number]

/-! ### A take-up read that meets memory errors -/

/-- R167: what a take-up that does not read leaves for the retirement: a DEFINE_BANK's entry emptied and the error counted. -/
def State.unread (h : OrderHead) (s : State) : State := (if h.kind = 5 then s.emptyBank h.bank else s).memError .orderRecords

theorem unread_touches (h : OrderHead) :
    Touches (.alert :: .mirror :: .messages :: if h.kind = 5 then [.banks] else []) s (s.unread h) := by
  unfold State.unread
  split
  · exact (emptyBank_touches s _).andThen (memError_touches _ _)
  · exact memError_touches s _

theorem memError_alert_congr {t : State} (h : t.alert = s.alert) (src : MemSource) : (t.memError src).alert = (s.memError src).alert := by
  rw [memError_alert, memError_alert, h]

theorem unread_alert (h : OrderHead) : (s.unread h).alert = (s.memError .orderRecords).alert := by
  refine memError_alert_congr ?_ _
  split
  · exact emptyBank_touches s _ .alert (by decide)
  · rfl

theorem unread_banks {h : OrderHead} (kind : h.kind = 5) : (s.unread h).banks = (s.emptyBank h.bank).banks := by
  unfold State.unread
  rw [if_pos kind, memError_touches _ _ .banks (by decide)]

/-- Settles O18. -/
theorem unknownKindAndUnreadableOrderFail : Obligations.UnknownKindAndUnreadableOrderFail := by
  intro s kind presents c
  have h := presents.presented
  refine ⟨fun unknown => failsTakeUp h (dispatch_of_unknown (by rw [h.head_kind]; exact unknown)), fun w errs low high takeUp met => ?_⟩
  have unread_read : (s.taken errs).readErr .takeUp (c + 40) 44 = true := by
    rw [readErr_iff]
    obtain ⟨e, he, from_, below⟩ := met
    exact ⟨e, he, takeUp e he, from_, below⟩
  have dispatched : (s.taken errs).dispatch c (readHead s.mem c)
      = ((s.taken errs).unread (readHead s.mem c)).retire c .memoryFault [] :=
    dispatch_of_unread (by rw [h.head_kind]; omega) unread_read
  have frame : Touches (.alert :: .mirror :: .messages :: if kind = 5 then [.banks] else []) (s.taken errs)
      ((s.taken errs).unread (readHead s.mem c)) := by
    have all := unread_touches (s := s.taken errs) (readHead s.mem c)
    rwa [h.head_kind] at all
  -- Parts that neither the unread take-up nor the retirement and the parked walker change.
  have part {p : Part} (banks : p ≠ .banks := by decide) (rest : p ∉ [Part.alert, .mirror, .messages] := by decide) :
      (s.taken errs).sameAt ((s.taken errs).unread (readHead s.mem c)) p := by
    refine frame p ?_
    simp only [List.mem_cons, List.not_mem_nil, or_false] at rest ⊢
    split <;> simp_all
  obtain ⟨t, step, touches, keeps, shows_, took, outside, walker, alert, -⟩ := nudge_retires h takeUp dispatched (part (p := .walker)) (part (p := .mem))
    (part (p := .errs)) (part (p := .timeBase)) (.of_past (part (p := .past)))
    (fun busy => by
      rw [State.depositBusy, State.assembly, part (p := .deposit)]
      exact busy)
    (fun busy => by
      rw [State.serviceBusy, part (p := .service)]
      exact busy)
  have t_banks : t.banks = ((s.taken errs).unread (readHead s.mem c)).banks := touches .banks (by decide)
  have errors : ((s.taken errs).unread (readHead s.mem c)).alert = { s.alert with
      pending := { s.alert.pending with fault := true }
      memErrors := s.alert.memErrors.set 3 (min (s.alert.memErrors[3] + 1) 4294967295) } := by
    rw [unread_alert, memError_alert]
    rfl
  rw [alertRetirement_alert, errors] at alert
  refine ⟨t, step w, fun p hp => ?_, keeps, fun k five bank => ?_, fun no_bank => ?_, shows_, took, outside, walker, ?_, ?_, ?_⟩
  · simp only [List.mem_cons, not_or] at hp
    obtain ⟨not_mem, not_past, not_walker, not_mirror, not_alert, not_messages, not_errs, not_banks⟩ := hp
    have first := taken_touches (s := s) (errs := errs) p (by simp [not_mem, not_walker, not_errs])
    exact State.sameAt_trans (State.sameAt_trans first (frame p (by simp [not_alert, not_mirror, not_messages, not_banks])))
      (touches p (by simp [not_mem, not_past, not_walker, not_mirror, not_alert, not_messages]))
  · rw [t_banks, unread_banks (h.head_kind.trans five), emptyBank_of_number ((h.head_bank (by omega)).trans bank)]
    rfl
  · by_cases five : kind = 5
    · rw [t_banks, unread_banks (h.head_kind.trans five), emptyBank_of_no_bank (by rw [h.head_bank (by omega)]; exact no_bank)]
      rfl
    · rw [t_banks, frame .banks (by simp [five])]
      rfl
  · rw [alert]
    dsimp only
    split <;> rfl
  · rw [alert]
  · rw [alert]

/-! ### DEFINE_FIELD (R107, R108) -/

theorem sizeFits_iff {cols rows : Nat} :
    sizeFits cols rows = true ↔ (cols = 0 ∧ rows = 0) ∨ ((1 ≤ cols ∧ cols ≤ 40) ∧ 1 ≤ rows ∧ rows ≤ 40) := by
  simp [sizeFits, and_assoc]

theorem vacantAt_iff {f : Fin 4} : s.vacantAt f = true ↔ ∀ g, s.fields[f] = some g → ∀ d ∈ g.cells, d.state = .vacant := by
  unfold State.vacantAt
  cases s.fields[f] with
  | none => simp
  | some g => simp [Field.allVacant]

theorem clearOfOthers_iff {f : Fin 4} {off n : Nat} : s.clearOfOthers f off n = true
    ↔ ∀ (i : Fin 4) (g : Field), i ≠ f → s.fields[i] = some g → ¬ Shares off n g.base (g.cols * g.rows * 1572864) := by
  unfold State.clearOfOthers
  simp only [List.all_eq_true, List.mem_finRange, forall_true_left, Bool.or_eq_true, decide_eq_true_eq]
  refine forall_congr' fun i => ?_
  cases s.fields[i] with
  | none => simp
  | some g =>
    have apart : overlaps off n g.base g.regionBytes = true ↔ Shares off n g.base (g.cols * g.rows * 1572864) := by
      rw [overlaps_iff]
      exact exists_congr fun x => (and_assoc (a := off ≤ x)).symm
    simp only [Option.some.injEq, Bool.not_eq_true', ← Bool.not_eq_true, apart]
    by_cases i = f <;> simp_all

/-- R107, R108: the dispatch of a DEFINE_FIELD reads its record as it stood before the take-up. -/
theorem dispatch_taken_defineField (h : Presented s 4) : (s.taken []).dispatch s.walker.cursor (readHead s.mem s.walker.cursor)
    = match s.checkDefine (Memory.readNat s.mem (s.walker.cursor + 40) 1) (Memory.readNat s.mem (s.walker.cursor + 41) 1)
        (Memory.readNat s.mem (s.walker.cursor + 42) 1) (Memory.readInt s.mem (s.walker.cursor + 44) 4)
        (Memory.readInt s.mem (s.walker.cursor + 48) 4) (Memory.readNat s.mem (s.walker.cursor + 56) 8) with
      | .error st => (s.taken []).retire s.walker.cursor st []
      | .ok (k, f) => ((s.taken []).setField k f).retire s.walker.cursor .ok [] := by
  rw [dispatch_defineField rfl h.head_kind, h.head_field (by decide)]
  unfold State.takeDefineField
  rw [taken_readNat 41 1, taken_readNat 42 1, taken_readInt 44 4, taken_readInt 48 4, taken_readNat 56 8]
  rfl

/-- Settles O19. -/
theorem defineFieldOrderRunsWhole : Obligations.DefineFieldOrderRunsWhole := by
  intro s presents c number cols rows base size sized fits
  have h := presents.presented
  have dispatched := dispatch_taken_defineField h
  have fails {st : Status} (check : s.checkDefine number cols rows (Memory.readInt s.mem (c + 44) 4) (Memory.readInt s.mem (c + 48) 4) base
      = .error st) : s.FailsTakeUp st := failsTakeUp h (dispatched.trans (by rw [check]))
  refine ⟨fun no_field => fails ?_, fun f is_field => ?_⟩
  · unfold State.checkDefine
    rw [idx?_of_ge no_field]
  intro vacant apart carriedOut
  have checks := checkDefine_of_number (k := f) (show idx? 4 number = some f by rw [is_field, idx?_val]) s cols rows
    (Memory.readInt s.mem (c + 44) 4) (Memory.readInt s.mem (c + 48) 4) base
  have carries {x : Option Field} (check : s.checkDefine number cols rows (Memory.readInt s.mem (c + 44) 4)
      (Memory.readInt s.mem (c + 48) 4) base = .ok (f, x)) : carriedOut x := by
    obtain ⟨t, takes, touches, -⟩ := takesAndRetires h (ps := [.fields]) (dispatched.trans (by rw [check])) ((setField_touches _ f x).mono)
      (fun busy => busy) fun busy => busy
    exact ⟨t, takes, touches .fields (by decide)⟩
  have passes (sz : sized) : ¬ (!sizeFits cols rows) = true := by
    rw [sizeFits_iff.mpr sz]
    decide
  have empty (vac : vacant) : ¬ s.vacantAt f = false := by
    rw [vacantAt_iff.mpr vac]
    decide
  have region : (base % 4096 = 0 ∧ inGeneral base (cols * rows * Config.cellBytes) = true) ↔ fits :=
    and_congr_right fun _ => inGeneral_iff
  have clear : s.clearOfOthers f base (cols * rows * Config.cellBytes) = true ↔ apart := clearOfOthers_iff
  refine ⟨fun not_sized => fails ?_, fun sz busy => fails ?_, fun sz vac none_ => carries ?_, fun sz vac some_ bad => fails ?_,
    fun sz vac some_ good shared => fails ?_, fun sz vac some_ good apart_ => carries ?_⟩
  · rw [checks, if_pos]
    rw [Bool.not_eq_true', ← Bool.not_eq_true, sizeFits_iff]
    exact not_sized
  · rw [checks, if_neg (passes sz), if_pos]
    rw [← Bool.not_eq_true, vacantAt_iff]
    exact busy
  · rw [checks, if_neg (passes sz), if_neg (empty vac), if_pos none_]
  · rw [checks, if_neg (passes sz), if_neg (empty vac), if_neg (by omega), if_pos (mt region.mp bad)]
  · rw [checks, if_neg (passes sz), if_neg (empty vac), if_neg (by omega), if_neg (not_not.mpr (region.mpr good)), if_pos]
    rw [Bool.not_eq_true', ← Bool.not_eq_true, clear]
    exact shared
  · rw [checks, if_neg (passes sz), if_neg (empty vac), if_neg (by omega), if_neg (not_not.mpr (region.mpr good)), if_neg]
    · rfl
    · rw [clear.mpr apart_]
      decide

end Sys2Proof.Machine
end

section
/-! What a step makes of an order that leaves flight (R161, R162, R168), and CLEAR_FIELD (R122, R123; O44). -/

-- One theorem at a time: the threads of a parallel elaboration reserve more memory than the check allows.
set_option Elab.async false

namespace Sys2Proof.Machine

variable {s u x : State} {errs : List MemErr} {effect : State → State} {kind rec : Nat} {st : Status} {rs : List Nat}

/-! ### Leaving flight -/

theorem afterFlight_of_halted (before : State) (halted : u.Halted) : State.afterFlight before u = u := by
  obtain ⟨state, run⟩ := halted
  have nothing : u.examine = u := examine_of_not_examines fun ex => by
    rw [ex.1] at state
    cases state
  unfold State.afterFlight
  rw [if_pos run, nothing, ite_self]

/-- R162: the service order of the state before has left flight in the state after. -/
structure ServiceLeft (s u : State) : Prop where
  before : s.service ≠ none
  after : u.service = none

section Left
variable (left : ServiceLeft s u)
include left

theorem ServiceLeft.leaves : ((s.depositBusy && !u.depositBusy) || (s.serviceBusy && !u.serviceBusy)) = true := by
  rw [serviceBusy_eq_true_iff.mpr left.before, serviceBusy_eq_false_iff.mpr left.after]
  simp

theorem afterFlight_of_left_run (run : u.port.control.run = true) : State.afterFlight s u = u.examine := by
  unfold State.afterFlight
  rw [if_pos left.leaves, if_pos run]

theorem afterFlight_of_left_stays (run : u.port.control.run = false) (stays : u.deposit ≠ .idle ∨ u.walker.state = .stopped) :
    State.afterFlight s u = u := by
  unfold State.afterFlight
  rw [if_pos left.leaves, if_neg (by rw [run]; decide), if_pos]
  rw [Bool.or_eq_true, decide_eq_true_eq, anyInFlight_eq_true_iff]
  exact stays.imp (fun busy idle => busy idle.1) id

theorem afterFlight_of_left_stops (run : u.port.control.run = false) (idle : u.deposit = .idle) (running : u.walker.state ≠ .stopped) :
    State.afterFlight s u = u.stopWalker := by
  unfold State.afterFlight
  rw [if_pos left.leaves, if_neg (by rw [run]; decide), if_neg]
  rw [Bool.or_eq_true, decide_eq_true_eq, anyInFlight_eq_true_iff]
  rintro (busy | stopped)
  · exact busy ⟨idle, left.after⟩
  · exact running stopped

end Left

/-- A step whose end is `u`, no service order in flight then. -/
theorem stepWith_of_afterFlight {v : State} (is_effect : effect { s with errs := errs } = v)
    (follow_up : State.afterFlight { s with errs := errs } v = u) (none_ : u.service = none) : s.stepWith errs effect = u := by
  unfold State.stepWith
  dsimp only
  rw [is_effect, follow_up, noteMemory_of_none_reads _ (reading_of_no_service none_)]

/-- A service order that ends under a HALTED walker: its effect is all that the step makes. -/
theorem stepWith_of_halted (is_effect : effect { s with errs := errs } = u) (halted : u.Halted) (none_ : u.service = none) :
    s.stepWith errs effect = u := stepWith_of_afterFlight is_effect (afterFlight_of_halted _ halted) none_

/-! ### A retirement and what follows it -/

/-- The state in which an order retires: its record still TAKEN, and everything that the retirement reads as it was before the step. -/
structure Retiring (s x : State) (rec : Nat) : Prop where
  unmet : x.readErr .reread rec 4 = false
  mem : x.mem = s.mem
  walker : x.walker = s.walker
  port : x.port = s.port
  time : x.timeBase = s.timeBase
  ackCount : x.alert.ackCount = s.alert.ackCount
  fits : rec + 128 ≤ Config.memSize
  taken : Memory.readNat s.mem rec 4 = 2

theorem Retiring.of_touches {ps : List Part} (frame : Touches ps s x) (unmet : x.readErr .reread rec 4 = false)
    (fits : rec + 128 ≤ Config.memSize) (taken : Memory.readNat s.mem rec 4 = 2) (mem : Part.mem ∉ ps := by decide)
    (walker : Part.walker ∉ ps := by decide) (port : Part.port ∉ ps := by decide) (time : Part.timeBase ∉ ps := by decide)
    (alert : Part.alert ∉ ps := by decide) : Retiring s x rec :=
  ⟨unmet, frame .mem mem, frame .walker walker, frame .port port, frame .timeBase time, congrArg AlertUnit.ackCount (frame .alert alert), fits, taken⟩

theorem Retiring.of_frame {ps : List Part} (frame : Touches ps ({ s with errs := [] } : State) x) (fits : rec + 128 ≤ Config.memSize)
    (taken : Memory.readNat s.mem rec 4 = 2) (errs : Part.errs ∉ ps := by decide) (mem : Part.mem ∉ ps := by decide)
    (walker : Part.walker ∉ ps := by decide) (port : Part.port ∉ ps := by decide) (time : Part.timeBase ∉ ps := by decide)
    (alert : Part.alert ∉ ps := by decide) : Retiring s x rec :=
  ⟨readErr_of_no_errs (frame .errs errs) _ _ _, frame .mem mem, frame .walker walker, frame .port port, frame .timeBase time,
    congrArg AlertUnit.ackCount (frame .alert alert), fits, taken⟩

section Retiring
variable (h : Retiring s x rec)
include h

theorem Retiring.taken_here : Memory.readNat x.mem rec 4 = 2 := by
  rw [h.mem]
  exact h.taken

theorem Retiring.retire_mem : (x.retire rec st rs).mem = recordResults rec st rs s.timeBase s.mem := by
  rw [Machine.retire_mem h.unmet h.taken_here, h.time, h.mem]

theorem Retiring.retire_walker : (x.retire rec st rs).walker = s.retiredWalker rec := by
  rw [Machine.retire_walker h.unmet h.taken_here, State.retiredWalker, h.walker]
  rfl

/-- R168, R174: the retirement, and whatever walker the step then leaves. -/
theorem Retiring.retiresAnd {t : State} (after : Touches [.walker, .mirror] (x.retire rec st rs) t) :
    s.RetiresAnd t rec st rs t.walker := by
  refine ⟨?_, ?_, rfl, ?_⟩
  · rw [after .mem (by decide), h.retire_mem]
    exact recordResults_shows _ _ _ _ h.fits
  · rw [after .mem (by decide), h.retire_mem]
    exact recordResults_sameOutside _ _ _ _ _
  · rw [after .alert (by decide), retire_ackCount h.unmet h.taken_here, h.ackCount]

theorem Retiring.retires : s.Retires (x.retire rec st rs) rec st rs := by
  have all := h.retiresAnd (Touches.refl _ (x.retire rec st rs))
  rwa [h.retire_walker] at all

theorem Retiring.retire_port : (x.retire rec st rs).port = s.port := (retire_touches x rec st rs .port (by decide)).trans h.port

theorem Retiring.retire_halted (halted : s.Halted) : (x.retire rec st rs).Halted := by
  refine ⟨?_, ?_⟩
  · rw [h.retire_walker]
    exact halted.1
  · rw [h.retire_port]
    exact halted.2

/-- R161, R163, R164: the examination after a retirement that finds nothing to take. -/
theorem Retiring.examine_waits (no_errs : x.errs = []) (ex : s.Examines) (waits : s.WaitsBeside rec) : (x.retire rec st rs).examine = (x.retire rec st rs).startPoll := by
  have walker := h.retire_walker (st := st) (rs := rs)
  have cursor : (x.retire rec st rs).walker.cursor = s.walker.cursor := by rw [walker]; rfl
  have no_errs' : (x.retire rec st rs).errs = [] := (retire_touches x rec st rs .errs (by decide)).trans no_errs
  have field {i n : Nat} (untouched : (8 ≤ i ∧ i + n ≤ 32) ∨ i + n ≤ 128 ∧ (s.walker.cursor + 128 ≤ rec ∨ rec + 128 ≤ s.walker.cursor))
      (place : s.walker.cursor = rec ∨ s.walker.cursor + 128 ≤ rec ∨ rec + 128 ≤ s.walker.cursor) :
      Memory.readNat (x.retire rec st rs).mem (s.walker.cursor + i) n = Memory.readNat s.mem (s.walker.cursor + i) n := by
    rw [h.retire_mem]
    exact readNat_of_same fun a _ _ => read_recordResults_outside _ _ _ _ (by omega)
  refine examine_of_once ⟨by rw [walker]; exact ex.1, by rw [h.retire_port]; exact ex.2⟩ ?_
  rcases waits with ⟨parked, next, place⟩ | ⟨unparked, passes, word, apart⟩
  · refine examineOnce_of_waiting (by rw [walker]; exact parked) (readErr_of_no_errs no_errs' _ _ _) ?_
    rw [cursor, field (.inl (by decide)) place]
    exact next
  · refine examineOnce_of_free (by rw [walker]; exact unparked) (by rw [cursor]; exact passes) (readErr_of_no_errs no_errs' _ _ _) ?_
    rw [cursor]
    exact (field (i := 0) (.inr ⟨by decide, apart⟩) (.inr apart)).trans word

end Retiring

/-! ### CLEAR_FIELD (R122, R123) -/

theorem fieldNo?_of_number {n : Nat} {f : Fin 4} {fd : Field} (number : n = f.val) (field : s.fields[f] = some fd) :
    s.fieldNo? n = some (f, fd) := by
  subst number
  unfold State.fieldNo?
  rw [idx?_val]
  dsimp only
  rw [field]
  rfl

theorem fieldNo?_of_none {n : Nat} (undefined : ∀ f : Fin 4, n = f.val → s.fields[f] = none) : s.fieldNo? n = none := by
  unfold State.fieldNo?
  cases here : idx? 4 n with
  | none => rfl
  | some f =>
    dsimp only
    rw [undefined f (idx?_some here).symm]
    rfl

theorem readRect_taken : readRect (s.taken errs).mem s.walker.cursor = readRect s.mem s.walker.cursor := by
  unfold readRect
  rw [taken_readNat 42 2, taken_readNat 44 2, taken_readNat 46 2, taken_readNat 48 2]

theorem Rect.passes_iff {r : Rect} {fd : Field} :
    r.passes fd = true ↔ (0 < r.width ∧ 0 < r.height) ∧ r.col < fd.cols ∧ r.row < fd.rows := by
  simp [Rect.passes, and_assoc]

theorem mapCell_fields_const {f : Fin 4} {fd : Field} (field : s.fields[f] = some fd) (c : Nat) (d : DirCell) :
    (s.mapCell f c fun _ => d).fields = cellSet s.fields f fd c d := by
  unfold State.mapCell cellSet
  rw [field, List.set_eq_modify]
  rfl

/-- R122: the take-up of a CLEAR_FIELD, over the record as it stood. -/
theorem dispatch_taken_clear (h : Presented s 3) : (s.taken []).dispatch s.walker.cursor (readHead s.mem s.walker.cursor)
    = match s.fieldNo? (Memory.readNat s.mem (s.walker.cursor + 40) 1) with
      | none => (s.taken []).retire s.walker.cursor .badField []
      | some (f, fd) => if (readRect s.mem s.walker.cursor).passes fd
        then { s.taken [] with service := some (.clearField s.walker.cursor f ((readRect s.mem s.walker.cursor).clip fd) 0) }
        else (s.taken []).retire s.walker.cursor .badRect [] := by
  rw [dispatch_clear rfl h.head_kind, h.head_field (by decide)]
  unfold State.takeClear
  rw [readRect_taken]
  rfl

/-- A CLEAR_FIELD with its next cell made VACANT, its place in row order not yet moved on. -/
def State.clearedCell (s : State) (f : Fin 4) (fd : Field) (c : Nat) : State := { s with fields := cellSet s.fields f fd c DirCell.vacant }

section Clear
variable {f : Fin 4} {r : Rect} {k : Nat} {fd : Field} (here : s.service = some (.clearField rec f r k)) (field : s.fields[f] = some fd)
include here field

theorem clearNext_eq : s.clearNext = if k + 1 < r.count
    then { s.clearedCell f fd (fd.cellNo (r.cell k).1 (r.cell k).2) with service := some (.clearField rec f r (k + 1)) }
    else ({ s.clearedCell f fd (fd.cellNo (r.cell k).1 (r.cell k).2) with service := none } : State).retire rec .ok [k + 1] := by
  have cleared (c : Nat) : (s.mapCell f c fun _ => DirCell.vacant) = s.clearedCell f fd c := by
    have fields := mapCell_fields_const field c DirCell.vacant
    unfold State.clearedCell
    rw [← fields]
    unfold State.mapCell
    rw [field]
    rfl
  unfold State.clearNext
  rw [here]
  dsimp only
  rw [field]
  dsimp only
  rw [cleared]

end Clear

theorem clearNext_of_none (none_ : ∀ rec f r k, s.service ≠ some (.clearField rec f r k)) : s.clearNext = s := by
  unfold State.clearNext
  split
  · next rec f r k here => exact absurd here (none_ rec f r k)
  · rfl

theorem exec_cellClear (errs : List MemErr) (s : State) : exec (.cellClear errs) s = .next (s.stepWith errs State.clearNext) := rfl

/-- Settles O44. -/
theorem cellClearInRowOrder : Obligations.CellClearInRowOrder := by
  intro s errs
  refine ⟨fun presents => ?_, fun rec f r k fd here field => ?_, fun none_ => ?_⟩
  · have h := presents.presented
    intro c r
    have dispatched := dispatch_taken_clear h
    refine ⟨fun undefined => failsTakeUp h (dispatched.trans (by rw [fieldNo?_of_none undefined])), fun f fd number field => ?_⟩
    rw [fieldNo?_of_number number field] at dispatched
    dsimp only at dispatched
    refine ⟨fun bad => failsTakeUp h (dispatched.trans (if_neg (mt Rect.passes_iff.mp bad))), fun good => ?_⟩
    obtain ⟨t, takes, touches, -⟩ := takesInto h (ps := [.service]) (dispatched.trans (if_pos (Rect.passes_iff.mpr good)))
      (touches_service _ _).mono (.of_past rfl) (fun busy => busy) fun _ => rfl
    exact ⟨t, takes, touches .service (by decide)⟩
  · intro cell cleared
    refine ⟨fun more => ?_, fun last fits taken => ?_⟩
    · have effect : State.clearNext { s with errs := errs } = _ :=
        (clearNext_eq (s := { s with errs := errs }) here field).trans (if_pos more)
      rw [exec_cellClear]
      exact congrArg Host.Outcome.next (stepWith_of_keepsBusy effect ⟨rfl, by rw [State.serviceBusy, State.serviceBusy, here]; rfl, rfl⟩)
    · intro ends gone
      -- The state in which the order retires, and the rules of its retirement.
      let x : State := { s with errs := [], fields := cleared, service := none }
      have effect : State.clearNext { s with errs := [] } = x.retire rec .ok [k + 1] :=
        (clearNext_eq (s := { s with errs := [] }) here field).trans (if_neg (Nat.not_lt.mpr last))
      have frame : Touches [.fields, .service] { s with errs := [] } x := (touches_fields _ _).andThen (touches_service _ _)
      have retiring : Retiring s x rec := .of_frame frame fits taken
      have retired := retire_touches x rec .ok [k + 1]
      have service : (x.retire rec .ok [k + 1]).service = none := retired .service (by decide)
      have deposit : (x.retire rec .ok [k + 1]).deposit = s.deposit := retired .deposit (by decide)
      have left : ServiceLeft { s with errs := [] } (x.retire rec .ok [k + 1]) := ⟨by rw [here]; nofun, service⟩
      have walker := retiring.retire_walker (st := .ok) (rs := [k + 1])
      have port := retiring.retire_port (st := .ok) (rs := [k + 1])
      have ends_of {t : State} (follow_up : State.afterFlight { s with errs := [] } (x.retire rec .ok [k + 1]) = t)
          (touches : Touches [.walker, .mirror] (x.retire rec .ok [k + 1]) t) : ends t.walker := by
        refine ⟨t, ?_, ?_, (touches .fields (by decide)).trans (retired .fields (by decide)), (touches .service (by decide)).trans service,
          retiring.retiresAnd touches⟩
        · rw [exec_cellClear]
          exact congrArg Host.Outcome.next (stepWith_of_afterFlight effect follow_up ((touches .service (by decide)).trans service))
        · exact (((touches_errs s []).andThen frame : Touches [.errs, .fields, .service] _ _).andThen retired :
            Touches [.errs, .fields, .service, .mem, .walker, .mirror, .alert, .messages] _ _).andThen touches
      refine ⟨fun halted => ?_, fun ex waits => ?_, fun run running idle => ?_, fun run stays => ?_⟩
      · have stays := ends_of (afterFlight_of_halted _ (retiring.retire_halted halted)) (Touches.refl _ _)
        rwa [walker] at stays
      · have polled := ends_of ((afterFlight_of_left_run left (by rw [port]; exact ex.2)).trans (retiring.examine_waits rfl ex waits))
          ((startPoll_touches _).mono)
        have timer : (x.retire rec .ok [k + 1]).startPoll.walker = { gone with pollTimer := some (s.timeBase + s.port.poll.toNat) } := by
          show ({ (x.retire rec .ok [k + 1]).walker with pollTimer := some ((x.retire rec .ok [k + 1]).timeBase + (x.retire rec .ok [k + 1]).port.poll.toNat) } : Walker) = _
          rw [walker, port, retired .timeBase (by decide)]
        rwa [timer] at polled
      · have stops := ends_of (afterFlight_of_left_stops left (by rw [port]; exact run) (by rw [deposit]; exact idle)
          (by rw [walker]; exact running)) (stopWalker_touches _)
        rwa [stopWalker_walker, walker] at stops
      · have stays' := ends_of (afterFlight_of_left_stays left (by rw [port]; exact run)
          (stays.symm.imp (fun busy => by rw [deposit]; exact busy) fun stopped => by rw [walker]; exact stopped)) (Touches.refl _ _)
        rwa [walker] at stays'
  · rw [exec_cellClear]
    exact congrArg Host.Outcome.next (State.stepWith_eq_effect (clearNext_of_none (s := { s with errs := errs }) none_) rfl rfl rfl)

end Sys2Proof.Machine
end

section
/-! FINALIZE: take-up, and the opening and closing of a cell's publication (R121, R145 to R148, R153; O49). -/

-- One theorem at a time: the threads of a parallel elaboration reserve more memory than the check allows.
set_option Elab.async false

namespace Sys2Proof.Machine

variable {s : State} {o : Finalize} {fd : Field} {d : DirCell}

/-! ### Runs of fields of several widths (12.5) -/

/-- The bytes of fields, each given by its width and its value. -/
def fieldBytes (fs : List (Nat × Nat)) : List Byte := fs.flatMap fun x => leBytes x.1 x.2

/-- How many bytes fields take. -/
def widths (fs : List (Nat × Nat)) : Nat := (fs.map Prod.fst).sum

theorem fieldBytes_append (fs gs : List (Nat × Nat)) : fieldBytes (fs ++ gs) = fieldBytes fs ++ fieldBytes gs := List.flatMap_append

theorem widths_append (fs gs : List (Nat × Nat)) : widths (fs ++ gs) = widths fs + widths gs := by
  unfold widths
  rw [List.map_append, List.sum_append]

theorem fieldBytes_length (fs : List (Nat × Nat)) : (fieldBytes fs).length = widths fs := by
  induction fs with
  | nil => rfl
  | cons x fs ih =>
    show (leBytes x.1 x.2 ++ fieldBytes fs).length = x.1 + widths fs
    rw [List.length_append, leBytes_length, ih]

theorem widths_map (n : Nat) (l : List Nat) : widths (l.map fun x => (n, x)) = n * l.length := by
  induction l with
  | nil => rfl
  | cons x l ih =>
    show n + widths (l.map fun x => (n, x)) = n * (l.length + 1)
    rw [ih, Nat.mul_succ, Nat.add_comm]

theorem fieldBytes_zeros (n : Nat) : fieldBytes (List.replicate n (1, 0)) = List.replicate n 0 := by
  induction n with
  | zero => rfl
  | succ n ih => exact congrArg (0 :: ·) ih

/-- A field of a run written to board memory reads back. -/
theorem readNat_fieldBytes {m : List Host.Cell} {off n v i : Nat} {fs : List (Nat × Nat)} {j : Nat} (here : fs[j]? = some (n, v))
    (at_ : widths (fs.take j) = i) (fits : off + widths fs ≤ Config.memSize) :
    Memory.readNat (Memory.writeBytes m off (fieldBytes fs)) (off + i) n = v % 256 ^ n := by
  obtain ⟨inside, is_here⟩ := List.getElem?_eq_some_iff.mp here
  have parts : fs = fs.take j ++ (n, v) :: fs.drop (j + 1) :=
    (List.take_append_drop j fs).symm.trans (by rw [List.drop_eq_getElem_cons inside, is_here])
  have split : fieldBytes fs = fieldBytes (fs.take j) ++ (leBytes n v ++ fieldBytes (fs.drop (j + 1))) :=
    (congrArg fieldBytes parts).trans (fieldBytes_append _ _)
  have before : (fieldBytes (fs.take j)).length = i := (fieldBytes_length _).trans at_
  have size := leBytes_length n v
  rw [Memory.readNat_writeBytes _ _ _ _ _ (by rw [split]; simp only [List.length_append]; omega) (by rw [fieldBytes_length]; exact fits), split,
    List.drop_left' before, List.take_left' size, leNat_leBytes]

/-! ### A product's header (12.5, R147) -/

/-- 12.5: the header's fields before the tags. -/
def headFields (o : Finalize) (fd : Field) (d : DirCell) (time : Nat) : List (Nat × Nat) :=
  let c := o.rect.cell o.k
  [(4, 2), (1, o.field.val), (1, o.shown.code), (1, c.1), (1, c.2), (1, bit d.overflow + 2 * bit o.reject), (1, d.exposures.length)]
    ++ List.replicate 6 (1, 0)
    ++ [(8, stored 64 (fd.ou + 256 * c.1)), (8, stored 64 (fd.ov + 256 * c.2)), (4, d.deposits), (4, o.cellNoData), (4, o.cellRejected)]
    ++ List.replicate 4 (1, 0) ++ [(8, o.record), (8, time)]

/-- 12.5: the tags that a header shows, 0 where the cell has no more. -/
def headTags (d : DirCell) : List Nat := (d.exposures.map BitVec.toNat ++ List.replicate 8 0).take 8

/-- 12.5: all fields of the header, the bytes that carry none as fields of one byte. -/
def headerFields (o : Finalize) (fd : Field) (d : DirCell) (time : Nat) : List (Nat × Nat) :=
  headFields o fd d time ++ ((headTags d).map fun x => (2, x)) ++ List.replicate 4016 (1, 0)

theorem headTags_length (d : DirCell) : (headTags d).length = 8 := by simp [headTags]

theorem headTags_getElem (few : d.exposures.length ≤ 8) {i : Nat} (hi : i < 8) : (headTags d)[i]? = some (match d.exposures[i]? with
    | some tag => tag.toNat
    | none => 0) := by
  unfold headTags
  rw [List.getElem?_take_of_lt hi]
  by_cases shown : i < d.exposures.length
  · rw [List.getElem?_append_left (by simpa using shown), List.getElem?_map, List.getElem?_eq_getElem shown]
    rfl
  · rw [List.getElem?_append_right (by simpa using shown), List.getElem?_replicate, if_pos (by simp; omega),
      List.getElem?_eq_none (by omega)]

theorem headFields_widths (time : Nat) : widths (headFields o fd d time) = 64 := by simp [widths, headFields]

theorem headerFields_widths (time : Nat) : widths (headerFields o fd d time) = 4096 := by
  unfold headerFields
  rw [widths_append, widths_append, widths_map, headTags_length]
  have zeros : widths (List.replicate 4016 (1, 0)) = 4016 := by rw [← fieldBytes_length, fieldBytes_zeros, List.length_replicate]
  rw [zeros, headFields_widths]

theorem headerBytes_eq (time : Nat) : headerBytes o fd d time = fieldBytes (headerFields o fd d time) := by
  unfold headerFields
  rw [fieldBytes_append, fieldBytes_append, fieldBytes_zeros]
  have tags : fieldBytes ((headTags d).map fun x => (2, x)) = (headTags d).flatMap (leBytes 2) := by
    unfold fieldBytes
    rw [List.flatMap_map]
  have head : fieldBytes (headFields o fd d time) = leBytes 4 2 ++ leBytes 1 o.field.val ++ leBytes 1 o.shown.code
      ++ leBytes 1 (o.rect.cell o.k).1 ++ leBytes 1 (o.rect.cell o.k).2 ++ leBytes 1 (bit d.overflow + 2 * bit o.reject)
      ++ leBytes 1 d.exposures.length ++ leBytes 6 0 ++ leBytes 8 (stored 64 (fd.ou + 256 * (o.rect.cell o.k).1))
      ++ leBytes 8 (stored 64 (fd.ov + 256 * (o.rect.cell o.k).2)) ++ leBytes 4 d.deposits ++ leBytes 4 o.cellNoData
      ++ leBytes 4 o.cellRejected ++ leBytes 4 0 ++ leBytes 8 o.record ++ leBytes 8 time := by
    have six : fieldBytes (List.replicate 6 (1, 0)) = leBytes 6 0 := by decide
    have four : fieldBytes (List.replicate 4 (1, 0)) = leBytes 4 0 := by decide
    unfold headFields
    dsimp only
    rw [fieldBytes_append, fieldBytes_append, fieldBytes_append, fieldBytes_append, six, four]
    simp only [fieldBytes, List.flatMap_cons, List.flatMap_nil, List.append_assoc, List.append_nil]
  rw [tags, head]
  rfl

/-- A byte of a run that carries no field reads as 0. -/
theorem readNat_fieldBytes_zero {m : List Host.Cell} {off k i : Nat} {fs pre post : List (Nat × Nat)}
    (split : fs = pre ++ (List.replicate k (1, 0) ++ post)) (hi : i < k) (fits : off + widths fs ≤ Config.memSize) :
    Memory.readNat (Memory.writeBytes m off (fieldBytes fs)) (off + (widths pre + i)) 1 = 0 := by
  have zeros (n : Nat) : widths (List.replicate n (1, 0)) = n := by rw [← fieldBytes_length, fieldBytes_zeros, List.length_replicate]
  refine (readNat_fieldBytes (j := pre.length + i) (v := 0) ?_ ?_ fits).trans rfl
  · rw [split, List.getElem?_append_right (by omega), Nat.add_sub_cancel_left, List.getElem?_append_left (by simpa using hi),
      List.getElem?_replicate, if_pos hi]
  · rw [split, List.take_append, Nat.add_sub_cancel_left, List.take_of_length_le (by omega), widths_append,
      List.take_append_of_le_length (by simp; omega), List.take_replicate, zeros, Nat.min_eq_left (by omega)]

section Header
variable {m : List Host.Cell} {off time : Nat} (fits : off + 4096 ≤ Config.memSize)
include fits

theorem header_field {j n v i : Nat} (here : (headFields o fd d time)[j]? = some (n, v))
    (at_ : widths ((headFields o fd d time).take j) = i) :
    Memory.readNat (Memory.writeBytes m off (headerBytes o fd d time)) (off + i) n = v % 256 ^ n := by
  obtain ⟨inside, -⟩ := List.getElem?_eq_some_iff.mp here
  rw [headerBytes_eq]
  refine readNat_fieldBytes (j := j) ?_ ?_ (by rw [headerFields_widths]; exact fits)
  · unfold headerFields
    rw [List.append_assoc, List.getElem?_append_left inside]
    exact here
  · unfold headerFields
    rw [List.append_assoc, List.take_append_of_le_length (by omega)]
    exact at_

theorem header_zero {k i : Nat} {pre post : List (Nat × Nat)}
    (split : headerFields o fd d time = pre ++ (List.replicate k (1, 0) ++ post)) (hi : i < k) :
    Memory.readNat (Memory.writeBytes m off (headerBytes o fd d time)) (off + (widths pre + i)) 1 = 0 := by
  rw [headerBytes_eq]
  exact readNat_fieldBytes_zero split hi (by rw [headerFields_widths]; exact fits)

theorem header_tag (few : d.exposures.length ≤ 8) {i : Nat} (hi : i < 8) :
    Memory.readNat (Memory.writeBytes m off (headerBytes o fd d time)) (off + (64 + 2 * i)) 2 = match d.exposures[i]? with
      | some tag => tag.toNat
      | none => 0 := by
  have head : (headFields o fd d time).length = 24 := rfl
  have tag := headTags_getElem few hi
  rw [headerBytes_eq]
  refine (readNat_fieldBytes (j := 24 + i) (v := match d.exposures[i]? with
      | some tag => tag.toNat
      | none => 0) ?_ ?_ (by rw [headerFields_widths]; exact fits)).trans (Nat.mod_eq_of_lt ?_)
  · unfold headerFields
    rw [List.append_assoc, List.getElem?_append_right (by omega), head, Nat.add_sub_cancel_left,
      List.getElem?_append_left (by rw [List.length_map, headTags_length]; exact hi), List.getElem?_map, tag]
    rfl
  · unfold headerFields
    rw [List.append_assoc, List.take_append, head, Nat.add_sub_cancel_left, List.take_of_length_le (by omega), widths_append,
      List.take_append_of_le_length (by rw [List.length_map, headTags_length]; omega), ← List.map_take, widths_map, List.length_take,
      headTags_length, Nat.min_eq_left (by omega), headFields_widths]
  · split
    · exact BitVec.isLt _
    · decide

end Header

/-- 12.5, R147: the header of a product in the memory `m`. -/
def Memory.headerShows (m : List Host.Cell) (off : Nat) (o : Finalize) (fd : Field) (d : DirCell) (time : Nat) : Prop :=
  let col := (o.rect.cell o.k).1
  let row := (o.rect.cell o.k).2
  let shows (at_ n v : Nat) : Prop := Memory.readNat m (off + at_) n = v
  shows 0 4 2 ∧ shows 4 1 o.field.val ∧ shows 5 1 o.shown.code ∧ shows 6 1 col ∧ shows 7 1 row
    ∧ shows 8 1 ((if d.overflow then 1 else 0) + (if o.reject then 2 else 0)) ∧ shows 9 1 d.exposures.length
    ∧ shows 16 8 ((fd.ou + 256 * col) % 2 ^ 64).toNat ∧ shows 24 8 ((fd.ov + 256 * row) % 2 ^ 64).toNat
    ∧ shows 32 4 (d.deposits % 2 ^ 32) ∧ shows 36 4 (o.cellNoData % 2 ^ 32) ∧ shows 40 4 (o.cellRejected % 2 ^ 32)
    ∧ shows 48 8 (o.record % 2 ^ 64) ∧ shows 56 8 (time % 2 ^ 64)
    ∧ (∀ i < 8, shows (64 + 2 * i) 2 (match d.exposures[i]? with
      | some tag => tag.toNat
      | none => 0))
    ∧ ∀ a, (10 ≤ a ∧ a < 16) ∨ (44 ≤ a ∧ a < 48) ∨ (80 ≤ a ∧ a < 4096) → shows a 1 0

theorem headerShows_of_same {m m' : List Host.Cell} {off time : Nat} (same : ∀ a, off ≤ a → a < off + 4096 → Memory.read m' a = Memory.read m a)
    (shows_ : Memory.headerShows m off o fd d time) : Memory.headerShows m' off o fd d time := by
  have kept {i n v : Nat} (inside : i + n ≤ 4096) (h : Memory.readNat m (off + i) n = v) : Memory.readNat m' (off + i) n = v :=
    (readNat_of_same fun a low high => same a (by omega) (by omega)).trans h
  obtain ⟨h0, h4, h5, h6, h7, h8, h9, h16, h24, h32, h36, h40, h48, h56, tags, zeros⟩ := shows_
  exact ⟨kept (by decide) h0, kept (by decide) h4, kept (by decide) h5, kept (by decide) h6, kept (by decide) h7, kept (by decide) h8,
    kept (by decide) h9, kept (by decide) h16, kept (by decide) h24, kept (by decide) h32, kept (by decide) h36, kept (by decide) h40,
    kept (by decide) h48, kept (by decide) h56, fun i hi => kept (by omega) (tags i hi), fun a ha => kept (by omega) (zeros a ha)⟩

/-- A header written shows its fields. -/
theorem headerShows_writeBytes {m : List Host.Cell} {off time : Nat} (fits : off + 4096 ≤ Config.memSize) (col : (o.rect.cell o.k).1 < 256)
    (row : (o.rect.cell o.k).2 < 256) (few : d.exposures.length ≤ 8) :
    Memory.headerShows (Memory.writeBytes m off (headerBytes o fd d time)) off o fd d time := by
  have field (j n v i : Nat) (here : (headFields o fd d time)[j]? = some (n, v)) (at_ : widths ((headFields o fd d time).take j) = i) :=
    header_field (m := m) fits here at_
  have small (j v i : Nat) (here : (headFields o fd d time)[j]? = some (1, v)) (at_ : widths ((headFields o fd d time).take j) = i)
      (lt : v < 256) : Memory.readNat (Memory.writeBytes m off (headerBytes o fd d time)) (off + i) 1 = v :=
    (field j 1 v i here at_).trans (Nat.mod_eq_of_lt lt)
  have code : o.shown.code < 256 := by cases o.shown <;> decide
  have flags : bit d.overflow + 2 * bit o.reject = (if d.overflow then 1 else 0) + (if o.reject then 2 else 0) := by
    cases d.overflow <;> cases o.reject <;> rfl
  have flags_lt : bit d.overflow + 2 * bit o.reject < 256 := by
    cases d.overflow <;> cases o.reject <;> decide
  refine ⟨field 0 4 2 0 rfl rfl, small 1 _ 4 rfl rfl (by omega), small 2 _ 5 rfl rfl code, small 3 _ 6 rfl rfl col, small 4 _ 7 rfl rfl row,
    (small 5 _ 8 rfl rfl flags_lt).trans flags, small 6 _ 9 rfl rfl (by omega), ?_, ?_, field 15 4 _ 32 rfl ?_, field 16 4 _ 36 rfl ?_,
    field 17 4 _ 40 rfl ?_, field 22 8 _ 48 rfl ?_, field 23 8 _ 56 rfl ?_, fun i hi => header_tag fits few hi, fun a ha => ?_⟩
  · exact (field 13 8 _ 16 rfl (by simp [widths, headFields])).trans (Nat.mod_eq_of_lt (stored_lt 64 _))
  · exact (field 14 8 _ 24 rfl (by simp [widths, headFields])).trans (Nat.mod_eq_of_lt (stored_lt 64 _))
  · simp [widths, headFields]
  · simp [widths, headFields]
  · simp [widths, headFields]
  · simp [widths, headFields]
  · simp [widths, headFields]
  · have zero {k i : Nat} {pre post : List (Nat × Nat)} (split : headerFields o fd d time = pre ++ (List.replicate k (1, 0) ++ post)) (hi : i < k)
        (at_ : widths pre + i = a) : Memory.readNat (Memory.writeBytes m off (headerBytes o fd d time)) (off + a) 1 = 0 := by
      rw [← at_]
      exact header_zero fits split hi
    have tags : widths ((headTags d).map fun x => (2, x)) = 16 := by rw [widths_map, headTags_length]
    rcases ha with first | second | rest
    · refine zero (k := 6) (i := a - 10) (pre := (headFields o fd d time).take 7)
        (post := (headFields o fd d time).drop 13 ++ ((headTags d).map fun x => (2, x)) ++ List.replicate 4016 (1, 0)) rfl (by omega) ?_
      have before : widths ((headFields o fd d time).take 7) = 10 := by simp [widths, headFields]
      omega
    · refine zero (k := 4) (i := a - 44) (pre := (headFields o fd d time).take 18)
        (post := (headFields o fd d time).drop 22 ++ ((headTags d).map fun x => (2, x)) ++ List.replicate 4016 (1, 0)) rfl (by omega) ?_
      have before : widths ((headFields o fd d time).take 18) = 44 := by simp [widths, headFields]
      omega
    · refine zero (k := 4016) (i := a - 80) (pre := headFields o fd d time ++ (headTags d).map fun x => (2, x)) (post := []) ?_ (by omega) ?_
      · rw [List.append_nil]
        rfl
      · rw [widths_append, headFields_widths, tags]
        omega

end Sys2Proof.Machine
end

section
/-! FINALIZE's take-up, openings and closings as steps (R121, R145 to R148, R153; O49). -/

-- One theorem at a time: the threads of a parallel elaboration reserve more memory than the check allows.
set_option Elab.async false

namespace Sys2Proof.Machine

variable {s : State} {o : Finalize} {fd : Field} {d : DirCell} {f : Fin 4} {c : Nat}

/-! ### Take-up (R145) -/

/-- R145: the order that a FINALIZE record at the cursor puts in flight. -/
def State.finalizeOf (s : State) (f : Fin 4) (fd : Field) : Finalize :=
  { record := s.walker.cursor, field := f, rect := (readRect s.mem s.walker.cursor).clip fd,
    base := Memory.readNat s.mem (s.walker.cursor + 56) 8, reject := decide (Memory.readNat s.mem (s.walker.cursor + 41) 1 ≠ 0),
    k := 0, phase := .opening, shown := .vacant, cellNoData := 0, cellRejected := 0, written := 0, noData := 0, rejected := 0, anySpoiled := false }

/-- R145: the take-up of a FINALIZE, over the record as it stood. -/
theorem dispatch_taken_finalize (h : Presented s 2) : (s.taken []).dispatch s.walker.cursor (readHead s.mem s.walker.cursor)
    = match s.fieldNo? (Memory.readNat s.mem (s.walker.cursor + 40) 1) with
      | none => (s.taken []).retire s.walker.cursor .badField []
      | some (f, fd) =>
        if !(readRect s.mem s.walker.cursor).passes fd then (s.taken []).retire s.walker.cursor .badRect []
        else if ¬((s.finalizeOf f fd).base % 4096 = 0
            ∧ inGeneral (s.finalizeOf f fd).base ((s.finalizeOf f fd).rect.count * Config.productBytes) = true)
          then (s.taken []).retire s.walker.cursor .regionRange []
        else if !s.clearOfFields (s.finalizeOf f fd).base ((s.finalizeOf f fd).rect.count * Config.productBytes)
          then (s.taken []).retire s.walker.cursor .regionOverlap []
        else { s.taken [] with service := some (.finalize (s.finalizeOf f fd)) } := by
  rw [dispatch_finalize rfl h.head_kind, h.head_field (by decide)]
  unfold State.takeFinalize State.finalizeOf
  rw [readRect_taken, taken_readNat 56 8, taken_readNat 41 1]
  rfl

theorem clearOfFields_iff {off n : Nat} : s.clearOfFields off n = true
    ↔ ∀ (i : Fin 4) (g : Field), s.fields[i] = some g → ¬ Shares off n g.base (g.cols * g.rows * 1572864) := by
  unfold State.clearOfFields
  rw [Bool.not_eq_true', ← Bool.not_eq_true, inSomeField_iff]
  constructor
  · rintro none_ i g here ⟨x, ⟨from_, below⟩, inside⟩
    exact none_ ⟨i, g, here, x, from_, below, inside⟩
  · rintro none_ ⟨i, g, here, x, from_, below, inside⟩
    exact none_ i g here ⟨x, ⟨from_, below⟩, inside⟩

/-! ### A cell's publication (R121, R148, R153) -/

theorem mapCell_eq (field : s.fields[f] = some fd) (here : fd.cells[c]? = some d) (g : DirCell → DirCell) :
    s.mapCell f c g = { s with fields := cellSet s.fields f fd c (g d) } := by
  unfold State.mapCell cellSet
  rw [field]
  dsimp only
  rw [modify_eq_set here]
  rfl

theorem publishedCell_eq (field : s.fields[o.field] = some fd) :
    s.publishedCell o = fd.cellNo (o.rect.cell o.k).1 (o.rect.cell o.k).2 := by
  unfold State.publishedCell
  rw [field]

section Cell
variable (service : s.service = some (.finalize o)) (field : s.fields[o.field] = some fd)
  (here : fd.cells[fd.cellNo (o.rect.cell o.k).1 (o.rect.cell o.k).2]? = some d)
include service field here

theorem openCell_of_opening (phase : o.phase = .opening) : s.openCell = { s with
    mem := Memory.writeBytes s.mem o.product (leBytes 4 1)
    service := some (.finalize { o with
      phase := .rows 0 (decide (d.state = .vacant ∨ d.state = .spoiled)), shown := d.state, cellNoData := 0, cellRejected := 0 }) } := by
  unfold State.openCell
  rw [service]
  dsimp only
  rw [phase]
  dsimp only
  rw [publishedCell_eq field, cellAt_eq field, here]

/-- R147, R121: the header written and the cell told of its product. -/
def State.cellClosed (s : State) (o : Finalize) (fd : Field) (d : DirCell) : State := { s with
  mem := Memory.writeBytes s.mem o.product (headerBytes o fd d s.timeBase)
  fields := cellSet s.fields o.field fd (fd.cellNo (o.rect.cell o.k).1 (o.rect.cell o.k).2) (d.productWritten o.product) }

theorem closeCell_of_closing (phase : o.phase = .closing) : s.closeCell = if o.k + 1 < o.rect.count
    then { s.cellClosed o fd d with service := some (.finalize o.afterClosing) }
    else ({ s.cellClosed o fd d with service := none } : State).retire o.record (if o.afterClosing.anySpoiled then .partial_ else .ok)
      o.afterClosing.results := by
  have closed : ({ s with mem := Memory.writeBytes s.mem o.product (headerBytes o fd d s.timeBase) } : State).mapCell o.field
      (fd.cellNo (o.rect.cell o.k).1 (o.rect.cell o.k).2) (DirCell.productWritten o.product) = s.cellClosed o fd d :=
    mapCell_eq (s := { s with mem := Memory.writeBytes s.mem o.product (headerBytes o fd d s.timeBase) }) field here _
  unfold State.closeCell
  split
  · next o' service' =>
    obtain rfl : o = o' := ServiceOrder.finalize.inj (Option.some.inj (service.symm.trans service'))
    rw [phase]
    dsimp only
    rw [field]
    dsimp only
    rw [publishedCell_eq field, here, Option.getD_some, closed]
    rfl
  · next other => exact absurd service (other o)

end Cell

theorem openCell_of_other (other : ∀ o, s.service = some (.finalize o) → o.phase ≠ .opening) : s.openCell = s := by
  unfold State.openCell
  split
  · next o service =>
    split
    · next phase => exact absurd phase (other o service)
    · rfl
  · rfl

theorem closeCell_of_other (other : ∀ o, s.service = some (.finalize o) → o.phase ≠ .closing) : s.closeCell = s := by
  unfold State.closeCell
  split
  · next o service =>
    split
    · next phase => exact absurd phase (other o service)
    · rfl
  · rfl

theorem productWritten_eq (off : Nat) (d : DirCell) : d.productWritten off = if d.state = .vacant then d
    else { d with last := some off, state := if d.state = .spoiled then .spoiled else .finalized } := by
  obtain ⟨state, deposits, exposures, overflow, last⟩ := d
  cases state <;> rfl

theorem exec_finalizeCellClosing (errs : List MemErr) (s : State) : exec (.finalizeCellClosing errs) s = .next (s.stepWith errs State.closeCell) :=
  rfl

/-- Settles O49. -/
theorem finalizeTakeUpOpeningAndClosing : Obligations.FinalizeTakeUpOpeningAndClosing := by
  intro s errs
  refine ⟨fun presents => ?_, fun o fd d service field => ?_, fun other => congrArg Host.Outcome.next (openCell_of_other other), fun other => ?_⟩
  · have h := presents.presented
    intro c r base
    have dispatched := dispatch_taken_finalize h
    refine ⟨fun undefined => failsTakeUp h (dispatched.trans (by rw [fieldNo?_of_none undefined])), fun f fd number field => ?_⟩
    rw [fieldNo?_of_number number field] at dispatched
    dsimp only at dispatched
    intro good cut size fits apart
    have passes (g : good) : ¬ (!(readRect s.mem s.walker.cursor).passes fd) = true := by
      rw [show (readRect s.mem s.walker.cursor).passes fd = true from Rect.passes_iff.mpr g]
      decide
    have fits_iff : ((s.finalizeOf f fd).base % 4096 = 0
        ∧ inGeneral (s.finalizeOf f fd).base ((s.finalizeOf f fd).rect.count * Config.productBytes) = true) ↔ fits :=
      and_congr_right fun _ => inGeneral_iff
    have apart_iff : s.clearOfFields (s.finalizeOf f fd).base ((s.finalizeOf f fd).rect.count * Config.productBytes) = true ↔ apart :=
      clearOfFields_iff
    refine ⟨fun bad => failsTakeUp h (dispatched.trans (if_pos ?_)), fun g bad => failsTakeUp h (dispatched.trans ?_),
      fun g ok shared => failsTakeUp h (dispatched.trans ?_), fun g ok free => ?_⟩
    · rw [Bool.not_eq_true', ← Bool.not_eq_true, Rect.passes_iff]
      exact bad
    · rw [if_neg (passes g), if_pos (mt fits_iff.mp bad)]
    · rw [if_neg (passes g), if_neg (not_not.mpr (fits_iff.mpr ok)), if_pos]
      rw [Bool.not_eq_true', ← Bool.not_eq_true, apart_iff]
      exact shared
    · have flies : (s.taken []).dispatch s.walker.cursor (readHead s.mem s.walker.cursor)
          = { s.taken [] with service := some (.finalize (s.finalizeOf f fd)) } := by
        refine dispatched.trans ?_
        rw [if_neg (passes g), if_neg (not_not.mpr (fits_iff.mpr ok)), if_neg]
        rw [apart_iff.mpr free]
        decide
      obtain ⟨t, takes, touches, -⟩ := takesInto h (ps := [.service]) flies (touches_service _ _).mono (.of_past rfl) (fun busy => busy) fun _ => rfl
      exact ⟨t, takes, touches .service (by decide)⟩
  · intro col row cell off last after next here
    refine ⟨fun phase => congrArg Host.Outcome.next (openCell_of_opening service field here phase),
      fun phase fits col_lt row_lt few ending => ?_⟩
    have product : o.product = off := rfl
    have long : (headerBytes o fd d s.timeBase).length = 4096 := by
      rw [headerBytes_eq, fieldBytes_length, headerFields_widths]
    have effect := closeCell_of_closing (s := { s with errs := [] }) service field here phase
    have told : ({ s with errs := [] } : State).cellClosed o fd d = { s with
        errs := []
        mem := Memory.writeBytes s.mem off (headerBytes o fd d s.timeBase)
        fields := s.fields.set o.field (some { fd with cells := fd.cells.set cell after }) } := by
      unfold State.cellClosed cellSet
      rw [productWritten_eq]
      rfl
    have header : Memory.headerShows (Memory.writeBytes s.mem off (headerBytes o fd d s.timeBase)) off o fd d s.timeBase :=
      headerShows_writeBytes (by omega) col_lt row_lt few
    have outside {a : Nat} (h : a < off ∨ off + 4096 ≤ a) :
        Memory.read (Memory.writeBytes s.mem off (headerBytes o fd d s.timeBase)) a = Memory.read s.mem a :=
      Memory.read_writeBytes_outside _ _ _ _ (by rw [long]; exact h)
    rw [told] at effect
    by_cases is_last : last
    · -- The last cell: the order retires over the memory that the header was written to.
      obtain ⟨⟨halted, record_fits, taken⟩, apart⟩ := ending is_last
      let s' : State := { s with mem := Memory.writeBytes s.mem off (headerBytes o fd d s.timeBase) }
      let x : State := { s' with
        errs := [], service := none, fields := s.fields.set o.field (some { fd with cells := fd.cells.set cell after }) }
      have effect' := effect.trans (if_neg (Nat.not_lt.mpr is_last))
      have frame : Touches [.fields, .service] { s' with errs := [] } x := (touches_fields _ _).andThen (touches_service _ _)
      have retiring : Retiring s' x o.record := .of_frame frame record_fits (by
        refine (readNat_of_same fun a low high => outside ?_).trans taken
        omega)
      have retired := retire_touches x o.record (if next.anySpoiled then .partial_ else .ok) [next.written, next.noData, next.rejected]
      obtain ⟨shows_, same, walker, -⟩ := retiring.retires (st := if next.anySpoiled then .partial_ else .ok)
        (rs := [next.written, next.noData, next.rejected])
      obtain ⟨alert, messages⟩ := retire_alert (st := if next.anySpoiled then .partial_ else .ok)
        (rs := [next.written, next.noData, next.rejected]) retiring.unmet retiring.taken_here
      obtain ⟨alert', messages'⟩ := alertRetirement_congr (s := s) (t := x) rfl rfl rfl rfl
      refine ⟨_, ?_, ?_, retired .fields (by decide), ?_, fun more => absurd is_last more, fun _ =>
        ⟨retired .service (by decide), shows_, fun a header_out record_out => (same a record_out).trans (outside header_out), walker,
          alert.trans alert', messages.trans messages'⟩⟩
      · rw [exec_finalizeCellClosing]
        exact congrArg Host.Outcome.next (stepWith_of_halted effect' (retiring.retire_halted halted) (retired .service (by decide)))
      · have before : Touches [.mem, .errs, .fields, .service] s x :=
          ((touches_mem s _).andThen (touches_errs s' []) : Touches [.mem, .errs] _ _).andThen frame
        exact before.andThen retired
      · exact headerShows_of_same (fun a low high => same a (by omega)) header
    · have effect' := effect.trans (if_pos (Nat.lt_of_not_le is_last))
      let t : State := { s with
        errs := []
        mem := Memory.writeBytes s.mem off (headerBytes o fd d s.timeBase)
        fields := s.fields.set o.field (some { fd with cells := fd.cells.set cell after })
        service := some (.finalize next) }
      refine ⟨t, ?_, ?_, rfl, header, fun _ => ⟨fun a h => outside h, rfl, rfl, rfl, rfl, rfl⟩, fun done => absurd done is_last⟩
      · rw [exec_finalizeCellClosing]
        refine congrArg Host.Outcome.next ((stepWith_of_noLeave effect' (fun busy => busy) fun _ => rfl).trans ?_)
        exact noteMemory_of_none_reads _ rfl
      · exact (((touches_errs s []).andThen (touches_mem _ _) : Touches [.errs, .mem] _ _).andThen (touches_fields _ _) :
          Touches [.errs, .mem, .fields] _ _).andThen (touches_service _ _)
  · rw [exec_finalizeCellClosing]
    exact congrArg Host.Outcome.next (State.stepWith_eq_effect (closeCell_of_other (s := { s with errs := errs }) other) rfl rfl rfl)

end Sys2Proof.Machine
end

section
/-! FINALIZE_CELL_ROW: what each sky pixel publishes, and the three planes of a row (R147 to R152; O50). -/

-- One theorem at a time: the threads of a parallel elaboration reserve more memory than the check allows.
set_option Elab.async false

namespace Sys2Proof.Machine

variable {s : State} {o : Finalize} {fd : Field}

/-! ### What a pixel publishes (R149 to R151) -/

theorem readRecord_mask_lt (m : List Host.Cell) (off : Nat) : (readRecord m off).mask < 16 := Nat.mod_lt _ (by decide)

section Publish
variable {r : AccRecord} {reject : Bool}

theorem publishRecord_of_no_weight (none_ : r.wsum = 0) : publishRecord reject r = ⟨0, 0, r.mask ||| 32⟩ := if_pos none_

theorem publishRecord_of_mean (weight : 0 < r.wsum) (kept : ¬ (reject = true ∧ 3 ≤ r.count)) :
    publishRecord reject r = ⟨roundDiv r.fsum r.wsum, r.wsum, r.mask⟩ := by
  unfold publishRecord
  rw [if_neg (by omega), if_neg]
  rw [AccRecord.rejects, Bool.and_eq_true, decide_eq_true_eq]
  exact kept

theorem publishRecord_of_rejected (weight : 0 < r.wsum) (drops : reject = true ∧ 3 ≤ r.count) : publishRecord reject r
    = ⟨roundDiv (r.fsum - r.hiValue * r.hiWeight) (r.wsum - r.hiWeight), r.wsum - r.hiWeight, r.mask ||| 16⟩ := by
  unfold publishRecord
  rw [if_neg (by omega), if_pos]
  · rfl
  · rw [AccRecord.rejects, Bool.and_eq_true, decide_eq_true_eq]
    exact drops

/-- The flags that publishing adds show in no record's own mask. -/
theorem published_flags {mask : Nat} (low : mask < 16) : hasFlag mask .noData = false ∧ hasFlag mask .rejected = false
    ∧ hasFlag (mask ||| 32) .noData = true ∧ hasFlag (mask ||| 32) .rejected = false
    ∧ hasFlag (mask ||| 16) .noData = false ∧ hasFlag (mask ||| 16) .rejected = true := by
  revert mask
  decide

theorem publishRecord_noData (low : r.mask < 16) : hasFlag (publishRecord reject r).mask .noData = decide (r.wsum = 0) := by
  obtain ⟨plain, -, none_, -, dropped, -⟩ := published_flags low
  by_cases weight : r.wsum = 0
  · rw [publishRecord_of_no_weight weight, none_, decide_eq_true weight]
  · rw [decide_eq_false weight]
    by_cases drops : reject = true ∧ 3 ≤ r.count
    · rw [publishRecord_of_rejected (by omega) drops, dropped]
    · rw [publishRecord_of_mean (by omega) drops, plain]

theorem publishRecord_rejected (low : r.mask < 16) :
    hasFlag (publishRecord reject r).mask .rejected = (decide (0 < r.wsum) && reject && decide (3 ≤ r.count)) := by
  obtain ⟨-, plain, -, none_, -, dropped⟩ := published_flags low
  by_cases weight : r.wsum = 0
  · rw [publishRecord_of_no_weight weight, none_, weight]
    rfl
  · rw [decide_eq_true (Nat.pos_of_ne_zero weight), Bool.true_and]
    by_cases drops : reject = true ∧ 3 ≤ r.count
    · rw [publishRecord_of_rejected (by omega) drops, dropped, drops.1, decide_eq_true drops.2]
      rfl
    · rw [publishRecord_of_mean (by omega) drops, plain, eq_comm, ← Bool.not_eq_true, Bool.and_eq_true, decide_eq_true_eq]
      exact drops

theorem publishRecord_mask_lt (low : r.mask < 16) : (publishRecord reject r).mask < 65536 := by
  have flags : r.mask ||| 32 < 64 ∧ r.mask ||| 16 < 64 :=
    ⟨Nat.or_lt_two_pow (n := 6) (by omega) (by decide), Nat.or_lt_two_pow (n := 6) (by omega) (by decide)⟩
  unfold publishRecord
  split
  · exact flags.1.trans (by decide)
  · split
    · exact flags.2.trans (by decide)
    · exact low.trans (by decide)

end Publish

/-! ### The planes of a row (R147) -/

section Planes
variable {m : List Host.Cell} {off q : Nat} {px : List Published} (row : q < 256) (length : px.length = 256)
include row length

theorem read_writePlanes_outside {a : Nat} (value : ¬ (off + 4096 + q * 1024 ≤ a ∧ a < off + 4096 + (q + 1) * 1024))
    (weight : ¬ (off + 266240 + q * 1024 ≤ a ∧ a < off + 266240 + (q + 1) * 1024))
    (mask : ¬ (off + 528384 + q * 512 ≤ a ∧ a < off + 528384 + (q + 1) * 512)) :
    Memory.read (writePlanes off q px m) a = Memory.read m a := by
  unfold writePlanes
  dsimp only
  rw [Memory.read_writeBytes_outside _ _ _ _ (by rw [flatMap_leBytes_length, length]; omega),
    Memory.read_writeBytes_outside _ _ _ _ (by rw [flatMap_leBytes_length, length]; omega),
    Memory.read_writeBytes_outside _ _ _ _ (by rw [flatMap_leBytes_length, length]; omega)]

/-- Each pixel of the row takes its place in the three planes. -/
theorem readNat_writePlanes (fits : off + 659456 ≤ Config.memSize) {p : Nat} {x : Published} (here : px[p]? = some x) (low : x.mask < 65536) :
    Memory.readNat (writePlanes off q px m) (off + 4096 + (q * 256 + p) * 4) 4 = (x.value % 2 ^ 32).toNat
    ∧ Memory.readNat (writePlanes off q px m) (off + 266240 + (q * 256 + p) * 4) 4 = x.weight % 2 ^ 32
    ∧ Memory.readNat (writePlanes off q px m) (off + 528384 + (q * 256 + p) * 2) 2 = x.mask := by
  obtain ⟨inside, rfl⟩ := List.getElem?_eq_some_iff.mp here
  have place : p < 256 := length ▸ inside
  unfold writePlanes
  dsimp only
  refine ⟨?_, ?_, ?_⟩
  · rw [Memory.readNat_writeBytes_outside _ _ _ _ _ (by rw [flatMap_leBytes_length, length]; omega),
      Memory.readNat_writeBytes_outside _ _ _ _ _ (by rw [flatMap_leBytes_length, length]; omega),
      show off + 4096 + (q * 256 + p) * 4 = off + 4096 + q * 256 * 4 + 4 * p by omega,
      readNat_flatMap_leBytes (f := fun x : Published => stored 32 x.value) m inside (by omega)]
    exact Nat.mod_eq_of_lt (stored_lt 32 _)
  · rw [Memory.readNat_writeBytes_outside _ _ _ _ _ (by rw [flatMap_leBytes_length, length]; omega),
      show off + 266240 + (q * 256 + p) * 4 = off + 266240 + q * 256 * 4 + 4 * p by omega,
      readNat_flatMap_leBytes (f := fun x : Published => x.weight) _ inside (by omega)]
    rfl
  · rw [show off + 528384 + (q * 256 + p) * 2 = off + 528384 + q * 256 * 2 + 2 * p by omega,
      readNat_flatMap_leBytes (f := fun x : Published => x.mask) _ inside (by omega)]
    exact Nat.mod_eq_of_lt low

end Planes

/-! ### The row (R148, R152) -/

/-- R149, R150: what pixel `p` of a row publishes. -/
def rowPixel (m : List Host.Cell) (o : Finalize) (blank : Bool) (recs p : Nat) : Published :=
  if blank then blankPixel (decide (o.shown = .spoiled)) else publishRecord o.reject (readRecord m (recs + p * 24))

/-- R148: the pixels of a row. -/
def rowPixels (m : List Host.Cell) (o : Finalize) (blank : Bool) (recs : Nat) : List Published := (List.range 256).map (rowPixel m o blank recs)

theorem rowPixel_of_record {m : List Host.Cell} {blank : Bool} {recs p : Nat} {x : Published} (kept : blank = false)
    (pixel : publishRecord o.reject (readRecord m (recs + p * 24)) = x) : rowPixel m o blank recs p = x := by
  unfold rowPixel
  rw [kept]
  exact pixel

theorem rowPixel_of_blank {m : List Host.Cell} {blank : Bool} {recs p : Nat} (is_blank : blank = true) :
    rowPixel m o blank recs p = ⟨0, 0, if o.shown = .spoiled then 96 else 32⟩ := by
  unfold rowPixel blankPixel
  rw [if_pos is_blank]
  by_cases spoiled : o.shown = .spoiled
  · rw [decide_eq_true spoiled, if_pos spoiled]
    rfl
  · rw [decide_eq_false spoiled, if_neg spoiled]
    rfl

theorem rowPixels_getElem {m : List Host.Cell} {blank : Bool} {recs p : Nat} (place : p < 256) :
    (rowPixels m o blank recs)[p]? = some (rowPixel m o blank recs p) := by
  unfold rowPixels
  rw [List.getElem?_map, List.getElem?_range place]
  rfl

theorem rowPixel_mask_lt {m : List Host.Cell} {blank : Bool} {recs p : Nat} : (rowPixel m o blank recs p).mask < 65536 := by
  unfold rowPixel
  split
  · unfold blankPixel
    split <;> decide
  · exact publishRecord_mask_lt (readRecord_mask_lt m _)

theorem rowPixels_noData {m : List Host.Cell} {blank : Bool} {recs : Nat} :
    (rowPixels m o blank recs).countP (fun p => hasFlag p.mask .noData)
      = if blank then 256 else (List.range 256).countP fun p => decide ((readRecord m (recs + p * 24)).wsum = 0) := by
  unfold rowPixels
  rw [List.countP_map]
  cases blank with
  | true =>
    have all (p : Nat) : hasFlag (rowPixel m o true recs p).mask .noData = true := by
      show hasFlag (blankPixel _).mask .noData = true
      cases decide (o.shown = .spoiled) <;> decide
    exact (List.countP_eq_length.mpr fun p _ => all p).trans List.length_range
  | false =>
    refine List.countP_congr fun p _ => ?_
    rw [Function.comp_apply, show rowPixel m o false recs p = publishRecord o.reject (readRecord m (recs + p * 24)) from rfl,
        publishRecord_noData (readRecord_mask_lt m _)]

theorem rowPixels_rejected {m : List Host.Cell} {blank : Bool} {recs : Nat} :
    (rowPixels m o blank recs).countP (fun p => hasFlag p.mask .rejected)
      = if blank then 0 else (List.range 256).countP fun p =>
        decide (0 < (readRecord m (recs + p * 24)).wsum) && o.reject && decide (3 ≤ (readRecord m (recs + p * 24)).count) := by
  unfold rowPixels
  rw [List.countP_map]
  cases blank with
  | true =>
    have none_ (p : Nat) : ¬ hasFlag (rowPixel m o true recs p).mask .rejected = true := by
      show ¬ hasFlag (blankPixel _).mask .rejected = true
      cases decide (o.shown = .spoiled) <;> decide
    exact List.countP_eq_zero.mpr fun p _ => none_ p
  | false =>
    refine List.countP_congr fun p _ => ?_
    rw [Function.comp_apply, show rowPixel m o false recs p = publishRecord o.reject (readRecord m (recs + p * 24)) from rfl,
        publishRecord_rejected (readRecord_mask_lt m _)]

theorem publishRow_of_rows {q : Nat} {blank : Bool} (service : s.service = some (.finalize o)) (field : s.fields[o.field] = some fd)
    (phase : o.phase = .rows q blank) : s.publishRow
      = let cell := fd.cellNo (o.rect.cell o.k).1 (o.rect.cell o.k).2
        if !blank && s.readErr .accumulator (fd.rowRecordsOff cell q) (256 * 24) then
          { s.spoilCell o.field cell with
            service := some (.finalize { o with phase := .rows 0 true, shown := .spoiled, cellNoData := 0, cellRejected := 0 }) }
        else
          { s with
            mem := writePlanes o.product q (rowPixels s.mem o blank (fd.rowRecordsOff cell q)) s.mem
            service := some (.finalize (o.afterRow q blank (rowPixels s.mem o blank (fd.rowRecordsOff cell q)))) } := by
  unfold State.publishRow
  split
  · next o' service' =>
    obtain rfl : o = o' := ServiceOrder.finalize.inj (Option.some.inj (service.symm.trans service'))
    rw [phase]
    dsimp only
    rw [field]
    dsimp only
    rw [publishedCell_eq field]
    rfl
  · next other => exact absurd service (other o)

theorem publishRow_of_other (other : ∀ o, s.service = some (.finalize o) → ∀ q blank, o.phase ≠ .rows q blank) : s.publishRow = s := by
  unfold State.publishRow
  split
  · next o service =>
    split
    · next q blank phase => exact absurd phase (other o service q blank)
    · rfl
  · rfl

theorem exec_finalizeCellRow (errs : List MemErr) (s : State) : exec (.finalizeCellRow errs) s = .next (s.stepWith errs State.publishRow) := rfl

/-- Settles O50. -/
theorem finalizePublishesARow : Obligations.FinalizePublishesARow := by
  intro s errs
  refine ⟨fun o fd q blank service field phase row => ?_, fun other => ?_⟩
  · intro cell off recs record met
    have row_eq := publishRow_of_rows (s := { s with errs := errs }) service field phase
    have met_iff : ({ s with errs := errs } : State).readErr .accumulator recs (256 * 24) = true ↔ met := readErr_iff
    refine ⟨fun reads fits => ?_, fun reads meets d here => ?_⟩
    · have written : State.publishRow { s with errs := errs } = { s with
          errs := errs
          mem := writePlanes off q (rowPixels s.mem o blank recs) s.mem
          service := some (.finalize (o.afterRow q blank (rowPixels s.mem o blank recs))) } := by
        refine row_eq.trans (if_neg ?_)
        rw [Bool.and_eq_true, Bool.not_eq_true']
        rintro ⟨not_blank, meets⟩
        rcases reads with is_blank | unmet
        · rw [is_blank] at not_blank
          cases not_blank
        · exact unmet (met_iff.mp meets)
      have length : (rowPixels s.mem o blank recs).length = 256 := by simp [rowPixels]
      let t : State := { s with
        errs := errs
        mem := writePlanes off q (rowPixels s.mem o blank recs) s.mem
        service := some (.finalize (o.afterRow q blank (rowPixels s.mem o blank recs))) }
      refine ⟨t, ?_, ?_, fun a value weight mask => read_writePlanes_outside row length value weight mask, fun p place => ?_, ?_⟩
      · rw [exec_finalizeCellRow]
        refine congrArg Host.Outcome.next ((stepWith_of_noLeave written (fun busy => busy) fun _ => rfl).trans ?_)
        exact noteMemory_of_none_reads _ rfl
      · exact ((touches_errs s errs).andThen (touches_mem _ _) : Touches [.errs, .mem] _ _).andThen (touches_service _ _)
      · have planes := readNat_writePlanes (m := s.mem) (off := off) row length fits (rowPixels_getElem (m := s.mem) (o := o) (blank := blank)
          (recs := recs) place) rowPixel_mask_lt
        intro r shown
        have shows_ {x : Published} (pixel : rowPixel s.mem o blank recs p = x) : shown x.value x.weight x.mask := by
          rw [pixel] at planes
          exact planes
        refine ⟨fun is_blank => ?_, fun kept none_ => ?_, fun kept weight plain => ?_, fun kept weight reject many => ?_⟩
        · have pixel := shows_ (rowPixel_of_blank is_blank)
          exact pixel
        · have pixel := shows_ (rowPixel_of_record kept (publishRecord_of_no_weight none_))
          exact pixel
        · have mean : ¬ (o.reject = true ∧ 3 ≤ r.count) := by
            rintro ⟨reject, many⟩
            rcases plain with not_reject | few
            · rw [reject] at not_reject
              cases not_reject
            · exact absurd many (Nat.not_le.mpr few)
          have pixel := shows_ (x := ⟨roundDiv r.fsum r.wsum, r.wsum, r.mask⟩) (rowPixel_of_record kept (publishRecord_of_mean weight mean))
          dsimp only at pixel
          exact pixel
        · have pixel := shows_ (x := ⟨roundDiv (r.fsum - r.hiValue * r.hiWeight) (r.wsum - r.hiWeight), r.wsum - r.hiWeight, r.mask ||| 16⟩)
            (rowPixel_of_record kept (publishRecord_of_rejected weight ⟨reject, many⟩))
          dsimp only at pixel
          exact pixel
      · show some (ServiceOrder.finalize (o.afterRow q blank (rowPixels s.mem o blank recs))) = _
        unfold Finalize.afterRow
        rw [rowPixels_noData, rowPixels_rejected]
        rfl
    · have spoils : State.publishRow { s with errs := errs } = { ({ s with errs := errs } : State).spoilCell o.field cell with
          service := some (.finalize { o with phase := .rows 0 true, shown := .spoiled, cellNoData := 0, cellRejected := 0 }) } := by
        refine row_eq.trans (if_pos ?_)
        rw [Bool.and_eq_true, reads]
        exact ⟨rfl, met_iff.mpr meets⟩
      have frame := spoilCell_touches { s with errs := errs } o.field cell
      let t : State := { ({ s with errs := errs } : State).spoilCell o.field cell with
        service := some (.finalize { o with phase := .rows 0 true, shown := .spoiled, cellNoData := 0, cellRejected := 0 }) }
      refine ⟨t, ?_, ?_, ?_, ?_, rfl⟩
      · rw [exec_finalizeCellRow]
        refine congrArg Host.Outcome.next ((stepWith_of_noLeave spoils (fun busy => ?_) fun _ => rfl).trans (noteMemory_of_none_reads _ rfl))
        show State.depositBusy (State.spoilCell o.field cell { s with errs := errs }) = true
        rw [State.depositBusy, State.assembly, frame .deposit (by decide)]
        exact busy
      · exact ((touches_errs s errs).andThen frame : Touches [.errs, .fields, .alert, .mirror, .messages] _ _).andThen (touches_service _ _)
      · show (State.spoilCell o.field cell { s with errs := errs }).fields = _
        unfold State.spoilCell
        rw [memError_touches _ _ .fields (by decide), mapCell_fields (s := { s with errs := errs }) field here]
        rfl
      · show (State.spoilCell o.field cell { s with errs := errs }).alert.pending = _
        unfold State.spoilCell
        rw [memError_alert, mapCell_touches _ _ _ _ .alert (by decide)]
        rfl
  · rw [exec_finalizeCellRow]
    exact congrArg Host.Outcome.next (State.stepWith_eq_effect (publishRow_of_other (s := { s with errs := errs }) other) rfl rfl rfl)

end Sys2Proof.Machine
end

section
/-! DEFINE_BANK: take-up, and the end of a define with the checks of its record (R72 to R76; O51). -/

-- One theorem at a time: the threads of a parallel elaboration reserve more memory than the check allows.
set_option Elab.async false

namespace Sys2Proof.Machine

variable {s : State} {m : List Host.Cell} {off count : Nat} {map : Vector (Option SegEntry) 64}

/-! ### The checks of an entry (R75) -/

theorem planePasses_iff {off : Nat} {x : Option SegEntry} : planePasses off x = true ↔ off = 0
    ∨ (Config.generalBase ≤ off ∧ off + (match x with
      | some e => e.image * e.rows * 2
      | none => 1) ≤ Config.poolBase) := by
  cases x <;> simp [planePasses, planeFits, inGeneral]

theorem RawAmp.mode_overscan_iff {r : RawAmp} : r.amp.mode = .overscan ↔ r.mode = 0 := by
  unfold RawAmp.amp
  dsimp only
  split
  · simp [*]
  · split <;> simp [*]

theorem RawAmp.mode_plane_iff {r : RawAmp} (known : r.mode ≤ 2) : r.amp.mode = .plane ↔ r.mode = 2 := by
  unfold RawAmp.amp
  dsimp only
  split
  · simp [*]
  · split
    · simp [*]
    · simp only [true_iff]
      omega

/-- R75, checks 4 to 9. -/
theorem RawAmp.passes_iff {r : RawAmp} {x : Option SegEntry} : r.passes x = true ↔ r.mode ≤ 2 ∧ r.amp.Fits x := by
  unfold RawAmp.passes
  simp only [Bool.and_eq_true, Bool.or_eq_true, decide_eq_true_eq, planePasses_iff, inGeneral]
  constructor
  · rintro ⟨⟨⟨⟨⟨⟨⟨mode, gain⟩, sat⟩, window⟩, bias⟩, lut⟩, flatPlane⟩, biasPlane⟩
    refine ⟨mode, ⟨gain, sat⟩, fun overscan => window.resolve_left fun other => other (mode_overscan_iff.mp overscan),
      fun plane => bias.resolve_left fun other => other ((mode_plane_iff mode).mp plane), lut, flatPlane, biasPlane⟩
  · rintro ⟨mode, ⟨gain, sat⟩, window, bias, lut, flatPlane, biasPlane⟩
    refine ⟨⟨⟨⟨⟨⟨⟨mode, gain⟩, sat⟩, ?_⟩, ?_⟩, lut⟩, flatPlane⟩, biasPlane⟩
    · by_cases overscan : r.mode = 0
      · exact .inr (window (mode_overscan_iff.mpr overscan))
      · exact .inl overscan
    · by_cases plane : r.mode = 2
      · exact .inr (bias ((mode_plane_iff mode).mpr plane))
      · exact .inl plane

/-- R75, check 10. -/
theorem Defect.passes_iff {d : Defect} : d.passes map = true ↔ d.Fits map := by
  unfold Defect.passes Defect.Fits
  simp only [Bool.and_eq_true, decide_eq_true_eq]
  by_cases number : d.seg < 64
  · rw [show d.seg = (⟨d.seg, number⟩ : SegNo).val from rfl, idx?_val]
    dsimp only
    constructor
    · rintro ⟨⟨cols, rows⟩, inside⟩
      refine ⟨number, cols, rows, fun seg e same here => ?_⟩
      obtain rfl : seg = ⟨d.seg, number⟩ := Fin.ext same
      rw [here] at inside
      simpa using inside
    · rintro ⟨-, cols, rows, inside⟩
      refine ⟨⟨cols, rows⟩, ?_⟩
      split
      · next e here => simpa using inside ⟨d.seg, number⟩ e rfl here
      · rfl
  · rw [idx?_of_ge (Nat.not_lt.mp number)]
    simp [number]

/-! ### What a record holds (R72) -/

/-- R72: the bank that a record with its checks passed gives. -/
def readBank (m : List Host.Cell) (off count : Nat) : Bank := ⟨vecOf fun seg => (readAmps m off)[seg].amp, readDefects m off count⟩

theorem readAmps_getElem (seg : SegNo) : (readAmps m off)[seg] = readAmp m (off + 16 + 48 * seg.val) := by
  unfold readAmps
  rw [Fin.getElem_fin, vecOf_getElem]

theorem readBank_amp (seg : SegNo) : (readBank m off count).amps[seg] = (readAmp m (off + 16 + 48 * seg.val)).amp := by
  unfold readBank
  rw [Fin.getElem_fin, vecOf_getElem]
  exact congrArg RawAmp.amp (readAmps_getElem seg)

/-- 12.3: the amplifier entry at an offset shows an amplifier's parameters. -/
def Amp.StoredAt (a : Amp) (m : List Host.Cell) (x : Nat) : Prop :=
  Memory.readNat m x 1 = (match a.mode with
    | .overscan => 0
    | .fixed => 1
    | .plane => 2)
  ∧ Memory.readNat m (x + 1) 1 = a.skip ∧ Memory.readNat m (x + 2) 1 = a.n ∧ Memory.readNat m (x + 4) 2 = a.fixed
  ∧ Memory.readNat m (x + 6) 2 = a.gain ∧ Memory.readNat m (x + 8) 2 = a.sat ∧ Memory.readNat m (x + 16) 8 = a.lut
  ∧ Memory.readNat m (x + 24) 8 = a.flat ∧ Memory.readNat m (x + 32) 8 = a.bias

theorem Amp.storedAt_iff {a : Amp} {x : Nat} : a.StoredAt m x ↔ (readAmp m x).mode ≤ 2 ∧ a = (readAmp m x).amp := by
  obtain ⟨mode, fixed, skip, n, gain, sat, lut, flat, bias⟩ := a
  constructor
  · rintro ⟨is_mode, rfl, rfl, rfl, rfl, rfl, rfl, rfl, rfl⟩
    have mode_eq : (readAmp m x).mode = _ := is_mode
    refine ⟨?_, ?_⟩
    · rw [mode_eq]
      cases mode
      · exact Nat.zero_le _
      · exact Nat.le_succ 1
      · exact le_rfl
    · unfold RawAmp.amp
      rw [mode_eq]
      cases mode <;> rfl
  · rintro ⟨known, is_amp⟩
    unfold RawAmp.amp at is_amp
    cases is_amp
    refine ⟨?_, rfl, rfl, rfl, rfl, rfl, rfl, rfl, rfl⟩
    show (readAmp m x).mode = _
    have modes : (readAmp m x).mode = 0 ∨ (readAmp m x).mode = 1 ∨ (readAmp m x).mode = 2 := by omega
    rcases modes with zero | one | two
    · rw [zero]
      rfl
    · rw [one]
      rfl
    · rw [two]
      rfl

/-- 12.3: the defect entry at an offset shows a defect. -/
theorem readDefect_eq_iff {d : Defect} {x : Nat} : (Memory.readNat m x 1 = d.seg ∧ Memory.readNat m (x + 2) 2 = d.firstCol
    ∧ Memory.readNat m (x + 4) 2 = d.lastCol ∧ Memory.readNat m (x + 6) 2 = d.firstRow ∧ Memory.readNat m (x + 8) 2 = d.lastRow)
    ↔ readDefect m x = d := by
  obtain ⟨seg, firstCol, lastCol, firstRow, lastRow⟩ := d
  unfold readDefect
  rw [Defect.mk.injEq]

theorem readDefects_getElem? {j : Nat} : (readDefects m off count)[j]? = if j < count then some (readDefect m (off + 3088 + 12 * j)) else none := by
  unfold readDefects
  rw [List.getElem?_map]
  by_cases inside : j < count
  · rw [List.getElem?_range inside, if_pos inside]
    rfl
  · rw [List.getElem?_eq_none (by simpa using inside), if_neg inside]
    rfl

/-- R72, R75: the one bank that a record shows, its bias modes known. -/
theorem storedAt_iff {b : Bank} : (b.defects.length = count ∧ b.StoredAt m off)
    ↔ (∀ seg : SegNo, (readAmps m off)[seg].mode ≤ 2) ∧ b = readBank m off count := by
  have amps_iff : (∀ seg : SegNo, (b.amps[seg]).StoredAt m (off + 16 + 48 * seg.val))
      ↔ (∀ seg : SegNo, (readAmps m off)[seg].mode ≤ 2) ∧ b.amps = (readBank m off count).amps := by
    constructor
    · intro stored
      refine ⟨fun seg => by rw [readAmps_getElem]; exact (Amp.storedAt_iff.mp (stored seg)).1, ?_⟩
      refine Vector.ext fun i hi => ?_
      exact (Amp.storedAt_iff.mp (stored ⟨i, hi⟩)).2.trans (readBank_amp (count := count) ⟨i, hi⟩).symm
    · rintro ⟨known, same⟩ seg
      refine Amp.storedAt_iff.mpr ⟨by rw [← readAmps_getElem]; exact known seg, ?_⟩
      rw [same, readBank_amp]
  have defects_iff : (b.defects.length = count ∧ ∀ (j : Nat) (d : Defect), b.defects[j]? = some d → readDefect m (off + 3088 + 12 * j) = d)
      ↔ b.defects = readDefects m off count := by
    constructor
    · rintro ⟨length, stored⟩
      refine List.ext_getElem? fun j => ?_
      rw [readDefects_getElem?]
      by_cases inside : j < count
      · rw [if_pos inside, List.getElem?_eq_getElem (length ▸ inside), stored j _ (List.getElem?_eq_getElem (length ▸ inside))]
      · rw [if_neg inside, List.getElem?_eq_none (by omega)]
    · intro same
      rw [same]
      refine ⟨by simp [readDefects], fun j d here => ?_⟩
      rw [readDefects_getElem?] at here
      exact (Option.some.inj (Option.ite_none_right_eq_some.mp here).2)
  constructor
  · rintro ⟨length, amps, defects⟩
    obtain ⟨known, same⟩ := amps_iff.mp amps
    have defects' := defects_iff.mp ⟨length, fun j d here => readDefect_eq_iff.mp (defects j d here)⟩
    refine ⟨known, ?_⟩
    obtain ⟨bAmps, bDefects⟩ := b
    exact congrArg₂ Bank.mk same defects'
  · rintro ⟨known, rfl⟩
    obtain ⟨length, defects⟩ := defects_iff.mpr rfl
    exact ⟨length, amps_iff.mpr ⟨known, rfl⟩, fun j d here => readDefect_eq_iff.mpr (defects j d here)⟩

/-- R75: the checks of the entries that a record holds. -/
def entriesPass (m : List Host.Cell) (off count : Nat) (map : Vector (Option SegEntry) 64) : Bool :=
  ((List.finRange 64).all fun seg => (readAmps m off)[seg].passes map[seg]) && (readDefects m off count).all fun d => d.passes map

/-- R72, R75: a record whose entries pass shows a bank that fits, and no other. -/
theorem entriesPass_iff {b : Bank} : ((b.defects.length = count ∧ b.StoredAt m off) ∧ (∀ seg : SegNo, b.amps[seg].Fits map[seg])
      ∧ ∀ d ∈ b.defects, d.Fits map) ↔ entriesPass m off count map = true ∧ b = readBank m off count := by
  rw [storedAt_iff]
  unfold entriesPass
  simp only [Bool.and_eq_true, List.all_eq_true, List.mem_finRange, true_implies, RawAmp.passes_iff, Defect.passes_iff]
  constructor
  · rintro ⟨⟨known, rfl⟩, amps, defects⟩
    refine ⟨⟨fun seg => ⟨known seg, ?_⟩, defects⟩, rfl⟩
    have fits := amps seg
    rwa [readBank_amp, ← readAmps_getElem] at fits
  · rintro ⟨⟨amps, defects⟩, rfl⟩
    refine ⟨⟨fun seg => (amps seg).1, rfl⟩, fun seg => ?_, defects⟩
    rw [readBank_amp, ← readAmps_getElem]
    exact (amps seg).2

end Sys2Proof.Machine
end

section
/-! DEFINE_BANK as steps: take-up, and the end of a define (R73 to R76; O51). -/

-- One theorem at a time: the threads of a parallel elaboration reserve more memory than the check allows.
set_option Elab.async false

namespace Sys2Proof.Machine

variable {s : State} {k off : Nat} {map : Vector (Option SegEntry) 64}

/-! ### Take-up (R73) -/

/-- R73: the take-up of a DEFINE_BANK, over the record as it stood. -/
theorem dispatch_taken_defineBank (h : Presented s 5) : (s.taken []).dispatch s.walker.cursor (readHead s.mem s.walker.cursor)
    = match idx? 8 (Memory.readNat s.mem (s.walker.cursor + 40) 1) with
      | none => (s.taken []).retire s.walker.cursor .badBank []
      | some k => match s.loader.inUse with
        | none => ({ s.taken [] with banks := s.banks.set k none } : State).retire s.walker.cursor .noMap []
        | some map => { s.taken [] with
            banks := s.banks.set k none
            service := some (.defineBank s.walker.cursor k (Memory.readNat s.mem (s.walker.cursor + 56) 8) map.entries)
            past := [] } := by
  rw [dispatch_defineBank rfl h.head_kind, h.head_bank (by decide)]
  unfold State.takeDefineBank
  rw [taken_readNat 56 8]
  cases idx? 8 (Memory.readNat s.mem (s.walker.cursor + 40) 1) with
  | none => rfl
  | some k =>
    dsimp only
    rw [show (s.taken []).loader = s.loader from rfl]
    cases s.loader.inUse <;> rfl

/-! ### The checks in their order (R74, R75) -/

/-- R74, R75: the header that the checks ask for. -/
def State.bankHeader (s : State) (k off : Nat) : Prop :=
  Memory.readNat s.mem off 4 = 0x4B4E4142 ∧ Memory.readNat s.mem (off + 4) 1 = k ∧ Memory.readNat s.mem (off + 6) 2 ≤ 1024

section Checks
variable (inside : 0x1000 ≤ off ∧ off + 16 ≤ 0x3D8000000)

theorem checkBank_of_outside (outside : ¬ (0x1000 ≤ off ∧ off + 16 ≤ 0x3D8000000)) : s.checkBank k off map = .failed .regionRange := by
  unfold State.checkBank
  rw [if_pos]
  rw [Bool.not_eq_true', ← Bool.not_eq_true, inGeneral_iff]
  exact outside

include inside

theorem not_outside : ¬ (!inGeneral off 16) = true := by
  rw [inGeneral_iff.mpr inside]
  decide

theorem checkBank_of_met (met : s.readErr .bankOrMap off 16 = true) : s.checkBank k off map = .memoryError := by
  unfold State.checkBank
  rw [if_neg (not_outside inside), if_pos met]

variable (unmet : ¬ s.readErr .bankOrMap off 16 = true)
include unmet

theorem checkBank_of_bad_header (header : ¬ s.bankHeader k off) : s.checkBank k off map = .failed .bankCheck := by
  have differs : ¬ (Memory.readNat s.mem off 4 = 0x4B4E4142 ∧ Memory.readNat s.mem (off + 4) 1 = k ∧ Memory.readNat s.mem (off + 6) 2 ≤ 1024) :=
    header
  unfold State.checkBank
  rw [if_neg (not_outside inside), if_neg unmet, if_pos differs]

theorem checkBank_of_header (header : s.bankHeader k off) : s.checkBank k off map
    = if !inGeneral off (3088 + 12 * Memory.readNat s.mem (off + 6) 2) then .failed .regionRange
      else if s.readErr .bankOrMap (off + 16) (3072 + 12 * Memory.readNat s.mem (off + 6) 2) then .memoryError
      else if entriesPass s.mem off (Memory.readNat s.mem (off + 6) 2) map then .staged (readBank s.mem off (Memory.readNat s.mem (off + 6) 2))
      else .failed .bankCheck := by
  have agrees : Memory.readNat s.mem off 4 = 0x4B4E4142 ∧ Memory.readNat s.mem (off + 4) 1 = k ∧ Memory.readNat s.mem (off + 6) 2 ≤ 1024 := header
  unfold State.checkBank
  rw [if_neg (not_outside inside), if_neg unmet, if_neg (not_not.mpr agrees)]
  rfl

end Checks

/-! ### The end of a define (R76) -/

theorem exec_defineBankEnd (reads : MemReads) (s : State) :
    exec (.defineBankEnd reads) s = .next (s.stepWith reads.errs (State.finishDefine reads.early)) := rfl

theorem finishDefine_of_other {early : List EarlyRead} (other : ∀ rec k off map, s.service ≠ some (.defineBank rec k off map)) :
    s.finishDefine early = s := by
  unfold State.finishDefine
  split
  · next rec k off map here => exact absurd here (other rec k off map)
  · rfl

section End
variable {rec : Nat} {bank : Fin 8} (service : s.service = some (.defineBank rec bank off map)) (reads : MemReads)
include service

theorem finishDefine_eq : s.finishDefine reads.early = match ({ s with mem := s.asRead off reads.early } : State).checkBank bank off map with
    | .staged b => ({ s with service := none, banks := s.banks.set bank (some b) } : State).retire rec .ok []
    | .failed st => ({ s with service := none } : State).retire rec st []
    | .memoryError => (({ s with service := none } : State).memError .bankAndMapRecords).retire rec .memoryFault [] := by
  unfold State.finishDefine
  split
  · next rec' bank' off' map' here =>
    obtain ⟨rfl, rfl, rfl, rfl⟩ := ServiceOrder.defineBank.inj (Option.some.inj (service.symm.trans here))
    rfl
  · next other => exact absurd service (other _ _ _ _)

theorem finishDefine_of_failed {st : Status}
    (ends : ({ s with mem := s.asRead off reads.early } : State).checkBank bank off map = .failed st) :
    s.finishDefine reads.early = ({ s with service := none } : State).retire rec st [] := by
  rw [finishDefine_eq service reads, ends]

theorem finishDefine_of_staged {b : Bank}
    (ends : ({ s with mem := s.asRead off reads.early } : State).checkBank bank off map = .staged b) :
    s.finishDefine reads.early = ({ s with service := none, banks := s.banks.set bank (some b) } : State).retire rec .ok [] := by
  rw [finishDefine_eq service reads, ends]

theorem finishDefine_of_memoryError
    (ends : ({ s with mem := s.asRead off reads.early } : State).checkBank bank off map = .memoryError) :
    s.finishDefine reads.early = (({ s with service := none } : State).memError .bankAndMapRecords).retire rec .memoryFault [] := by
  rw [finishDefine_eq service reads, ends]

end End

/-- A step that ends a service order under a HALTED walker with a retirement. -/
theorem step_of_service_retires {errs : List MemErr} {effect : State → State} {x : State} {rec : Nat} {st : Status} {rs : List Nat}
    (is_effect : effect { s with errs := errs } = x.retire rec st rs) (none_ : x.service = none) (retiring : Retiring s x rec)
    (halted : s.Halted) : s.stepWith errs effect = x.retire rec st rs :=
  stepWith_of_halted is_effect (retiring.retire_halted halted) ((retire_touches x rec st rs .service (by decide)).trans none_)

/-- R168, R173: a retirement after a memory error was counted in the same step. -/
theorem retires_of_memError {x : State} {src : MemSource} {rec : Nat} {st : Status} {rs : List Nat} (retiring : Retiring s x rec)
    (alert : x.alert = (s.memError src).alert) : (x.retire rec st rs).alert.pending.fault = true
      ∧ (x.retire rec st rs).alert.memErrors = s.alert.memErrors.set src.idx (min (s.alert.memErrors[src.idx] + 1) 4294967295) := by
  rw [(retire_alert retiring.unmet retiring.taken_here).1, alertRetirement_alert, alert, memError_alert]
  dsimp only
  refine ⟨?_, rfl⟩
  split <;> rfl

theorem memError_ackCount (src : MemSource) : (s.memError src).alert.ackCount = s.alert.ackCount := by rw [memError_alert]

/-- Settles O51. -/
theorem defineBankTakeUpAndEnd : Obligations.DefineBankTakeUpAndEnd := by
  intro s reads errs
  refine ⟨fun presents => ?_, fun rec off k map service ending from_ => ?_, fun other => ?_⟩
  · have h := presents.presented
    intro c number
    have dispatched := dispatch_taken_defineBank h
    refine ⟨fun no_bank => failsTakeUp h (dispatched.trans (by rw [idx?_of_ge no_bank])), fun k is_bank => ?_⟩
    rw [show Memory.readNat s.mem (s.walker.cursor + 40) 1 = k.val from is_bank, idx?_val] at dispatched
    dsimp only at dispatched
    refine ⟨fun no_map => ?_, fun m in_use => ?_⟩
    · rw [no_map] at dispatched
      obtain ⟨t, takes, touches, -⟩ := takesAndRetires h (ps := [.banks]) dispatched
        (touches_banks (s.taken []) (s.banks.set k none)).mono (fun busy => busy) fun busy => busy
      exact ⟨t, takes, touches .banks (by decide)⟩
    · rw [in_use] at dispatched
      dsimp only at dispatched
      have idle := h.service_none (by decide)
      have no_reads : s.reading = none := reading_of_no_service idle
      have notes : NotesKept s { s.taken [] with
          banks := s.banks.set k none
          service := some (.defineBank s.walker.cursor k (Memory.readNat s.mem (s.walker.cursor + 56) 8) m.entries)
          past := [] } := by
        refine ⟨fun reads => ?_, nofun⟩
        rw [no_reads] at reads
        cases reads
      obtain ⟨t, takes, touches, past⟩ := takesInto h (ps := [.banks, .service]) dispatched
        (((touches_banks (s.taken []) (s.banks.set k none)).andThen (touches_service _ _) : Touches [.banks, .service] _ _).andThen
          (touches_past _ [])) notes
        (fun busy => busy) fun _ => rfl
      exact ⟨t, takes, touches .banks (by decide), past no_reads, touches .service (by decide)⟩
  · intro m count met region header read unreadable passes
    obtain ⟨halted, fits, taken⟩ := ending
    let check : DefineEnd := ({ s with errs := errs, mem := m } : State).checkBank k off map
    have met_iff (a n : Nat) : ({ s with errs := errs, mem := m } : State).readErr .bankOrMap a n = true ↔ met a n := by
      rw [readErr_iff]
      exact exists_congr fun e => and_congr_right fun he => ⟨And.right, fun h => ⟨from_ e he, h⟩⟩
    have unmet_reread {x : State} (errs_eq : x.errs = errs) : x.readErr .reread rec 4 = false := by
      rw [← Bool.not_eq_true, readErr_iff, errs_eq]
      rintro ⟨e, he, same, -⟩
      rw [from_ e he] at same
      cases same
    -- The three ways in which the define ends.
    have reads_of {st : Status} {banks : Vector (Option Bank) 8}
        (ends : ({ s with errs := errs } : State).finishDefine reads.early
          = ({ s with errs := errs, service := none, banks := banks } : State).retire rec st []) : read st banks := by
      let x : State := { s with errs := errs, service := none, banks := banks }
      have frame : Touches [.errs, .service, .banks] s x :=
        ((touches_errs s errs).andThen (touches_service _ _) : Touches [.errs, .service] _ _).andThen (touches_banks _ _)
      have retiring : Retiring s x rec := .of_touches frame (unmet_reread rfl) fits taken
      have retired := retire_touches x rec st []
      refine ⟨_, ?_, frame.andThen retired, retired .service (by decide), retired .banks (by decide), retiring.retires, ?_⟩
      · rw [exec_defineBankEnd]
        exact congrArg Host.Outcome.next (step_of_service_retires ends rfl retiring halted)
      · rw [(retire_alert retiring.unmet retiring.taken_here).1, alertRetirement_alert]
    have failed_of {st : Status} (ends : check = .failed st) : read st s.banks :=
      reads_of (finishDefine_of_failed (s := { s with errs := errs }) service reads ends)
    have staged_of {b : Bank} (ends : check = .staged b) : read .ok (s.banks.set k (some b)) :=
      reads_of (finishDefine_of_staged (s := { s with errs := errs }) service reads ends)
    have unreadable_of (ends : check = .memoryError) : unreadable := by
      let y : State := { s with errs := errs, service := none }
      let x : State := y.memError .bankAndMapRecords
      have counted := memError_touches y .bankAndMapRecords
      have before : Touches [.errs, .service] s y := (touches_errs s errs).andThen (touches_service _ _)
      have part {p : Part} (h : p ∉ [Part.alert, .mirror, .messages]) : y.sameAt x p := counted p h
      have retiring : Retiring s x rec :=
        ⟨unmet_reread (part (p := .errs) (by decide)), part (p := .mem) (by decide), part (p := .walker) (by decide),
          part (p := .port) (by decide), part (p := .timeBase) (by decide), memError_ackCount _, fits, taken⟩
      have retired := retire_touches x rec .memoryFault []
      have ends' : ({ s with errs := errs } : State).finishDefine reads.early = x.retire rec .memoryFault [] :=
        finishDefine_of_memoryError (s := { s with errs := errs }) service reads ends
      obtain ⟨fault, counts⟩ := retires_of_memError (st := .memoryFault) (rs := []) retiring (memError_alert_congr (s := s) (t := y) rfl _)
      refine ⟨_, ?_, ?_, (retired .service (by decide)).trans (part (p := .service) (by decide)), retiring.retires, fault, counts⟩
      · rw [exec_defineBankEnd]
        exact congrArg Host.Outcome.next (step_of_service_retires ends' (part (p := .service) (by decide)) retiring halted)
      · exact (before.andThen counted : Touches [.errs, .service, .alert, .mirror, .messages] _ _).andThen retired
    refine ⟨fun outside => failed_of (checkBank_of_outside outside), fun inside meets => unreadable_of (checkBank_of_met inside ((met_iff _ _).mpr meets)),
      fun inside unmet bad => failed_of (checkBank_of_bad_header inside (mt (met_iff _ _).mp unmet) bad), fun unmet good inside beyond => failed_of ?_,
      fun unmet good whole => ?_⟩
    · refine (checkBank_of_header inside (mt (met_iff _ _).mp unmet) good).trans (if_pos ?_)
      rw [Bool.not_eq_true', ← Bool.not_eq_true, inGeneral_iff]
      exact beyond
    · have inside : region 16 := ⟨whole.1, by have := whole.2; omega⟩
      have fits_whole : ¬ (!inGeneral off (3088 + 12 * count)) = true := by
        rw [inGeneral_iff.mpr whole]
        decide
      have checked := (checkBank_of_header (map := map) inside (mt (met_iff _ _).mp unmet) good).trans (if_neg fits_whole)
      refine ⟨fun meets => unreadable_of (checked.trans (if_pos ((met_iff _ _).mpr meets))), fun unmet' => ?_⟩
      have entries := checked.trans (if_neg (mt (met_iff _ _).mp unmet'))
      have passes_iff (b : Bank) : passes b ↔ entriesPass m off count map = true ∧ b = readBank m off count := by
        rw [← entriesPass_iff, and_assoc]
      refine ⟨fun b good => ?_, fun none_ => failed_of (entries.trans (if_neg fun pass => none_ _ ((passes_iff _).mpr ⟨pass, rfl⟩)))⟩
      obtain ⟨pass, rfl⟩ := (passes_iff b).mp good
      exact staged_of (entries.trans (if_pos pass))
  · rw [exec_defineBankEnd]
    exact congrArg Host.Outcome.next (State.stepWith_eq_effect (finishDefine_of_other (s := { s with errs := errs }) other) rfl rfl rfl)

end Sys2Proof.Machine
end

section
/-! LOAD_MAP: take-up, the flash wait, and the load that waited (R2, R6 to R9; O34). -/

-- One theorem at a time: the threads of a parallel elaboration reserve more memory than the check allows.
set_option Elab.async false

namespace Sys2Proof.Machine

variable {s : State} {rec : Nat} {image : Option Nat} {st : Status}

/-! ### A load begins (R2, R7, R8) -/

/-- R2: the loader as a load of an order begins. -/
def Loader.begun (x : Loader) (phase : LoadPhase) : Loader := { x with state := .loading, enteredFrom := x.state, load := some ⟨true, phase⟩ }

/-- R8: the reads of board memory begin with the load. -/
def LoadPhase.pastFrom (phase : LoadPhase) (past : List (List Host.Cell)) : List (List Host.Cell) :=
  match phase with
  | .memory _ => []
  | .busyWait _ => past
  | .dataRead => past

theorem beginLoad_eq (phase : LoadPhase) :
    s.beginLoad true phase = { s with loader := s.loader.begun phase, past := phase.pastFrom s.past } := by
  cases phase <;> rfl

theorem pastFrom_loadPhase (past : List (List Host.Cell)) : (s.loadPhase image).pastFrom past = if image = none then past else [] := by
  cases image <;> rfl

theorem reading_of_load {off : Nat} (service : s.service = some (.loadMap rec (some off) true)) : s.reading = some rec := by
  unfold State.reading
  rw [service]

/-- R8: the take-up of a LOAD_MAP, over the record as it stood. -/
theorem dispatch_taken_loadMap (h : Presented s 7) : (s.taken []).dispatch s.walker.cursor (readHead s.mem s.walker.cursor)
    = let source := Memory.readNat s.mem (s.walker.cursor + 40) 1
      if source = 0 ∨ source = 1 then
        let image := if source = 0 then none else some (Memory.readNat s.mem (s.walker.cursor + 56) 8)
        match s.loader.load with
        | none => { s.taken [] with
            service := some (.loadMap s.walker.cursor image true)
            loader := s.loader.begun (s.loadPhase image)
            past := (s.loadPhase image).pastFrom s.past }
        | some _ => { s.taken [] with service := some (.loadMap s.walker.cursor image false) }
      else (s.taken []).retire s.walker.cursor .mapCheck [] := by
  rw [dispatch_loadMap rfl h.head_kind]
  unfold State.takeLoadMap
  rw [taken_readNat 40 1, taken_readNat 56 8]
  simp only [beginLoad_eq]
  rfl

/-! ### A load ends without a map (R2, R6, R9) -/

theorem endLoadOrder_of_power_on : s.endLoadOrder false st = s := by
  unfold State.endLoadOrder
  split <;> rfl

theorem endLoadOrder_of_order {begun : Bool} (service : s.service = some (.loadMap rec image begun)) :
    s.endLoadOrder true st = ({ s with service := none } : State).retire rec st [] := by
  unfold State.endLoadOrder
  rw [service]
  rfl

section Wait
variable {o : Bool} {start : Nat} (load : s.loader.load = some ⟨o, .busyWait start⟩)
include load

theorem flashStatus_of_wait (status : Byte) : s.flashStatus status
    = if status.getLsbD 0 then s else { s with loader := { s.loader with load := some ⟨o, .dataRead⟩ } } := by
  unfold State.flashStatus
  split
  · next o' start' here =>
    rw [load] at here
    cases here
    rfl
  · next other => exact absurd load (other o start)

theorem flashTimeout_of_wait : s.flashTimeout = if start + 50000 ≤ s.timeBase then s.dropLoad.endLoadOrder o .flashTimeout else s := by
  unfold State.flashTimeout
  split
  · next o' start' here =>
    rw [load] at here
    cases here
    rfl
  · next other => exact absurd load (other o start)

end Wait

section NoWait
variable (none_ : ∀ o start, s.loader.load ≠ some ⟨o, .busyWait start⟩)
include none_

theorem flashStatus_of_no_wait (status : Byte) : s.flashStatus status = s := by
  unfold State.flashStatus
  split
  · next o start here => exact absurd here (none_ o start)
  · rfl

theorem flashTimeout_of_no_wait : s.flashTimeout = s := by
  unfold State.flashTimeout
  split
  · next o start here => exact absurd here (none_ o start)
  · rfl

end NoWait

/-! ### The load that waited (R7) -/

theorem beginWaitingLoad_of_waiting (service : s.service = some (.loadMap rec image false)) (load : s.loader.load = none) :
    s.beginWaitingLoad = { s with
      service := some (.loadMap rec image true)
      loader := s.loader.begun (s.loadPhase image)
      past := (s.loadPhase image).pastFrom s.past } := by
  unfold State.beginWaitingLoad
  rw [service, load]
  exact beginLoad_eq (s := { s with service := some (.loadMap rec image true) }) _

theorem beginWaitingLoad_of_other (other : (∀ rec image, s.service ≠ some (.loadMap rec image false)) ∨ s.loader.load ≠ none) :
    s.beginWaitingLoad = s := by
  unfold State.beginWaitingLoad
  split
  · next rec image service load =>
    rcases other with not_waiting | runs
    · exact absurd service (not_waiting rec image)
    · exact absurd load runs
  · rfl

theorem exec_flashBusyTimeout (errs : List MemErr) (s : State) :
    exec (.flashBusyTimeout errs) s = .next (s.stepWith errs State.flashTimeout) := rfl

/-- Settles O34. -/
theorem loadsBeginAndWaitForTheFlash : Obligations.LoadsBeginAndWaitForTheFlash := by
  intro s status errs begun ended
  have begun_eq (image : Option Nat) : s.loader.begun (s.loadPhase image) = begun image := by cases image <;> rfl
  refine ⟨fun presents => ?_, fun o start load => ⟨congrArg Host.Outcome.next (flashStatus_of_wait load status), fun early => ?_, fun late power_on => ?_,
    fun rec image late of_order service ending => ?_⟩, fun none_ => ⟨congrArg Host.Outcome.next (flashStatus_of_no_wait none_ status), ?_⟩,
    fun rec image service load => ?_, fun other => congrArg Host.Outcome.next (beginWaitingLoad_of_other other)⟩
  · have h := presents.presented
    intro c source image
    have dispatched := dispatch_taken_loadMap h
    have idle := h.service_none (by decide)
    have no_reads : s.reading = none := reading_of_no_service idle
    refine ⟨fun bad => failsTakeUp h (dispatched.trans (if_neg (show ¬ (source = 0 ∨ source = 1) by omega))), fun good free => ?_, fun good runs => ?_⟩
    · have flies := dispatched.trans (if_pos (show source = 0 ∨ source = 1 by omega))
      rw [free] at flies
      dsimp only at flies
      let v : State := { s.taken [] with
        service := some (.loadMap c image true)
        loader := s.loader.begun (s.loadPhase image)
        past := (s.loadPhase image).pastFrom s.past }
      have frame : Touches [.past, .service, .loader] (s.taken []) v :=
        ((touches_service (s.taken []) (some (.loadMap c image true))).andThen (touches_loader _ (s.loader.begun (s.loadPhase image))) :
          Touches [.service, .loader] _ _).andThen (touches_past _ ((s.loadPhase image).pastFrom s.past))
      have notes : NotesKept s v := by
        refine ⟨fun reads => ?_, fun not_reading => ?_⟩
        · rw [no_reads] at reads
          cases reads
        · show (s.loadPhase image).pastFrom s.past = s.past
          cases at_ : image with
          | none => rfl
          | some off =>
            have reads : v.reading = some c := reading_of_load (show v.service = some (.loadMap c (some off) true) by rw [← at_])
            rw [reads] at not_reading
            cases not_reading
      obtain ⟨t, takes, touches, past⟩ := takesInto h (ps := [.service, .loader]) flies frame notes (fun busy => busy) fun _ => rfl
      refine ⟨t, takes, touches .service (by decide), (touches .loader (by decide)).trans (begun_eq image), fun from_memory => ?_⟩
      exact (past no_reads).trans ((pastFrom_loadPhase s.past).trans (if_neg from_memory))
    · have flies := dispatched.trans (if_pos (show source = 0 ∨ source = 1 by omega))
      obtain ⟨load, here⟩ := Option.ne_none_iff_exists'.mp runs
      rw [here] at flies
      dsimp only at flies
      obtain ⟨t, takes, touches, -⟩ := takesInto h (ps := [.service]) flies (touches_service _ _).mono (.of_past rfl) (fun busy => busy) fun _ => rfl
      exact ⟨t, takes, touches .service (by decide)⟩
  · have waits := (flashTimeout_of_wait (s := { s with errs := errs }) load).trans (if_neg (Nat.not_le.mpr early))
    exact congrArg Host.Outcome.next (State.stepWith_eq_effect waits rfl rfl rfl)
  · have ends := (flashTimeout_of_wait (s := { s with errs := errs }) load).trans (if_pos late)
    rw [power_on, endLoadOrder_of_power_on] at ends
    exact congrArg Host.Outcome.next (State.stepWith_eq_effect ends rfl rfl rfl)
  · obtain ⟨halted, fits, taken⟩ := ending
    let x : State := { s with errs := [], loader := ended, service := none }
    have ends : ({ s with errs := [] } : State).flashTimeout = x.retire rec .flashTimeout [] := by
      refine ((flashTimeout_of_wait (s := { s with errs := [] }) load).trans (if_pos late)).trans ?_
      rw [of_order]
      exact endLoadOrder_of_order (s := State.dropLoad { s with errs := [] }) service
    have frame : Touches [.loader, .service] { s with errs := [] } x := (touches_loader _ _).andThen (touches_service _ _)
    have retiring : Retiring s x rec := .of_frame frame fits taken
    have retired := retire_touches x rec .flashTimeout []
    refine ⟨_, ?_, ?_, retired .service (by decide), retired .loader (by decide), retiring.retires⟩
    · rw [exec_flashBusyTimeout]
      exact congrArg Host.Outcome.next (step_of_service_retires ends rfl retiring halted)
    · exact ((touches_errs s []).andThen frame : Touches [.errs, .loader, .service] _ _).andThen retired
  · rw [exec_flashBusyTimeout]
    exact congrArg Host.Outcome.next (State.stepWith_eq_effect (flashTimeout_of_no_wait (s := { s with errs := errs }) none_) rfl rfl rfl)
  · refine congrArg Host.Outcome.next ((beginWaitingLoad_of_waiting service load).trans ?_)
    rw [begun_eq, pastFrom_loadPhase]

end Sys2Proof.Machine
end

section
/-! The map in use replaced: what every link receiver takes from it, and the end of a load (R2, R5, R9, R11; O35). -/

-- One theorem at a time: the threads of a parallel elaboration reserve more memory than the check allows.
set_option Elab.async false

namespace Sys2Proof.Machine

variable {s : State} {l : LinkNo} {m : FocalMap} {x : StreamNo} {g : StreamEntry} {st : Status} {errs : List MemErr}

/-! ### The settings that a link draws from a map (R11) -/

theorem mem_onLink {seg : SegNo} : seg ∈ m.onLink l ↔ ∃ e, m.entries[seg] = some e ∧ e.link = l := by
  unfold FocalMap.onLink
  rw [List.mem_filter]
  cases m.entries[seg] with
  | none => simp
  | some e => simp

theorem drawSettings_of_no_segment (none_ : ∀ (seg : SegNo) (e : SegEntry), m.entries[seg] = some e → e.link ≠ l) :
    drawSettings (some m) l = none := by
  have nothing : m.onLink l = [] := List.eq_nil_iff_forall_not_mem.mpr fun seg on => by
    obtain ⟨e, entry, link⟩ := mem_onLink.mp on
    exact none_ seg e entry link
  simp only [drawSettings, nothing, List.head?_nil]

/-- R11: lanes and burst-end come from the lowest segment on the link. -/
theorem drawSettings_of_segment {seg : SegNo} {e : SegEntry} (entry : m.entries[seg] = some e) (link : e.link = l) :
    ∃ (low : SegNo) (d : SegEntry), m.entries[low] = some d ∧ d.link = l
      ∧ drawSettings (some m) l = some { lanes := d.lanes, burstEnd := d.burstEnd, streams := vecOf (m.streamEntry l) } := by
  have on : seg ∈ m.onLink l := mem_onLink.mpr ⟨e, entry, link⟩
  obtain ⟨low, tail, split⟩ := List.exists_cons_of_ne_nil (List.ne_nil_of_mem on)
  obtain ⟨d, entry', link'⟩ := mem_onLink.mp (split ▸ List.mem_cons_self : low ∈ m.onLink l)
  exact ⟨low, d, entry', link', by simp only [drawSettings, split, List.head?_cons, entry']⟩

theorem drawSettings_streams {st : LinkSettings} (drawn : drawSettings (some m) l = some st) (x : StreamNo) : st.streams[x] = m.streamEntry l x := by
  unfold drawSettings at drawn
  dsimp only at drawn
  split at drawn
  · cases drawn
  · split at drawn
    · cases drawn
    · cases drawn
      exact vecOf_getElem _ x.val x.isLt

/-- R11: an entry of a stream table is drawn from a segment of that link and stream. -/
theorem streamEntry_source (drawn : m.streamEntry l x = some g) :
    ∃ (seg : SegNo) (e : SegEntry), m.entries[seg] = some e ∧ (e.link = l ∧ e.stream = x) ∧ g = e.streamEntry seg := by
  obtain ⟨seg, -, found⟩ := List.exists_of_findSome?_eq_some drawn
  cases entry : m.entries[seg] with
  | none =>
    rw [entry] at found
    cases found
  | some e =>
    rw [entry] at found
    obtain ⟨same, drawn⟩ := Option.ite_none_right_eq_some.mp found
    exact ⟨seg, e, entry, same, (Option.some.inj drawn).symm⟩

/-- R4 check 6, R11: under a checked map every present segment has its entry. -/
theorem streamEntry_of_checked (checked : m.Checked) {seg : SegNo} {e : SegEntry} (entry : m.entries[seg] = some e) :
    m.streamEntry e.link e.stream = some (e.streamEntry seg) := by
  obtain ⟨-, -, pairs⟩ := checked
  have found : (m.streamEntry e.link e.stream).isSome := by
    refine List.findSome?_isSome_iff.mpr ⟨seg, List.mem_finRange seg, ?_⟩
    rw [entry]
    simp
  obtain ⟨g, drawn⟩ := Option.isSome_iff_exists.mp found
  obtain ⟨seg', d, entry', same, rfl⟩ := streamEntry_source drawn
  obtain rfl : seg' = seg := (pairs seg' seg d e entry' entry).1 same
  obtain rfl : d = e := Option.some.inj (entry'.symm.trans entry)
  exact drawn

/-! ### A link takes its settings afresh (R11, R14, R25) -/

/-- R11, R14, R25: a link with its settings taken afresh, in IDLE or OFF. -/
def Link.resettled (k : Link) (st : Option LinkSettings) : Link :=
  match st with
  | some x => { k with phase := .idle, settings := some x, replaced := false }
  | none => { k with phase := .off, settings := none, current := none, refused := none, replaced := false }

/-- R11: a link after the map in use was replaced. -/
def Link.replacedBy (k : Link) (st : Option LinkSettings) : Link :=
  if k.phase = .burst then { k with replaced := true } else k.resettled st

theorem replacedBy_of_burst {k : Link} (h : k.phase = .burst) (st : Option LinkSettings) : k.replacedBy st = { k with replaced := true } :=
  if_pos h

theorem replacedBy_of_not_burst {k : Link} (h : k.phase ≠ .burst) (st : Option LinkSettings) : k.replacedBy st = k.resettled st := if_neg h

theorem resettled_settings (k : Link) (st : Option LinkSettings) : (k.resettled st).settings = st := by
  cases st <;> rfl

theorem resettled_phase (k : Link) (st : Option LinkSettings) : (k.resettled st).phase = if st = none then .off else .idle := by
  cases st <;> rfl

theorem enterOff_links : (s.enterOff l).links = s.links.set l (s.links[l].resettled none) := by
  unfold State.enterOff
  split
  · exact mapLink_links_of_set (closeFor_links s l _) _
  · rfl

theorem takeSettings_links : (s.takeSettings l).links = s.links.set l (s.links[l].resettled (drawSettings s.loader.inUse l)) := by
  unfold State.takeSettings
  cases drawSettings s.loader.inUse l with
  | some st => rfl
  | none => exact enterOff_links

theorem linkReplaced_links : (s.linkReplaced l).links = s.links.set l (s.links[l].replacedBy (drawSettings s.loader.inUse l)) := by
  unfold State.linkReplaced
  split
  · next burst => exact congrArg (s.links.set l) (replacedBy_of_burst burst _).symm
  · next idle => rw [takeSettings_links, replacedBy_of_not_burst (by rw [idle]; decide)]
  · next off => rw [takeSettings_links, replacedBy_of_not_burst (by rw [off]; decide)]

section Idle
variable (h : ∀ o, s.deposit ≠ .serving o)
include h

theorem enterOff_touches_of_not_serving : Touches [.links, .exposures, .slots, .mirror] s (s.enterOff l) := by
  unfold State.enterOff
  split
  · exact ((closeFor_touches_of_not_serving h).andThen (mapLink_touches _ l _) :
      Touches [.links, .exposures, .slots, .mirror, .links] _ _).mono
  · exact (mapLink_touches _ l _).mono

theorem takeSettings_touches_of_not_serving : Touches [.links, .exposures, .slots, .mirror] s (s.takeSettings l) := by
  unfold State.takeSettings
  split
  · exact (mapLink_touches _ l _).mono
  · exact enterOff_touches_of_not_serving h

theorem linkReplaced_touches_of_not_serving : Touches [.links, .exposures, .slots, .mirror] s (s.linkReplaced l) := by
  unfold State.linkReplaced
  split
  · exact (mapLink_touches _ l _).mono
  · exact takeSettings_touches_of_not_serving h
  · exact takeSettings_touches_of_not_serving h

end Idle

/-- R11: without an order SERVING, links told one after the other each take what the map in use gives them. -/
theorem foldl_linkReplaced (ls : List LinkNo) (each : ls.Nodup) (h : ∀ o, s.deposit ≠ .serving o) :
    Touches [.links, .exposures, .slots, .mirror] s (ls.foldl State.linkReplaced s)
      ∧ ∀ l : LinkNo, (ls.foldl State.linkReplaced s).links[l]
        = if l ∈ ls then s.links[l].replacedBy (drawSettings s.loader.inUse l) else s.links[l] := by
  induction ls generalizing s with
  | nil => exact ⟨Touches.refl _ s, fun _ => rfl⟩
  | cons k ls ih =>
    have first := linkReplaced_touches_of_not_serving (l := k) h
    obtain ⟨not_in, each'⟩ := List.nodup_cons.mp each
    obtain ⟨touches, links⟩ := ih (s := s.linkReplaced k) each' (by rwa [first .deposit (by decide)])
    refine ⟨(first.andThen touches : Touches ([.links, .exposures, .slots, .mirror] ++ [.links, .exposures, .slots, .mirror]) _ _).mono, fun l => ?_⟩
    rw [List.foldl_cons, links l, first .loader (by decide), linkReplaced_links, links_set_getElem]
    by_cases same : l = k
    · subst same
      rw [if_neg not_in, if_pos rfl, if_pos List.mem_cons_self]
    · simp only [List.mem_cons, same, false_or, if_false]

/-- R2, R9, R11: the staged map installed and every link told. -/
theorem tellLinks_installMap (h : ∀ o, s.deposit ≠ .serving o) :
    Touches [.loader, .links, .exposures, .slots, .mirror] s (s.installMap m).tellLinks
      ∧ (s.installMap m).tellLinks.loader = { s.loader with inUse := some m, state := .valid, load := none }
      ∧ ∀ l : LinkNo, (s.installMap m).tellLinks.links[l] = s.links[l].replacedBy (drawSettings (some m) l) := by
  obtain ⟨touches, links⟩ := foldl_linkReplaced (s := s.installMap m) (List.finRange 4) (List.nodup_finRange 4) h
  refine ⟨((installMap_touches s m).andThen touches : Touches [.loader, .links, .exposures, .slots, .mirror] _ _), touches .loader (by decide),
    fun l => ?_⟩
  exact (links l).trans (if_pos (List.mem_finRange l))

/-! ### The running load ends (R5, R9) -/

theorem finishLoad_eq {o : Bool} {phase : LoadPhase} {out : LoadEnd} {flash : List Byte} {early : List EarlyRead}
    (load : s.loader.load = some ⟨o, phase⟩)
    (reads : phase = .dataRead ∧ out = flashLoad flash
      ∨ ∃ off, phase = .memory off ∧ out = ({ s with mem := s.asRead off early } : State).memoryLoad off) :
    s.finishLoad flash early = s.endLoad o out := by
  unfold State.finishLoad
  rcases reads with ⟨rfl, rfl⟩ | ⟨off, rfl, rfl⟩ <;> rw [load]

theorem endStaged_of_idle (o : Bool) (idle : s.deposit = .idle) : s.endStaged o m = (s.installMap m).tellLinks.endLoadOrder o .ok := by
  have none_ : s.assembly = none := by rw [State.assembly, idle]
  unfold State.endStaged
  rw [none_, Option.isSome_none, Bool.and_false]
  rfl

theorem exec_mapLoadEnd (flash : List Byte) (reads : MemReads) (s : State) :
    exec (.mapLoadEnd flash reads) s = .next (s.stepWith reads.errs (State.finishLoad flash reads.early)) := rfl

/-- Settles O35. -/
theorem mapLoadEnds : Obligations.MapLoadEnds := by
  refine ⟨fun s flash reads idle => ?_, fun l => rfl, fun m l checked => ⟨drawSettings_of_no_segment, fun seg e entry link => ?_, fun st x g drawn stream => ?_⟩⟩
  · intro errs failed installed
    have idle' : ∀ o, s.deposit ≠ .serving o := fun o serving => by
      rw [idle] at serving
      cases serving
    have installs {m : FocalMap} {t : State} (loader : t.loader = { s.loader with inUse := some m, state := .valid, load := none })
        (links : ∀ l : LinkNo, t.links[l] = s.links[l].replacedBy (drawSettings (some m) l)) : installed t m := by
      refine ⟨loader, fun l => ⟨fun burst => (links l).trans (replacedBy_of_burst burst _), fun off_burst => ?_⟩⟩
      rw [links l, replacedBy_of_not_burst off_burst]
      exact ⟨resettled_settings _ _, resettled_phase _ _⟩
    refine ⟨fun load => ⟨fun st fails => ?_, fun m staged => ?_⟩, fun rec image phase out service load ending from_ outcome => ?_⟩
    · have ends := finishLoad_eq (s := { s with errs := errs }) (flash := flash) (out := flashLoad flash) (early := reads.early) load (.inl ⟨rfl, rfl⟩)
      rw [fails] at ends
      exact congrArg Host.Outcome.next (State.stepWith_eq_effect (ends.trans endLoadOrder_of_power_on) rfl rfl rfl)
    · have ends := finishLoad_eq (s := { s with errs := errs }) (flash := flash) (out := flashLoad flash) (early := reads.early) load (.inl ⟨rfl, rfl⟩)
      rw [staged] at ends
      obtain ⟨touches, loader, links⟩ := tellLinks_installMap (s := { s with errs := errs }) (m := m) idle'
      have frame : Touches [.loader, .links, .exposures, .slots, .mirror, .errs] s (State.installMap m { s with errs := errs }).tellLinks :=
        ((touches_errs s errs).andThen touches : Touches [.errs, .loader, .links, .exposures, .slots, .mirror] _ _).mono
      refine ⟨_, ?_, installs loader links, frame⟩
      rw [exec_mapLoadEnd]
      exact congrArg Host.Outcome.next (stepWith_of_keepsBusy
        ((ends.trans (endStaged_of_idle false idle)).trans endLoadOrder_of_power_on) (.of_frame frame))
    · obtain ⟨halted, fits, taken⟩ := ending
      have ends := finishLoad_eq (s := { s with errs := errs }) load outcome
      have unmet {x : State} (errs_eq : x.errs = errs) : x.readErr .reread rec 4 = false := by
        rw [← Bool.not_eq_true, readErr_iff, errs_eq]
        rintro ⟨e, he, same, -⟩
        rw [from_ e he] at same
        cases same
      cases out with
      | failed st =>
        let x : State := { s with errs := errs, loader := failed, service := none }
        have frame : Touches [.errs, .loader, .service] s x :=
          ((touches_errs s errs).andThen (touches_loader _ _) : Touches [.errs, .loader] _ _).andThen (touches_service _ _)
        have retiring : Retiring s x rec := .of_touches frame (unmet rfl) fits taken
        have retired := retire_touches x rec st []
        have ends' : State.finishLoad flash reads.early { s with errs := errs } = x.retire rec st [] :=
          ends.trans (endLoadOrder_of_order (s := State.dropLoad { s with errs := errs }) service)
        refine ⟨_, ?_, retired .service (by decide), fun st' same => ?_, nofun, nofun⟩
        · rw [exec_mapLoadEnd]
          exact congrArg Host.Outcome.next (step_of_service_retires ends' rfl retiring halted)
        · cases same
          refine ⟨frame.andThen retired, retired .loader (by decide), retiring.retires, ?_⟩
          rw [(retire_alert retiring.unmet retiring.taken_here).1, alertRetirement_alert]
      | memoryError =>
        let y : State := { s with errs := errs }
        let x : State := { y.memError .bankAndMapRecords with loader := failed, service := none }
        have counted := memError_touches y .bankAndMapRecords
        have frame : Touches [.alert, .mirror, .messages, .loader, .service] y x :=
          (counted.andThen (touches_loader _ failed) : Touches [.alert, .mirror, .messages, .loader] _ _).andThen
            (touches_service { y.memError .bankAndMapRecords with loader := failed } none)
        have part {p : Part} (h : p ∉ [Part.alert, .mirror, .messages, .loader, .service]) : y.sameAt x p := frame p h
        have retiring : Retiring s x rec :=
          ⟨unmet (part (p := .errs) (by decide)), part (p := .mem) (by decide), part (p := .walker) (by decide),
            part (p := .port) (by decide), part (p := .timeBase) (by decide), memError_ackCount (s := y) _, fits, taken⟩
        have retired := retire_touches x rec .memoryFault []
        have loader : (y.memError .bankAndMapRecords).loader = s.loader := counted .loader (by decide)
        have ends' : State.finishLoad flash reads.early y = x.retire rec .memoryFault [] := by
          refine ends.trans ((endLoadOrder_of_order (s := (y.memError .bankAndMapRecords).dropLoad) ((counted .service (by decide)).trans service)).trans ?_)
          unfold State.dropLoad
          rw [loader]
        obtain ⟨fault, counts⟩ := retires_of_memError (st := .memoryFault) (rs := []) retiring
          (memError_alert_congr (s := s) (t := y) rfl .bankAndMapRecords)
        refine ⟨_, ?_, retired .service (by decide), nofun, fun _ => ?_, nofun⟩
        · rw [exec_mapLoadEnd]
          exact congrArg Host.Outcome.next (step_of_service_retires ends' rfl retiring halted)
        · exact ⟨((touches_errs s errs).andThen frame : Touches [.errs, .alert, .mirror, .messages, .loader, .service] _ _).andThen retired, retired .loader (by decide), retiring.retires, fault, counts⟩
      | staged m =>
        obtain ⟨touches, loader, links⟩ := tellLinks_installMap (s := { s with errs := errs }) (m := m) idle'
        let x : State := { (State.installMap m { s with errs := errs }).tellLinks with service := none }
        have frame : Touches [.errs, .loader, .links, .exposures, .slots, .mirror, .service] s x :=
          ((touches_errs s errs).andThen touches : Touches [.errs, .loader, .links, .exposures, .slots, .mirror] _ _).andThen (touches_service _ _)
        have retiring : Retiring s x rec := .of_touches frame (unmet (touches .errs (by decide))) fits taken
        have retired := retire_touches x rec .ok []
        have ends' : State.finishLoad flash reads.early { s with errs := errs } = x.retire rec .ok [] :=
          (ends.trans (endStaged_of_idle true idle)).trans (endLoadOrder_of_order ((touches .service (by decide)).trans service))
        refine ⟨_, ?_, retired .service (by decide), nofun, nofun, fun m' same => ?_⟩
        · rw [exec_mapLoadEnd]
          exact congrArg Host.Outcome.next (step_of_service_retires ends' rfl retiring halted)
        · cases same
          refine ⟨frame.andThen retired, installs ((retired .loader (by decide)).trans loader) fun k => ?_, retiring.retires⟩
          rw [retired .links (by decide)]
          exact links k
  · obtain ⟨low, d, entry', link', drawn⟩ := drawSettings_of_segment entry link
    obtain ⟨-, -, pairs⟩ := id checked
    obtain ⟨lanes, burst⟩ := (pairs low seg d e entry' entry).2 (link'.trans link.symm)
    refine ⟨_, drawn, lanes, burst, ?_⟩
    rw [drawSettings_streams drawn]
    subst link
    exact streamEntry_of_checked checked entry
  · rw [drawSettings_streams drawn] at stream
    obtain ⟨seg, e, entry, same, rfl⟩ := streamEntry_source stream
    exact ⟨e, entry, same⟩

end Sys2Proof.Machine
end

section
/-! DISCARD_EXPOSURE (R66, R67; O21). -/

-- One theorem at a time: the threads of a parallel elaboration reserve more memory than the check allows.
set_option Elab.async false

namespace Sys2Proof.Machine

variable {s t : State} {l : LinkNo} {tag : Tag}

/-! ### The entries of the other exposures -/

/-- What a place holds for another exposure than that of the tag. -/
def State.otherAt (s : State) (tag : Tag) (p : Fin 4) : Option ExpEntry := (s.exposures[p]).filter fun e => decide (e.tag ≠ tag)

theorem freeSlotAs_otherAt (h : s.TagsDistinct) (why : FreeReason) {n : SlotNo} {sl : Slot} (here : s.slots[n] = some sl) (p : Fin 4) :
    (s.freeSlotAs why n).otherAt sl.tag p = s.otherAt sl.tag p := by
  unfold State.otherAt
  rw [freeSlotAs_getElem h why here]
  cases s.exposures[p] with
  | none => rfl
  | some e =>
    by_cases same : e.tag = sl.tag
    · simp only [Option.map_some, same, if_true, Option.filter_some]
      split <;> simp [Option.filter_some]
    · simp [Option.filter_some, same]

/-- R56, R67, step 2: an entry made DISCARDED is gone, and every other stands. -/
theorem discarded_getElem (h : s.TagsDistinct) (p : Fin 4) :
    ((s.mapEntry tag fun e => { e with state := .discarded }).removalCheck tag).exposures[p] = s.otherAt tag p := by
  have still : (s.mapEntry tag fun e => { e with state := .discarded }).TagsDistinct := by
    intro p q d e hd he same
    rw [mapEntry_getElem h] at hd he
    obtain ⟨d', hd', rfl⟩ := Option.map_eq_some_iff.mp hd
    obtain ⟨e', he', rfl⟩ := Option.map_eq_some_iff.mp he
    refine h p q d' e' hd' he' ?_
    split at same <;> split at same <;> exact same
  rw [removalCheck_getElem still, mapEntry_getElem h, State.otherAt]
  cases s.exposures[p] with
  | none => rfl
  | some e =>
    by_cases same : e.tag = tag
    · simp [Option.filter_some, same]
    · simp [Option.filter_some, same]

theorem otherAt_of_place {p : Fin 4} {e : ExpEntry} (h : s.TagsDistinct) (here : s.exposures[p] = some e) (names : e.tag = tag) (q : Fin 4) :
    s.otherAt tag q = if q = p then none else s.exposures[q] := by
  unfold State.otherAt
  split
  · next same =>
    subst same
    rw [here, Option.filter_some, names]
    simp
  · next other =>
    cases there : s.exposures[q] with
    | none => rfl
    | some d =>
      have differs : d.tag ≠ tag := fun same => other (h q p d e there here (same.trans names.symm))
      simp [Option.filter_some, differs]

/-! ### The slots freed (R67, step 1) -/

/-- What the freeing of slots of a tag, with the number freed so far, keeps: table and pool in agreement, the entries of other exposures,
the number freed with those still to free, and what waits for the progress block. -/
structure DiscardsBy (tag : Tag) (a b : State × Nat) : Prop where
  pool : a.1.PoolOk → b.1.PoolOk
  others : a.1.PoolOk → ∀ p, b.1.otherAt tag p = a.1.otherAt tag p
  total : b.2 + b.1.slotsNaming tag = a.2 + a.1.slotsNaming tag
  grows : MirrorGrows a.1 b.1

theorem DiscardsBy.refl (tag : Tag) (a : State × Nat) : DiscardsBy tag a a := ⟨id, fun _ _ => rfl, rfl, .of_eq rfl⟩

theorem DiscardsBy.trans {a b c : State × Nat} (h : DiscardsBy tag a b) (g : DiscardsBy tag b c) : DiscardsBy tag a c :=
  ⟨g.pool ∘ h.pool, fun ok p => (g.others (h.pool ok) p).trans (h.others ok p), g.total.trans h.total, h.grows.trans g.grows⟩

theorem discardSlot_of_named {a : State × Nat} {n : SlotNo} {sl : Slot} (here : a.1.slots[n] = some sl) (names : sl.tag = tag) :
    State.discardSlot tag a n = (a.1.freeSlotAs .discard n, a.2 + 1) := by
  unfold State.discardSlot
  rw [here]
  exact if_pos names

theorem discardSlot_discards (a : State × Nat) (n : SlotNo) : DiscardsBy tag a (State.discardSlot tag a n) := by
  cases here : a.1.slots[n] with
  | none =>
    have none_ : State.discardSlot tag a n = a := by
      unfold State.discardSlot
      rw [here]
    rw [none_]
    exact .refl tag a
  | some sl =>
    by_cases names : sl.tag = tag
    · rw [discardSlot_of_named here names]
      refine ⟨fun ok => ok.freeSlotAs .discard n, fun ok p => names ▸ freeSlotAs_otherAt ok.distinct .discard here p, ?_, freeSlotAs_grows _ _⟩
      have moved := slotsNaming_setSlot (s := a.1) (tag := tag) n none
      have freed : (a.1.freeSlotAs .discard n).slotsNaming tag = (a.1.setSlot n none).slotsNaming tag := by
        rw [State.slotsNaming_eq, State.slotsNaming_eq, freeSlotAs_slots a.1 .discard n sl here, setSlot_slots]
      rw [here] at moved
      simp only [namesTag, names, decide_true, Bool.toNat_true, Bool.toNat_false] at moved
      dsimp only
      omega
    · have other : State.discardSlot tag a n = a := by
        unfold State.discardSlot
        rw [here]
        exact if_neg names
      rw [other]
      exact .refl tag a

theorem discardSlots_discards (ns : List SlotNo) (a : State × Nat) : DiscardsBy tag a (ns.foldl (State.discardSlot tag) a) := by
  induction ns generalizing a with
  | nil => exact .refl tag a
  | cons n ns ih => exact (discardSlot_discards a n).trans (ih _)

/-- R66: each slot freed leaves its report waiting. -/
theorem discardSlots_reports (ns : List SlotNo) (a : State × Nat) {m : SlotNo} {sl : Slot} (here : a.1.slots[m] = some sl)
    (names : sl.tag = tag) (through : m ∈ ns) :
    ⟨reportOff sl.seg, reportBytes .discard sl⟩ ∈ (ns.foldl (State.discardSlot tag) a).1.mirror := by
  induction ns generalizing a with
  | nil => cases through
  | cons n ns ih =>
    rw [List.foldl_cons]
    by_cases first : m = n
    · subst first
      refine (discardSlots_discards ns _).grows.mem ?_
      rw [discardSlot_of_named here names]
      exact freeSlotAs_reports .discard here
    · refine ih _ ?_ ((List.mem_cons.mp through).resolve_left first)
      rw [discardSlot_slot_getElem, if_neg fun both => first both.1]
      exact here

/-! ### The links that named it (R67, step 3) -/

/-- R67, step 3: a link whose current exposure is discarded has it as its refused marker. -/
def Link.refusing (k : Link) (tag : Tag) : Link := if k.current = some tag then { k with current := none, refused := some tag } else k

theorem refusing_refusing (k : Link) (tag : Tag) : (k.refusing tag).refusing tag = k.refusing tag := by
  unfold Link.refusing
  by_cases names : k.current = some tag
  · rw [if_pos names]
    exact if_neg nofun
  · rw [if_neg names, if_neg names]

theorem refuseLink_links (k : LinkNo) : (State.refuseLink tag s k).links[l] = if l = k then s.links[l].refusing tag else s.links[l] := by
  unfold State.refuseLink Link.refusing
  by_cases names : s.links[k].current = some tag
  · have set_ : (s.setNames k none (some tag)).links = s.links.set k { s.links[k] with current := none, refused := some tag } := rfl
    rw [if_pos names, set_, links_set_getElem]
    by_cases same : l = k
    · subst same
      rw [if_pos rfl, if_pos rfl, if_pos names]
    · rw [if_neg same, if_neg same]
  · rw [if_neg names]
    by_cases same : l = k
    · subst same
      rw [if_pos rfl, if_neg names]
    · rw [if_neg same]

theorem foldl_refuseLink_links (ls : List LinkNo) (l : LinkNo) :
    (ls.foldl (State.refuseLink tag) s).links[l] = if l ∈ ls then s.links[l].refusing tag else s.links[l] := by
  induction ls generalizing s with
  | nil => rfl
  | cons k ls ih =>
    rw [List.foldl_cons, ih, refuseLink_links]
    by_cases same : l = k
    · rw [if_pos same, if_pos (List.mem_cons.mpr (.inl same)), refusing_refusing, ite_self]
    · simp only [same, if_false, List.mem_cons, false_or]

/-! ### The whole effect on an entry -/

/-- R67, step 1: the slots of the tag freed, with their number. -/
def State.discardSlots (tag : Tag) (s : State) : State × Nat := (List.finRange 128).foldl (State.discardSlot tag) (s, 0)

/-- R67, steps 1 and 2. -/
def State.discardEntry (tag : Tag) (s : State) : State :=
  ((s.discardSlots tag).1.mapEntry tag fun e => { e with state := .discarded }).removalCheck tag

/-- R67: the effect of DISCARD_EXPOSURE on an exposure with an entry. -/
def State.discardExposure (tag : Tag) (s : State) : State := (List.finRange 4).foldl (State.refuseLink tag) (s.discardEntry tag)

theorem takeDiscard_of_entry {e : ExpEntry} (entry : s.entryOf tag = some e) (off : Nat) :
    s.takeDiscard off tag = (s.discardExposure tag).retire off .ok [(s.discardSlots tag).2] := by
  unfold State.takeDiscard
  rw [entry]
  rfl

theorem discardSlots_by : DiscardsBy tag (s, 0) (s.discardSlots tag) := discardSlots_discards _ _

theorem discardSlots_slots (n : SlotNo) : (s.discardSlots tag).1.slots[n] = if namesTag tag s.slots[n] = true then none else s.slots[n] := by
  rw [State.discardSlots, discardSlots_slot_getElem]
  simp only [List.mem_finRange, true_and]

theorem discardSlots_freed : (s.discardSlots tag).2 = s.slotsNaming tag := by
  have none_left : (s.discardSlots tag).1.slotsNaming tag = 0 := slotsNaming_eq_zero fun n sl left => by
    rw [discardSlots_slots] at left
    split at left
    · cases left
    · next kept => simpa [left, namesTag] using kept
  have total := (discardSlots_by (s := s) (tag := tag)).total
  rw [none_left, Nat.add_zero, Nat.zero_add] at total
  exact total

theorem discardEntry_touches_slots : Touches [.exposures, .mirror] (s.discardSlots tag).1 (s.discardEntry tag) :=
  (mapEntry_touches _ _ _).andThen (removalCheck_touches _ _)

theorem discardExposure_touches_entry : Touches [.links] (s.discardEntry tag) (s.discardExposure tag) :=
  Touches.foldl _ (fun t l => refuseLink_touches t tag l) _ _

theorem discardSlots_frame : Touches [.exposures, .slots, .mirror] s (s.discardSlots tag).1 := discardSlots_touches tag _ (s, 0)

theorem discardExposure_touches : Touches [.mirror, .links, .exposures, .slots] s (s.discardExposure tag) :=
  (discardSlots_frame.andThen discardEntry_touches_slots : Touches [.mirror, .exposures, .slots] _ _).andThen discardExposure_touches_entry

theorem discardExposure_slots (n : SlotNo) :
    (s.discardExposure tag).slots[n] = if namesTag tag s.slots[n] = true then none else s.slots[n] := by
  rw [discardExposure_touches_entry .slots (by decide), discardEntry_touches_slots .slots (by decide), discardSlots_slots]

theorem discardExposure_exposures (ok : s.PoolOk) {p : Fin 4} {e : ExpEntry} (here : s.exposures[p] = some e) (names : e.tag = tag) :
    (s.discardExposure tag).exposures = s.exposures.set p none := by
  rw [discardExposure_touches_entry .exposures (by decide)]
  refine Vector.ext fun i hi => ?_
  have at_ := discarded_getElem (tag := tag) (discardSlots_by (tag := tag) |>.pool ok).distinct ⟨i, hi⟩
  rw [discardSlots_by.others ok, otherAt_of_place ok.distinct here names, ← places_getElem_set] at at_
  exact at_

theorem discardExposure_reports {n : SlotNo} {sl : Slot} (here : s.slots[n] = some sl) (names : sl.tag = tag) :
    ⟨reportOff sl.seg, reportBytes .discard sl⟩ ∈ (s.discardExposure tag).mirror := by
  have reported : ⟨reportOff sl.seg, reportBytes .discard sl⟩ ∈ (s.discardSlots tag).1.mirror := by
    unfold State.discardSlots
    exact discardSlots_reports (List.finRange 128) (s, 0) here names (List.mem_finRange n)
  have kept : MirrorGrows (s.discardSlots tag).1 (s.discardEntry tag) := (mapEntry_grows _).trans removalCheck_grows
  rw [discardExposure_touches_entry .mirror (by decide)]
  exact kept.mem reported

theorem discardExposure_links (l : LinkNo) : (s.discardExposure tag).links[l] = s.links[l].refusing tag := by
  have links : (s.discardEntry tag).links = s.links :=
    (discardEntry_touches_slots .links (by decide)).trans (discardSlots_frame .links (by decide))
  rw [State.discardExposure, foldl_refuseLink_links, if_pos (List.mem_finRange l), links]

theorem dispatch_taken_discard (h : Presented s 6) : (s.taken []).dispatch s.walker.cursor (readHead s.mem s.walker.cursor)
    = (s.taken []).takeDiscard s.walker.cursor (BitVec.ofNat 16 (Memory.readNat s.mem (s.walker.cursor + 40) 2)) :=
  dispatch_discard rfl h.head_kind

/-- Settles O21. -/
theorem discardExposureOrder : Obligations.DiscardExposureOrder := by
  intro s presents tag
  have h := presents.presented
  have dispatched := dispatch_taken_discard h
  refine ⟨fun no_place => failsTakeUp h (dispatched.trans ?_), fun p e ok place here => ?_⟩
  · have absent : (s.taken []).entryOf tag = none := by
      unfold State.entryOf
      rw [show (s.taken []).placeOf tag = none from no_place]
    unfold State.takeDiscard
    rw [absent]
  · have names : e.tag = tag := by
      obtain ⟨d, there, same⟩ := State.placeOf_some place
      exact Option.some.inj (here.symm.trans there) ▸ same
    have entry : (s.taken []).entryOf tag = some e := entryOf_of_place (s := s.taken []) place here
    rw [takeDiscard_of_entry entry, discardSlots_freed] at dispatched
    have frame := discardExposure_touches (s := s.taken []) (tag := tag)
    obtain ⟨t, takes, touches, grows⟩ := takesAndRetires h (ps := [.links, .exposures, .slots]) dispatched frame
      (fun busy => by rwa [State.depositBusy, State.assembly, frame .deposit (by decide)])
      (fun busy => by rwa [State.serviceBusy, frame .service (by decide)])
    have slots (n : SlotNo) : t.slots[n] = if namesTag tag s.slots[n] = true then none else s.slots[n] := by
      rw [touches .slots (by decide)]
      exact discardExposure_slots n
    refine ⟨t, takes, ?_, fun n => ?_, fun n sl slot => ?_, fun l => ?_⟩
    · rw [touches .exposures (by decide)]
      exact discardExposure_exposures (s := s.taken []) ok here names
    · rw [slots n]
      cases slot : s.slots[n] with
      | none => exact .inl (ite_self _)
      | some sl =>
        by_cases same : sl.tag = tag
        · exact .inl (if_pos (decide_eq_true same))
        · exact .inr ⟨sl, if_neg (mt of_decide_eq_true same), same⟩
    · split
      · next same => exact ⟨_, grows.mem (discardExposure_reports (s := s.taken []) slot same), rfl, rfl⟩
      · next other =>
        rw [slots n, slot]
        exact if_neg (mt of_decide_eq_true other)
    · rw [touches .links (by decide)]
      exact discardExposure_links l

end Sys2Proof.Machine
end

section
/-! The deposit unit's rules for one SERVING order: segments settled, slots examined and finished (R55, R131 to R139). -/

-- One theorem at a time: the threads of a parallel elaboration reserve more memory than the check allows.
set_option Elab.async false

namespace Sys2Proof.Machine

variable {s t : State} {o o' : Assembly} {n : SlotNo} {sl : Slot} {p : Fin 4} {e : ExpEntry} {seg : SegNo} {tag : Tag} {r : Nat}

/-! ### The row a slot has ready (R132) -/

theorem rowReady_eq_none_iff : sl.rowReady = none ↔ ∀ q ∈ sl.rows, q < sl.cursor := by
  simp [Slot.rowReady, List.find?_eq_none]

theorem rowReady_isSome_iff : sl.rowReady.isSome = true ↔ ∃ q ∈ sl.rows, sl.cursor ≤ q := by
  simp [Slot.rowReady, List.find?_isSome]

/-- In ascending rows the first at or above a bound is the least. -/
theorem find?_of_sorted {rows : List Nat} {c : Nat} (sorted : rows.Pairwise (· < ·)) (in_ : r ∈ rows) (above : c ≤ r)
    (least : ∀ q ∈ rows, c ≤ q → r ≤ q) : rows.find? (fun q => decide (c ≤ q)) = some r := by
  induction rows with
  | nil => cases in_
  | cons x xs ih =>
    obtain ⟨before, sorted'⟩ := List.pairwise_cons.mp sorted
    by_cases ready : c ≤ x
    · have first : x = r := by
        rcases List.mem_cons.mp in_ with same | later
        · exact same.symm
        · have := before r later
          have := least x List.mem_cons_self ready
          omega
      rw [List.find?_cons_of_pos (by simpa using ready), first]
    · rw [List.find?_cons_of_neg (by simpa using ready)]
      refine ih sorted' ((List.mem_cons.mp in_).resolve_left fun same => ready (same ▸ above)) fun q hq => least q (List.mem_cons_of_mem _ hq)

theorem rowReady_of_next (sorted : sl.rows.Pairwise (· < ·)) (next : sl.Next r) : sl.rowReady = some r := by
  obtain ⟨in_, above, least⟩ := next
  exact find?_of_sorted sorted in_ above least

/-! ### The order and its entry (R55, R139) -/

theorem awaits_congr (exposures : t.exposures = s.exposures) (map : o'.map = o.map) (same : o'.tag = o.tag) : t.awaits o' = s.awaits o := by
  funext seg
  unfold State.awaits
  rw [map, same, entryOf_congr exposures]

theorem slotIn_congr (slots : t.slots = s.slots) (seg : SegNo) (states : List SlotState) : t.slotIn tag seg states = s.slotIn tag seg states := by
  unfold State.slotIn State.findSlot
  rw [slots]

theorem slotOf_congr (slots : t.slots = s.slots) (seg : SegNo) : t.slotOf tag seg = s.slotOf tag seg := by
  unfold State.slotOf State.findSlot
  rw [slots]

section Serving
variable (serving : s.deposit = .serving o)
include serving

theorem mapServing_of_serving (g : Assembly → Assembly) : s.mapServing g = { s with deposit := .serving (g o) } := by
  unfold State.mapServing
  rw [serving]

theorem mapResults_of_serving (f : Results → Results) : s.mapResults f = { s with deposit := .serving { o with results := f o.results } } :=
  mapServing_of_serving serving _

/-- An order left as it is. -/
theorem deposit_eta : ({ s with deposit := .serving o } : State) = s := by rw [← serving]

end Serving

theorem mapResults_mapResults (serving : s.deposit = .serving o) (f g : Results → Results) :
    (s.mapResults f).mapResults g = s.mapResults (g ∘ f) := by
  rw [mapResults_of_serving serving, mapResults_of_serving serving, mapResults_of_serving rfl]
  rfl

section Entry
variable (place : s.placeOf o.tag = some p) (here : s.exposures[p] = some e)
include place here

theorem awaits_iff : s.awaits o seg = true ↔ (o.map[seg]).isSome = true ∧ e.outcomes[seg] = .unsettled := by
  unfold State.awaits
  rw [entryOf_of_place place here, Bool.and_eq_true, decide_eq_true_eq]

/-- R55: an outcome is kept in the entry alone; no mirror shows it. -/
theorem settle_eq (seg : SegNo) (out : SegOutcome) :
    s.settle o.tag seg out = { s with exposures := s.exposures.set p (some { e with outcomes := e.outcomes.set seg out }) } := by
  unfold State.settle State.mapEntry
  rw [place]
  dsimp only
  rw [here]
  unfold State.setPlace State.mirrorIf
  dsimp only
  rw [here]
  simp

theorem settle_exposures (seg : SegNo) (out : SegOutcome) :
    (s.settle o.tag seg out).exposures = s.exposures.set p (some { e with outcomes := e.outcomes.set seg out }) := by
  rw [settle_eq place here]

end Entry

/-! ### A slot settled and freed (R55, R66) -/

/-- R55, R66, R139: a segment is settled, counted and its slot freed. -/
theorem settle_free (serving : s.deposit = .serving o) (slot : s.slots[n] = some sl) (names : sl.tag = o.tag)
    (place : s.placeOf o.tag = some p) (here : s.exposures[p] = some e) (assembling : e.state = .assembling)
    (f : Results → Results) (why : FreeReason) (out : SegOutcome) :
    let t := ((s.settle o.tag sl.seg out).mapResults f).freeSlotAs why n
    Touches [.exposures, .slots, .mirror, .deposit] s t ∧ s.SettlesAndFrees t n sl why out p e
      ∧ t.deposit = .serving { o with results := f o.results } := by
  intro t
  have settles := settle_touches s o.tag sl.seg out
  have settled := settle_exposures place here sl.seg out
  have counts : (s.settle o.tag sl.seg out).mapResults f
      = { s.settle o.tag sl.seg out with deposit := .serving { o with results := f o.results } } :=
    mapResults_of_serving ((settles .deposit (by decide)).trans serving) f
  have counted := mapResults_touches (s.settle o.tag sl.seg out) f
  have exposures : ((s.settle o.tag sl.seg out).mapResults f).exposures = s.exposures.set p (some { e with outcomes := e.outcomes.set sl.seg out }) :=
    (counted .exposures (by decide)).trans settled
  have slots : ((s.settle o.tag sl.seg out).mapResults f).slots = s.slots :=
    (counted .slots (by decide)).trans (settles .slots (by decide))
  have slot' : ((s.settle o.tag sl.seg out).mapResults f).slots[n] = some sl := by rw [slots]; exact slot
  obtain ⟨place', here', -⟩ := place_after_set place here exposures rfl
  have freed := freeSlotAs_touches ((s.settle o.tag sl.seg out).mapResults f) why n
  have stays : ¬ ({ e with outcomes := e.outcomes.set sl.seg out, held := e.held - 1 } : ExpEntry).Removable := by
    rintro (⟨assembled, -⟩ | discarded)
    · exact nomatch assembling.symm.trans assembled
    · exact nomatch assembling.symm.trans discarded
  refine ⟨(settles.andThen counted : Touches [.exposures, .mirror, .deposit] _ _).andThen freed, ⟨?_, ?_, ?_⟩, ?_⟩
  · exact (freeSlotAs_slots _ why n sl slot').trans (by rw [slots])
  · refine (freeSlotAs_exposures why slot' (by rw [names]; exact place') here').trans ?_
    rw [if_neg stays, exposures]
    exact vector_set_set _ _ _ _
  · exact ⟨_, freeSlotAs_reports why slot', rfl, rfl⟩
  · refine (freed .deposit (by decide)).trans ?_
    rw [counts]

/-! ### The finish test (R133) -/

section Finish
variable (serving : s.deposit = .serving o) (slot : s.slots[n] = some sl)
include serving slot

theorem finishTest_eq : s.finishTest n = if sl.tag = o.tag ∧ sl.state = .complete ∧ sl.rowReady = none ∧ s.awaits o sl.seg = true then
      (((s.settle o.tag sl.seg .deposited).mapResults fun q => q.finished sl).freeSlotAs .deposited n).mapServing
        fun o => { o with current := if o.current = some sl.seg then none else o.current }
    else s := by
  unfold State.finishTest
  rw [serving]
  dsimp only
  rw [slot]
  rfl

/-- R133: a slot that is not COMPLETE, or has a row ready, does not finish. -/
theorem finishTest_of_unfinished (unfinished : sl.state ≠ .complete ∨ sl.rowReady ≠ none) : s.finishTest n = s := by
  refine (finishTest_eq serving slot).trans (if_neg ?_)
  rintro ⟨-, complete, ready, -⟩
  rcases unfinished with other | more
  · exact other complete
  · exact more ready

theorem finishTest_of_finished (names : sl.tag = o.tag) (complete : sl.state = .complete) (ready : sl.rowReady = none)
    (awaited : s.awaits o sl.seg = true) (place : s.placeOf o.tag = some p) (here : s.exposures[p] = some e) (assembling : e.state = .assembling) :
    Touches [.exposures, .slots, .mirror, .deposit] s (s.finishTest n)
      ∧ s.SettlesAndFrees (s.finishTest n) n sl .deposited .deposited p e
      ∧ (s.finishTest n).deposit = .serving { o with
          results := o.results.finished sl, current := if o.current = some sl.seg then none else o.current } := by
  have finishes := (finishTest_eq serving slot).trans (if_pos ⟨names, complete, ready, awaited⟩)
  obtain ⟨-, frees, deposit⟩ := settle_free serving slot names place here assembling (fun q => q.finished sl) .deposited .deposited
  rw [mapServing_of_serving deposit] at finishes
  refine ⟨finishTest_touches s n, ?_, ?_⟩
  · rw [finishes]
    exact frees
  · rw [finishes]

end Finish

/-! ### A slot made LATE (R65, R137) -/

/-- R139: the results once a slot was made LATE. -/
def Results.madeLate (q : Results) (sl : Slot) : Results :=
  { q with late := min (q.late + 1) 4294967295, rowsMissing := min (q.rowsMissing + (sl.expected - sl.rows.length)) 4294967295 }

theorem requestLate_of_filling (slot : s.slots[n] = some sl) (names : sl.tag = tag) (filling : sl.state = .filling) :
    s.requestLate n tag sl.seg = { s with slots := s.slots.set n (some { sl with state := .late }) } := by
  unfold State.requestLate
  rw [slot]
  exact (if_pos ⟨names, rfl, filling⟩).trans (setSlot_of_taken slot _)

theorem makeLate_of_filling (serving : s.deposit = .serving o) (slot : s.slots[n] = some sl) (names : sl.tag = o.tag) (filling : sl.state = .filling) :
    s.makeLate n sl.seg
      = { ({ s with slots := s.slots.set n (some { sl with state := .late }) } : State).settle o.tag sl.seg .late with
        deposit := .serving { o with
          results := o.results.madeLate sl, draining := if o.tileComplete then o.draining else o.draining ++ [sl.seg] } } := by
  have asked := requestLate_of_filling slot names filling
  have at_ : (s.slots.set n (some { sl with state := .late }))[n] = some { sl with state := .late } := by simp [Fin.getElem_fin]
  have settled := settle_touches ({ s with slots := s.slots.set n (some { sl with state := .late }) } : State) o.tag sl.seg .late .deposit (by decide)
  unfold State.makeLate
  split
  · next o' served =>
    obtain rfl := DepositUnit.serving.inj (serving.symm.trans served)
    rw [asked]
    dsimp only
    rw [at_]
    dsimp only
    rw [if_pos ⟨names, rfl, rfl⟩, mapResults_of_serving (settled.trans serving), mapServing_of_serving rfl]
    rfl
  · next other => exact absurd serving (other o)

/-! ### The examination of a slot (R131) -/

section Examine
variable (serving : s.deposit = .serving o) (slot : s.slots[n] = some sl) (names : sl.tag = o.tag) (awaited : s.awaits o sl.seg = true)
  {g : SegEntry} (present : o.map[sl.seg] = some g)
include serving slot names awaited present

theorem examineSlot_eq : s.examineSlot n = if sl.rowLen ≠ g.rowLen ∨ sl.mapRows ≠ g.rows then
      ((s.settleMissing o.tag sl.seg).mapResults fun r => { r with mismatched := satAdd r.mismatched 1 }).freeSlotAs .mismatch n
    else if o.deadlinePassed ∧ sl.state = .filling then s.makeLate n sl.seg
    else s := by
  unfold State.examineSlot
  rw [serving]
  dsimp only
  rw [slot]
  dsimp only
  rw [if_pos ⟨names, awaited⟩, present]

/-- R131: a slot unlike the map copy. -/
theorem examineSlot_of_mismatch (mismatch : ¬ (sl.rowLen = g.rowLen ∧ sl.mapRows = g.rows))
    (place : s.placeOf o.tag = some p) (here : s.exposures[p] = some e) (assembling : e.state = .assembling) :
    Touches [.exposures, .slots, .mirror, .deposit] s (s.examineSlot n)
      ∧ s.SettlesAndFrees (s.examineSlot n) n sl .mismatch .missing p e
      ∧ (s.examineSlot n).deposit = .serving { o with results := { o.results with
          missing := min (o.results.missing + 1) 4294967295, mismatched := min (o.results.mismatched + 1) 4294967295 } } := by
  have freed : s.examineSlot n = ((s.settle o.tag sl.seg .missing).mapResults
      ((fun r => { r with mismatched := satAdd r.mismatched 1 }) ∘ fun r => { r with missing := satAdd r.missing 1 })).freeSlotAs .mismatch n := by
    refine ((examineSlot_eq serving slot names awaited present).trans (if_pos (not_and_or.mp mismatch))).trans ?_
    rw [State.settleMissing, mapResults_mapResults ((settle_touches s o.tag sl.seg .missing .deposit (by decide)).trans serving)]
  rw [freed]
  exact settle_free serving slot names place here assembling _ .mismatch .missing

theorem examineSlot_of_agrees (agrees : sl.rowLen = g.rowLen ∧ sl.mapRows = g.rows) : s.examineSlot n
    = if o.deadlinePassed = true ∧ sl.state = .filling then s.makeLate n sl.seg else s :=
  (examineSlot_eq serving slot names awaited present).trans (if_neg (not_or.mpr ⟨not_not.mpr agrees.1, not_not.mpr agrees.2⟩))

end Examine

end Sys2Proof.Machine
end

section
/-! The end of an ASSEMBLE (R140, R168; O47). -/

-- One theorem at a time: the threads of a parallel elaboration reserve more memory than the check allows.
set_option Elab.async false

namespace Sys2Proof.Machine

variable {s t x : State} {o : Assembly} {n : SlotNo} {sl : Slot} {p : Fin 4} {e : ExpEntry} {seg : SegNo} {views : List RowView} {rec : Nat}
  {st : Status} {rs : List Nat} {errs : List MemErr} {effect : State → State}

/-! ### The end test (R137, R140) -/

theorem drains_iff : s.drains o = true ↔ ∃ g ∈ o.draining, ∃ (n : SlotNo) (sl : Slot), s.slotIn o.tag g [.late] = some n
    ∧ s.slots[n] = some sl ∧ ∃ q ∈ sl.rows, sl.cursor ≤ q := by
  unfold State.drains
  rw [List.any_eq_true]
  refine exists_congr fun g => and_congr_right fun _ => ⟨fun ready => ?_, fun ⟨n, sl, found, slot, ready⟩ => ?_⟩
  · split at ready
    · next n found =>
      split at ready
      · next sl slot => exact ⟨n, sl, found, slot, rowReady_isSome_iff.mp ready⟩
      · cases ready
    · cases ready
  · simp only [found, slot]
    exact rowReady_isSome_iff.mpr ready

theorem servedSlot_of_settled (settled : ∀ g, s.awaits o g = false) (g : SegNo) :
    s.servedSlot o g = if g ∈ o.draining then s.slotIn o.tag g [.late] else none := by
  unfold State.servedSlot
  rw [settled g]
  rfl

section Serving
variable (serving : s.deposit = .serving o)
include serving

theorem endTest_eq : s.endTest = if (List.finRange 64).any (s.awaits o) || s.drains o then s else s.endAssembly o := by
  unfold State.endTest
  rw [serving]

theorem endTest_of_goes_on (goes_on : (∃ g, s.awaits o g = true) ∨ s.drains o = true) : s.endTest = s := by
  refine (endTest_eq serving).trans (if_pos ?_)
  rw [Bool.or_eq_true, List.any_eq_true]
  exact goes_on.imp (fun ⟨g, awaited⟩ => ⟨g, List.mem_finRange g, awaited⟩) id

theorem endTest_of_settled (settled : ∀ g, s.awaits o g = false) (drained : s.drains o = false) : s.endTest = s.endAssembly o := by
  refine (endTest_eq serving).trans (if_neg ?_)
  simp [settled, drained]

/-! ### A row event that finds nothing to serve -/

/-- R134: with no segment awaited there is no current one. -/
theorem checkCurrent_of_settled (settled : ∀ g, s.awaits o g = false) :
    s.checkCurrent = { s with deposit := .serving { o with current := none } } := by
  unfold State.checkCurrent
  split
  · next o' served =>
    obtain rfl := DepositUnit.serving.inj (serving.symm.trans served)
    split
    · next seg current => rw [settled seg, Bool.false_and, if_neg (by decide), mapServing_of_serving serving]
    · next current =>
      have same : ({ o with current := none } : Assembly) = o := by rw [← current]
      rw [same, deposit_eta serving]
  · next other => exact absurd serving (other o)

theorem tileRow_of_settled (settled : ∀ g, s.awaits o g = false) :
    s.tileRow views = { s with deposit := .serving { o with current := none } } := by
  have nothing := choose_of_none (s := { s with deposit := .serving { o with current := none } }) rfl
    fun seg awaited => absurd (awaited.symm.trans (settled seg)) (by decide)
  unfold State.tileRow
  rw [checkCurrent_of_settled serving settled, nothing]

theorem searchRow_of_settled (settled : ∀ g, s.awaits o g = false) (drained : s.drains o = false) (l : List SegNo) : s.searchRow views l = s := by
  induction l with
  | nil => rfl
  | cons g l ih =>
    unfold State.searchRow
    rw [serving]
    dsimp only
    split
    · next n served =>
      rw [servedSlot_of_settled settled] at served
      obtain ⟨drains, found⟩ := Option.ite_none_right_eq_some.mp served
      obtain ⟨sl, slot, -, -, late⟩ := State.slotIn_some found
      rw [slot]
      dsimp only
      have not_complete : sl.state ≠ .complete := by
        rw [List.mem_singleton.mp late]
        decide
      split
      · next r ready =>
        have more : s.drains o = true := drains_iff.mpr ⟨g, drains, n, sl, found, slot, rowReady_isSome_iff.mp (by rw [ready]; rfl)⟩
        exact absurd (more.symm.trans drained) (by decide)
      · rw [finishTest_of_unfinished serving slot (.inl not_complete)]
        exact ih
    · exact ih

end Serving

/-- R140: with every segment settled and no drain, a row event ends the order. Only its current segment can have changed. -/
theorem rowEvent_of_settled (serving : s.deposit = .serving o) (settled : ∀ g, s.awaits o g = false) (drained : s.drains o = false) :
    ∃ c, s.rowEvent views = ({ s with deposit := .serving { o with current := c } } : State).endAssembly { o with current := c } := by
  have event : s.rowEvent views = (if o.tileComplete then s.tileRow views else s.searchRow views (fromTurn o.turn)).endTest := by
    unfold State.rowEvent
    rw [serving]
  by_cases mode : o.tileComplete = true
  · rw [if_pos mode, tileRow_of_settled serving settled] at event
    exact ⟨none, event.trans (endTest_of_settled rfl settled drained)⟩
  · rw [if_neg mode, searchRow_of_settled serving settled drained, endTest_of_settled serving settled drained] at event
    refine ⟨o.current, event.trans ?_⟩
    rw [show ({ o with current := o.current } : Assembly) = o from rfl, deposit_eta serving]

/-! ### The order ends (R56, R140) -/

/-- R56, R140: the entry of a tag made ASSEMBLED, and removed when it holds no slot. -/
def State.assembledEntry (tag : Tag) (s : State) : State := (s.mapEntry tag fun e => { e with state := .assembled }).removalCheck tag

theorem assembledEntry_touches (tag : Tag) : Touches [.exposures, .mirror] s (s.assembledEntry tag) :=
  (mapEntry_touches _ _ _).andThen (removalCheck_touches _ _)

section Entry
variable (place : s.placeOf o.tag = some p) (here : s.exposures[p] = some e)
include place here

theorem assembledEntry_exposures :
    (s.assembledEntry o.tag).exposures = s.exposures.set p (if e.held = 0 then none else some { e with state := .assembled }) := by
  have mapped := mapEntry_exposures place here fun e => { e with state := .assembled }
  obtain ⟨place', here', -⟩ := place_after_set place here mapped rfl
  refine (removalCheck_exposures place' here').trans ?_
  rw [mapped]
  by_cases empty : e.held = 0
  · rw [if_pos (.inl ⟨rfl, empty⟩), if_pos empty]
    exact vector_set_set _ _ _ _
  · rw [if_neg, if_neg empty]
    rintro (⟨-, none_held⟩ | discarded)
    · exact empty none_held
    · exact nomatch discarded

theorem endAssembly_eq :
    s.endAssembly o = ({ s.assembledEntry o.tag with deposit := .idle } : State).retire o.record (o.status e.outcomes) o.results.toList := by
  have mapped := mapEntry_exposures place here fun e => { e with state := .assembled }
  obtain ⟨-, -, entry⟩ := place_after_set place here mapped rfl
  unfold State.endAssembly
  dsimp only
  rw [entry]
  rfl

end Entry

/-- R140: the status of an order, by what its shares and segments came to. -/
theorem status_eq (o : Assembly) (outcomes : Vector SegOutcome 64) : o.status outcomes = if o.made = false then .empty
    else if (∃ g : SegNo, (o.map[g]).isSome = true ∧ (outcomes[g] = .missing ∨ outcomes[g] = .late))
      ∨ 0 < o.results.rowsMissing ∨ 0 < o.results.droppedSpoiled then .partial_ else .ok := by
  unfold Assembly.status
  by_cases made : o.made = false
  · rw [if_pos made, if_pos (by rw [made]; rfl)]
  · rw [if_neg made, if_neg (by simpa using made)]
    refine if_congr ?_ rfl rfl
    simp [or_assoc]

/-! ### A step that ends an ASSEMBLE -/

/-- R8, R74, R168: an ASSEMBLE that retires under a HALTED walker; a load or define may read on. -/
theorem step_of_assemble_retires (is_effect : effect { s with errs := errs } = x.retire rec st rs) (retiring : Retiring s x rec)
    (halted : s.Halted) (past : x.past = s.past) :
    ∃ t, s.stepWith errs effect = t ∧ Touches [.past] (x.retire rec st rs) t ∧ s.KeepsPast t ∧ s.Retires t rec st rs := by
  have noted := noteMemory_touches (x.retire rec st rs) { s with errs := errs }
  have word : ¬ Memory.readNat (x.retire rec st rs).mem rec 4 = Memory.readNat s.mem rec 4 := by
    rw [retiring.retire_mem, (recordResults_shows st rs s.timeBase s.mem retiring.fits).1, retiring.taken]
    split <;> decide
  have notes : NotesKept s (x.retire rec st rs) := .of_past ((retire_touches x rec st rs .past (by decide)).trans past)
  refine ⟨_, ?_, noted, keepsPast_noteMemory notes (read_of_readNat_ne word), ?_⟩
  · unfold State.stepWith
    dsimp only
    rw [is_effect, afterFlight_of_halted _ (retiring.retire_halted halted)]
  · obtain ⟨shows_, outside, walker, acknowledged⟩ := retiring.retires (st := st) (rs := rs)
    refine ⟨?_, ?_, (noted .walker (by decide)).trans walker, (congrArg AlertUnit.ackCount (noted .alert (by decide))).trans acknowledged⟩
    · rw [noted .mem (by decide)]
      exact shows_
    · rw [noted .mem (by decide)]
      exact outside

theorem exec_rowDeposit (reads : RowReads) (s : State) : exec (.rowDeposit reads) s
    = .next ((s.landRowWrites reads.during).stepWith reads.errs (State.rowEvent (s.rowViews reads.during))) := rfl

/-- Settles O47. -/
theorem settlingAndTheEndOfAnAssemble : Obligations.SettlingAndTheEndOfAnAssemble := by
  intro s o serving draining
  refine ⟨fun n sl p e g slot names awaited place here assembling present => ?_, fun goes_on => ?_, fun p e during settled drained place => ?_⟩
  · intro agrees
    refine ⟨fun complete done => finishTest_of_finished serving slot names complete (rowReady_eq_none_iff.mpr done) awaited place here assembling,
      fun unfinished => finishTest_of_unfinished serving slot (unfinished.imp id fun more => ?_),
      fun mismatch => examineSlot_of_mismatch serving slot names awaited present mismatch place here assembling, fun same left => ?_, fun same passed filling => ?_⟩
    · exact Option.isSome_iff_ne_none.mp (rowReady_isSome_iff.mpr more)
    · refine (examineSlot_of_agrees serving slot names awaited present same).trans (if_neg ?_)
      rintro ⟨passed, filling⟩
      rcases left with before | other
      · exact absurd (passed.symm.trans before) (by decide)
      · exact other filling
    · let u : State := { s with slots := s.slots.set n (some { sl with state := .late }) }
      have late := ((examineSlot_of_agrees serving slot names awaited present same).trans (if_pos ⟨passed, filling⟩)).trans
        (makeLate_of_filling serving slot names filling)
      rw [settle_eq (s := u) place here] at late
      rw [late]
      exact ⟨((touches_slots s _).andThen (touches_exposures u _) : Touches [.slots, .exposures] _ _).andThen (touches_deposit _ _), rfl, rfl, rfl⟩
  · exact endTest_of_goes_on serving (goes_on.imp id drains_iff.mpr)
  · intro landed here taken lost ends
    obtain ⟨halted, fits, word⟩ := taken
    have lands := landRowWrites_touches s during
    let y : State := { landed with errs := [] }
    have part {q : Part} (h : q ∉ [Part.mem, .past, .port, .mirror, .alert, .messages, .errs]) : s.sameAt y q :=
      (lands.andThen (touches_errs landed []) : Touches [.mem, .past, .port, .mirror, .alert, .messages, .errs] s y) q h
    have exposures : y.exposures = s.exposures := part (q := .exposures) (by decide)
    have serving' : y.deposit = .serving o := (part (q := .deposit) (by decide)).trans serving
    have settled' : ∀ g, y.awaits o g = false := by rwa [awaits_congr exposures rfl rfl]
    have drained' : y.drains o = false := by
      rw [← Bool.not_eq_true, drains_iff, show y.slots = s.slots from part (q := .slots) (by decide)]
      simpa only [slotIn_congr (show y.slots = s.slots from part (q := .slots) (by decide))] using drained
    obtain ⟨c, event⟩ := rowEvent_of_settled (views := s.rowViews during) serving' settled' drained'
    let v : State := { y with deposit := .serving { o with current := c } }
    have place' : v.placeOf o.tag = some p := (placeOf_congr exposures).trans place
    have here' : v.exposures[p] = some e := by
      show y.exposures[p] = _
      rw [exposures]
      exact here
    rw [endAssembly_eq (o := { o with current := c }) place' here'] at event
    let x : State := { v.assembledEntry o.tag with deposit := .idle }
    have frame : Touches [.errs, .deposit, .exposures, .mirror] landed x :=
      ((((touches_errs landed []).andThen (touches_deposit y _) : Touches [.errs, .deposit] _ _).andThen (assembledEntry_touches o.tag) :
        Touches [.errs, .deposit, .exposures, .mirror] _ _).andThen (touches_deposit _ _))
    have retiring : Retiring landed x o.record :=
      .of_touches frame (readErr_of_no_errs (assembledEntry_touches (s := v) o.tag .errs (by decide)) _ _ _) fits word
    replace event : y.rowEvent (s.rowViews during) = x.retire o.record (o.status e.outcomes) o.results.toList := event
    have retired := retire_touches x o.record (o.status e.outcomes) o.results.toList
    have ending : ends (o.status e.outcomes) := by
      obtain ⟨t, step, touches, keeps, retires⟩ := step_of_assemble_retires (errs := []) event retiring halted (frame .past (by decide))
      refine ⟨t, ?_, (frame.andThen retired : Touches [.errs, .deposit, .exposures, .mirror, .mem, .walker, .alert, .messages] _ _).andThen touches,
        keeps, (touches .deposit (by decide)).trans (retired .deposit (by decide)), ?_, retires⟩
      · rw [exec_rowDeposit]
        exact congrArg Host.Outcome.next step
      · rw [touches .exposures (by decide), retired .exposures (by decide)]
        refine (assembledEntry_exposures place' here').trans ?_
        rw [show v.exposures = s.exposures from exposures]
    refine ⟨fun none_ => ?_, fun made loses => ?_, fun made whole => ?_⟩
    · rwa [status_eq, if_pos none_] at ending
    · rwa [status_eq, if_neg (by rw [made]; decide), if_pos loses] at ending
    · rwa [status_eq, if_neg (by rw [made]; decide), if_neg whole] at ending

end Sys2Proof.Machine
end

section
/-! The expiry of a deadline (R130, R137; O48). -/

-- One theorem at a time: the threads of a parallel elaboration reserve more memory than the check allows.
set_option Elab.async false

namespace Sys2Proof.Machine

variable {s t u : State} {o : Assembly} {n : SlotNo} {sl : Slot} {seg : SegNo} {tag : Tag} {errs : List MemErr}

/-! ### Operations that only settle (R55, R139) -/

/-- Every entry of the second state was in its place, with no segment settled that is UNSETTLED now. -/
def EntriesSettle (s t : State) : Prop :=
  ∀ (p : Fin 4) (e' : ExpEntry), t.exposures[p] = some e' → ∃ e, s.exposures[p] = some e ∧ e.tag = e'.tag
    ∧ ∀ seg : SegNo, e'.outcomes[seg] = .unsettled → e.outcomes[seg] = .unsettled

theorem EntriesSettle.of_eq (h : t.exposures = s.exposures) : EntriesSettle s t := fun p e' here =>
  ⟨e', by rw [← h]; exact here, rfl, fun _ => id⟩

theorem EntriesSettle.trans (h : EntriesSettle s t) (g : EntriesSettle t u) : EntriesSettle s u := fun p e'' here => by
  obtain ⟨e', here', same', later'⟩ := g p e'' here
  obtain ⟨e, here, same, later⟩ := h p e' here'
  exact ⟨e, here, same.trans same', fun seg unsettled => later seg (later' seg unsettled)⟩

theorem EntriesSettle.awaits (h : EntriesSettle s t) (distinct : s.TagsDistinct) (awaited : t.awaits o seg = true) : s.awaits o seg = true := by
  unfold State.awaits at awaited ⊢
  rw [Bool.and_eq_true] at awaited ⊢
  obtain ⟨present, unsettled⟩ := awaited
  refine ⟨present, ?_⟩
  split at unsettled
  · next e' entry =>
    obtain ⟨p, -, here, same⟩ := State.entryOf_some entry
    obtain ⟨e, here', same', later⟩ := h p e' here
    have found := State.entryOf_eq distinct here'
    rw [same'.trans same] at found
    rw [found]
    exact decide_eq_true (later seg (of_decide_eq_true unsettled))
  · cases unsettled

/-- The unit serves the order on, its deadline passed or not as before. -/
def ServesOn (s t : State) : Prop :=
  ∀ o, s.deposit = .serving o → ∃ o', t.deposit = .serving o' ∧ o'.tag = o.tag ∧ o'.deadlinePassed = o.deadlinePassed

theorem ServesOn.of_eq (h : t.deposit = s.deposit) : ServesOn s t := fun o serving => ⟨o, h.trans serving, rfl, rfl⟩

/-- A change that settles segments and frees slots or makes them LATE, for an order that goes on: the invariants stay, no slot becomes FILLING,
no segment becomes UNSETTLED. -/
structure Settling (s t : State) : Prop where
  keeps : Keeps s t
  filling : ∀ (n : SlotNo) (sl : Slot), t.slots[n] = some sl → sl.state = .filling → s.slots[n] = some sl
  entries : s.PoolOk → EntriesSettle s t
  unit : ServesOn s t

theorem Settling.refl (s : State) : Settling s s := ⟨.refl s, fun _ _ here _ => here, fun _ => .of_eq rfl, .of_eq rfl⟩

theorem Settling.trans (h : Settling s t) (g : Settling t u) : Settling s u where
  keeps := h.keeps.trans g.keeps
  filling n sl here filling := h.filling n sl (g.filling n sl here filling) filling
  entries ok := (h.entries ok).trans (g.entries (h.keeps.pool ok))
  unit o serving := by
    obtain ⟨o', serving', tag, passed⟩ := h.unit o serving
    obtain ⟨o'', serving'', tag', passed'⟩ := g.unit o' serving'
    exact ⟨o'', serving'', tag'.trans tag, passed'.trans passed⟩

theorem Settling.foldl {α : Type} (f : State → α → State) (h : ∀ s a, Settling s (f s a)) (l : List α) (s : State) : Settling s (l.foldl f s) := by
  induction l generalizing s with
  | nil => exact .refl s
  | cons a l ih => exact (h s a).trans (ih _)

theorem Settling.awaits (h : Settling s t) (ok : s.PoolOk) (awaited : t.awaits o seg = true) : s.awaits o seg = true :=
  (h.entries ok).awaits ok.distinct awaited

theorem mapServing_settling {g : Assembly → Assembly} (record : ∀ o, (g o).record = o.record) (field : ∀ o, (g o).field = o.field)
    (tag : ∀ o, (g o).tag = o.tag) (passed : ∀ o, (g o).deadlinePassed = o.deadlinePassed) : Settling s (s.mapServing g) where
  keeps := mapServing_keeps record field
  filling n sl here _ := by rwa [mapServing_touches s g .slots (by decide)] at here
  entries _ := .of_eq (mapServing_touches s g .exposures (by decide))
  unit o serving := ⟨g o, by rw [mapServing_of_serving serving], tag o, passed o⟩

theorem mapResults_settling (f : Results → Results) : Settling s (s.mapResults f) :=
  mapServing_settling (fun _ => rfl) (fun _ => rfl) (fun _ => rfl) fun _ => rfl

theorem mapEntry_settles (distinct : s.TagsDistinct) {f : ExpEntry → ExpEntry} (same : ∀ e, (f e).tag = e.tag)
    (later : ∀ e (seg : SegNo), (f e).outcomes[seg] = .unsettled → e.outcomes[seg] = .unsettled) : EntriesSettle s (s.mapEntry tag f) := by
  intro p e' here
  rw [mapEntry_getElem distinct] at here
  obtain ⟨e, here', rfl⟩ := Option.map_eq_some_iff.mp here
  refine ⟨e, here', ?_, fun seg => ?_⟩
  · split
    · exact (same e).symm
    · rfl
  · split
    · exact later e seg
    · exact id

theorem settle_settling (tag : Tag) (seg : SegNo) {out : SegOutcome} (settled : out ≠ .unsettled) : Settling s (s.settle tag seg out) where
  keeps := settle_keeps tag seg out
  filling n sl here _ := by rwa [settle_touches s tag seg out .slots (by decide)] at here
  entries ok := mapEntry_settles ok.distinct (fun _ => rfl) fun e g unsettled => by
    rw [Fin.getElem_fin, Vector.getElem_set] at unsettled
    split at unsettled
    · exact absurd unsettled settled
    · exact unsettled
  unit := .of_eq (settle_touches s tag seg out .deposit (by decide))

theorem settleMissing_settling (tag : Tag) (seg : SegNo) : Settling s (s.settleMissing tag seg) :=
  (settle_settling tag seg (by decide)).trans (mapResults_settling _)

theorem freeSlotAs_settling (why : FreeReason) (n : SlotNo) : Settling s (s.freeSlotAs why n) where
  keeps := freeSlotAs_keeps why n
  filling m sl here _ := by
    rw [freeSlotAs_slot_getElem] at here
    split at here
    · cases here
    · exact here
  entries ok p e' here := by
    cases slot : s.slots[n] with
    | none =>
      have same : s.freeSlotAs why n = s := by unfold State.freeSlotAs; rw [slot]
      rw [same] at here
      exact ⟨e', here, rfl, fun _ => id⟩
    | some sl =>
      rw [freeSlotAs_getElem ok.distinct why slot] at here
      obtain ⟨e, here', rfl⟩ := Option.map_eq_some_iff.mp (Option.filter_eq_some_iff.mp here).1
      refine ⟨e, here', ?_, fun seg => ?_⟩
      · split <;> rfl
      · split <;> exact id
  unit := .of_eq (freeSlotAs_touches s why n .deposit (by decide))

theorem requestLate_settling (n : SlotNo) (tag : Tag) (seg : SegNo) : Settling s (s.requestLate n tag seg) where
  keeps := requestLate_keeps n tag seg
  filling m sl here filling := by
    unfold State.requestLate at here
    split at here
    · next old slot =>
      split at here
      · rw [setSlot_getElem] at here
        split at here
        · cases here
          cases filling
        · exact here
      · exact here
    · exact here
  entries _ := .of_eq (requestLate_touches s n tag seg .exposures (by decide))
  unit := .of_eq (requestLate_touches s n tag seg .deposit (by decide))

theorem makeLate_settling (n : SlotNo) (seg : SegNo) : Settling s (s.makeLate n seg) := by
  unfold State.makeLate
  split
  · dsimp only
    split
    · split
      · exact (((requestLate_settling _ _ _).trans (settle_settling _ _ (by decide))).trans (mapResults_settling _)).trans
          (mapServing_settling (fun _ => rfl) (fun _ => rfl) (fun _ => rfl) fun _ => rfl)
      · exact requestLate_settling _ _ _
    · exact requestLate_settling _ _ _
  · exact .refl s

theorem finishTest_settling (n : SlotNo) : Settling s (s.finishTest n) := by
  unfold State.finishTest
  split
  · split
    · split
      · exact (((settle_settling _ _ (by decide)).trans (mapResults_settling _)).trans (freeSlotAs_settling _ _)).trans
          (mapServing_settling (fun _ => rfl) (fun _ => rfl) (fun _ => rfl) fun _ => rfl)
      · exact .refl s
    · exact .refl s
  · exact .refl s

theorem chooseTile_settling (fuel : Nat) : Settling s (s.chooseTile fuel) := by
  induction fuel generalizing s with
  | zero => exact .refl s
  | succ fuel ih =>
    have chosen (seg : SegNo) : Settling s (s.mapServing fun o => { o with current := some seg }) :=
      mapServing_settling (fun _ => rfl) (fun _ => rfl) (fun _ => rfl) fun _ => rfl
    unfold State.chooseTile
    split
    · split
      · split
        · dsimp only
          split
          · exact ((chosen _).trans (finishTest_settling _)).trans ih
          · exact chosen _
        · exact .refl s
      · exact .refl s
    · exact .refl s

theorem settleUnbegun_settling (o : Assembly) : Settling s (s.settleUnbegun o) :=
  .foldl _ (fun t seg => by
    split
    · exact settleMissing_settling _ _
    · exact .refl t) _ s

/-! ### No FILLING slot is left awaited (R137, step 1) -/

/-- No FILLING slot of the order's exposure for an awaited segment, of those that a test names. -/
def NoneFilling (s : State) (o : Assembly) (test : SegNo → Prop) : Prop :=
  ∀ (n : SlotNo) (sl : Slot), s.slots[n] = some sl → sl.tag = o.tag → sl.state = .filling → test sl.seg → s.awaits o sl.seg = false

theorem NoneFilling.after {test : SegNo → Prop} (h : NoneFilling s o test) (ok : s.PoolOk) (later : Settling s t) : NoneFilling t o test :=
  fun n sl here names filling named => by
    rw [← Bool.not_eq_true]
    intro awaited
    exact absurd ((later.awaits ok awaited).symm.trans (h n sl (later.filling n sl here filling) names filling named)) (by decide)

/-- R137, step 1, for one segment. -/
def State.lateSegment (o : Assembly) (s : State) (seg : SegNo) : State :=
  if s.awaits o seg then
    match s.slotIn o.tag seg [.filling] with
    | some n => s.makeLate n seg
    | none => s
  else s

theorem lateSegment_settling (o : Assembly) (seg : SegNo) : Settling s (State.lateSegment o s seg) := by
  unfold State.lateSegment
  split
  · split
    · exact makeLate_settling _ _
    · exact .refl s
  · exact .refl s

theorem lateSegment_leaves_none {o' : Assembly} (serving : s.deposit = .serving o') (same : o'.tag = o.tag) (ok : s.PoolOk) :
    NoneFilling (State.lateSegment o s seg) o (· = seg) := by
  intro n sl here names filling named
  subst named
  unfold State.lateSegment at here ⊢
  split at here
  · next awaited =>
    rw [if_pos awaited]
    split at here
    · next m found =>
      obtain ⟨old, slot, names', segs, state⟩ := State.slotIn_some found
      have was_filling : old.state = .filling := List.mem_singleton.mp state
      have here' := (makeLate_settling (s := s) m sl.seg).filling n sl here filling
      have only : n = m := ok.slots.single n m sl old here' slot (names.trans names'.symm) segs.symm (by rw [filling]; decide)
        (by rw [was_filling]; decide)
      subst only
      obtain rfl : sl = old := Option.some.inj (here'.symm.trans slot)
      rw [makeLate_of_filling serving slot (names.trans same.symm) filling] at here
      have late := settle_touches ({ s with slots := s.slots.set n (some { sl with state := .late }) } : State) o'.tag sl.seg .late .slots (by decide)
      replace here : (State.settle o'.tag sl.seg .late ({ s with slots := s.slots.set n (some { sl with state := .late }) } : State)).slots[n]
        = some sl := here
      rw [late, Fin.getElem_fin, Vector.getElem_set, if_pos rfl] at here
      rw [← Option.some.inj here] at filling
      cases filling
    · next none_ =>
      exact absurd (List.mem_singleton.mpr filling) (State.slotIn_none none_ here names rfl)
  · next not_awaited =>
    rw [if_neg not_awaited]
    exact Bool.not_eq_true _ ▸ not_awaited

theorem lateFilling_leaves_none (segs : List SegNo) {o' : Assembly} (serving : s.deposit = .serving o') (same : o'.tag = o.tag) (ok : s.PoolOk) :
    NoneFilling (segs.foldl (State.lateSegment o) s) o (· ∈ segs) := by
  induction segs generalizing s o' with
  | nil => exact fun _ _ _ _ _ named => nomatch named
  | cons seg segs ih =>
    have first := lateSegment_settling (s := s) o seg
    have rest : Settling (State.lateSegment o s seg) (segs.foldl (State.lateSegment o) (State.lateSegment o s seg)) :=
      .foldl _ (fun t g => lateSegment_settling o g) segs _
    have ok' := first.keeps.pool ok
    obtain ⟨o'', serving', same', -⟩ := first.unit o' serving
    intro n sl here names filling named
    rcases List.mem_cons.mp named with at_ | later
    · exact (lateSegment_leaves_none serving same ok).after ok' rest n sl here names filling at_
    · exact ih serving' (same'.trans same) ok' n sl here names filling later

/-! ### What the expiry of a SERVING order comes to (R137) -/

/-- R137: what the expiry of a SERVING order comes to before the end test. -/
def State.expired (o : Assembly) (s : State) : State :=
  (((s.mapServing fun o => { o with deadlinePassed := true }).lateFilling o).settleUnbegun o).choose

theorem expired_spec (serving : s.deposit = .serving o) (ok : s.PoolOk) : (s.expired o).PoolOk
    ∧ (∃ o', (s.expired o).deposit = .serving o' ∧ o'.deadlinePassed = true) ∧ NoneFilling (s.expired o) o fun _ => True := by
  let a := s.mapServing fun o => { o with deadlinePassed := true }
  have passed : a.deposit = .serving { o with deadlinePassed := true } := congrArg State.deposit (mapServing_of_serving serving _)
  have ok_a : a.PoolOk := (mapServing_keeps (fun _ => rfl) fun _ => rfl : Keeps s a).pool ok
  have lates : Settling a (a.lateFilling o) := .foldl _ (fun t g => lateSegment_settling o g) _ a
  have rest : Settling (a.lateFilling o) (s.expired o) := (settleUnbegun_settling o).trans (chooseTile_settling 65)
  have ok_b := lates.keeps.pool ok_a
  obtain ⟨o', serving', -, still⟩ := (lates.trans rest).unit _ passed
  refine ⟨rest.keeps.pool ok_b, ⟨o', serving', still⟩, fun n sl here names filling _ => ?_⟩
  have none_ : NoneFilling (a.lateFilling o) o (· ∈ List.finRange 64) := lateFilling_leaves_none (List.finRange 64) passed rfl ok_a
  exact none_.after ok_b rest n sl here names filling (List.mem_finRange _)

theorem EntriesSettle.distinct (h : EntriesSettle s t) (distinct : s.TagsDistinct) : t.TagsDistinct := fun p q d' e' hd he same => by
  obtain ⟨d, at_p, same_d, -⟩ := h p d' hd
  obtain ⟨e, at_q, same_e, -⟩ := h q e' he
  exact distinct p q d e at_p at_q (same_d.trans (same.trans same_e.symm))

/-- R140: the end of the order settles nothing back. -/
theorem assembledEntry_settles (distinct : s.TagsDistinct) (tag : Tag) : EntriesSettle s (s.assembledEntry tag) := by
  have mapped : EntriesSettle s (s.mapEntry tag fun e => { e with state := .assembled }) := mapEntry_settles distinct (fun _ => rfl) fun _ _ => id
  refine mapped.trans fun p e' here => ?_
  rw [State.assembledEntry, removalCheck_getElem (mapped.distinct distinct)] at here
  exact ⟨e', (Option.filter_eq_some_iff.mp here).1, rfl, fun _ => id⟩

theorem endAssembly_touches_entry (o : Assembly) : Touches [.deposit, .mem, .walker, .mirror, .alert, .messages] (s.assembledEntry o.tag) (s.endAssembly o) := by
  unfold State.endAssembly
  exact (touches_deposit _ _).andThen (retire_touches _ _ _ _)

theorem endTest_leaves (ok : s.PoolOk) (serving : s.deposit = .serving o) :
    s.endTest.slots = s.slots ∧ EntriesSettle s s.endTest ∧ (s.endTest.deposit = s.deposit ∨ s.endTest.deposit = .idle) := by
  refine ⟨endTest_touches s .slots (by decide), ?_⟩
  rw [endTest_eq serving]
  split
  · exact ⟨.of_eq rfl, .inl rfl⟩
  · refine ⟨(assembledEntry_settles ok.distinct o.tag).trans (.of_eq (endAssembly_touches_entry o .exposures (by decide))), .inr ?_⟩
    exact retire_touches _ _ _ _ .deposit (by decide)

/-- R137: the expiry ends no slot FILLING for an awaited segment; the order goes on, its deadline passed, or has ended. -/
theorem expired_endTest (serving : s.deposit = .serving o) (ok : s.PoolOk) :
    ((s.expired o).endTest.deposit = .idle ∨ ∃ o', (s.expired o).endTest.deposit = .serving o' ∧ o'.deadlinePassed = true)
      ∧ NoneFilling (s.expired o).endTest o fun _ => True := by
  obtain ⟨ok', ⟨o', serving', passed⟩, none_⟩ := expired_spec serving ok
  obtain ⟨slots, entries, deposit⟩ := endTest_leaves ok' serving'
  refine ⟨deposit.symm.imp id fun same => ⟨o', same.trans serving', passed⟩, fun n sl here names filling named => ?_⟩
  rw [slots] at here
  rw [← Bool.not_eq_true]
  intro awaited
  exact absurd ((entries.awaits ok'.distinct awaited).symm.trans (none_ n sl here names filling named)) (by decide)

theorem expired_endTest_halted (halted : s.Halted) : (s.expired o).endTest.Halted := by
  have frame : Touches [.exposures, .slots, .mirror, .deposit] s (s.expired o) :=
    ((((mapServing_touches s _).andThen (lateFilling_touches _ o) : Touches [.exposures, .slots, .mirror, .deposit] _ _).andThen
      (settleUnbegun_touches _ o) : Touches [.exposures, .slots, .mirror, .deposit] _ _)).trans (choose_touches _)
  obtain ⟨state, run⟩ := halted
  refine ⟨?_, ?_⟩
  · rw [endTest_steady.state, frame .walker (by decide)]
    exact state
  · rw [endTest_touches _ .port (by decide), frame .port (by decide)]
    exact run

/-! ### DEADLINE_EXPIRY -/

theorem deadline_of_waiting {q : Nat} (waiting : s.deposit = .waiting o) (expiry : o.expiry = some q) : s.deadline
    = if q ≤ s.timeBase then ({ s with deposit := .idle } : State).retire o.record .empty ({ Results.zero with missing := o.presentCount } : Results).toList
      else s := by
  unfold State.deadline
  split
  · next idle => exact nomatch idle.symm.trans waiting
  · next o' here =>
    obtain rfl := DepositUnit.waiting.inj (waiting.symm.trans here)
    rw [expiry]
  · next o' serving => exact nomatch serving.symm.trans waiting

theorem deadline_of_serving {q : Nat} (serving : s.deposit = .serving o) (expiry : o.expiry = some q) :
    s.deadline = if q ≤ s.timeBase ∧ o.deadlinePassed = false then (s.expired o).endTest else s := by
  unfold State.deadline
  rw [serving]
  dsimp only
  rw [expiry]
  rfl

theorem deadline_of_no_expiry (nothing : ∀ o, s.assembly = some o → ∀ q, o.expiry = some q →
    s.timeBase < q ∨ (s.deposit = .serving o ∧ o.deadlinePassed = true)) : s.deadline = s := by
  cases unit : s.deposit with
  | idle =>
    unfold State.deadline
    rw [unit]
  | waiting o =>
    have held : s.assembly = some o := by rw [State.assembly, unit]
    cases expiry : o.expiry with
    | none =>
      unfold State.deadline
      rw [unit]
      dsimp only
      rw [expiry]
    | some q =>
      refine (deadline_of_waiting unit expiry).trans (if_neg ?_)
      rcases nothing o held q expiry with early | ⟨serving, -⟩
      · exact Nat.not_le.mpr early
      · exact nomatch serving.symm.trans unit
  | serving o =>
    have held : s.assembly = some o := by rw [State.assembly, unit]
    cases expiry : o.expiry with
    | none =>
      unfold State.deadline
      rw [unit]
      dsimp only
      rw [expiry]
    | some q =>
      refine (deadline_of_serving unit expiry).trans (if_neg ?_)
      rintro ⟨late, before⟩
      rcases nothing o held q expiry with early | ⟨-, passed⟩
      · omega
      · exact absurd (passed.symm.trans before) (by decide)

theorem exec_deadlineExpiry (errs : List MemErr) (s : State) : exec (.deadlineExpiry errs) s = .next (s.stepWith errs State.deadline) := rfl

/-- R168: results of which no slot differs. -/
theorem retires_congr {rec : Nat} {st : Status} {rs rs' : List Nat} (same : ∀ i < 11, rs.getD i 0 = rs'.getD i 0) (h : s.Retires t rec st rs) :
    s.Retires t rec st rs' := by
  obtain ⟨⟨word, code, at_, slots⟩, rest⟩ := h
  exact ⟨⟨word, code, at_, fun i hi => (slots i hi).trans (by rw [same i hi])⟩, rest⟩

/-- Settles O48. -/
theorem deadlineExpiryOfAnAssemble : Obligations.DeadlineExpiryOfAnAssemble := by
  intro s errs
  refine ⟨fun nothing => ?_, fun o q expiry late halted => ⟨fun waiting taken => ?_, fun serving before ok => ?_⟩⟩
  · rw [exec_deadlineExpiry]
    exact congrArg Host.Outcome.next (State.stepWith_eq_effect (deadline_of_no_expiry (s := { s with errs := errs }) nothing) rfl rfl rfl)
  · obtain ⟨-, fits, word⟩ := taken
    let x : State := { s with errs := [], deposit := .idle }
    have frame : Touches [.errs, .deposit] s x := (touches_errs s []).andThen (touches_deposit _ _)
    have event := (deadline_of_waiting (s := { s with errs := [] }) waiting expiry).trans (if_pos late)
    have retiring : Retiring s x o.record := .of_touches frame (readErr_of_no_errs rfl _ _ _) fits word
    obtain ⟨t, step, touches, keeps, retires⟩ := step_of_assemble_retires (x := x) event retiring halted rfl
    have retired := retire_touches x o.record .empty ({ Results.zero with missing := o.presentCount } : Results).toList
    refine ⟨t, ?_, (frame.andThen retired : Touches [.errs, .deposit, .mem, .walker, .mirror, .alert, .messages] _ _).andThen touches, keeps,
      (touches .deposit (by decide)).trans (retired .deposit (by decide)), retires_congr (fun i hi => ?_) retires⟩
    · rw [exec_deadlineExpiry]
      exact congrArg Host.Outcome.next step
    · interval_cases i <;> rfl
  · have event := (deadline_of_serving (s := { s with errs := errs }) serving expiry).trans (if_pos ⟨late, before⟩)
    obtain ⟨unit, none_⟩ := expired_endTest (s := { s with errs := errs }) serving ok
    have halted' := expired_endTest_halted (s := { s with errs := errs }) (o := o) halted
    let u : State := (State.expired o { s with errs := errs }).endTest
    have noted := noteMemory_touches u { s with errs := errs }
    refine ⟨u.noteMemory { s with errs := errs }, ?_, ?_, fun n sl here names filling => ?_⟩
    · rw [exec_deadlineExpiry]
      refine congrArg Host.Outcome.next ?_
      unfold State.stepWith
      dsimp only
      rw [event, afterFlight_of_halted _ halted']
    · rw [noted .deposit (by decide)]
      exact unit
    · rw [awaits_congr (noted .exposures (by decide)) rfl rfl]
      rw [noted .slots (by decide)] at here
      exact none_ n sl here names filling trivial

end Sys2Proof.Machine
end

section
/-! One row served: its reads, its pixels, and the slot and order after it (R78, R81, R132; towards O45 and O46). -/

-- One theorem at a time: the threads of a parallel elaboration reserve more memory than the check allows.
set_option Elab.async false

namespace Sys2Proof.Machine

variable {s t u : State} {o o' : Assembly} {n : SlotNo} {sl : Slot} {seg : SegNo} {tag : Tag} {r : Nat} {bank : Bank} {e : SegEntry} {p : Placement}
  {views : List RowView}

/-! ### The reads of a row (R78) -/

theorem readU16s_eq (m : List Host.Cell) (off n : Nat) : Memory.readU16s m off n = (List.range n).map fun i => Memory.readNat m (off + 2 * i) 2 := by
  induction n generalizing off with
  | zero => rfl
  | succ n ih =>
    rw [List.range_succ_eq_map, List.map_cons, List.map_map, Memory.readU16s, ih]
    refine congrArg₂ List.cons rfl (List.map_congr_left fun i _ => ?_)
    show Memory.readNat m (off + 2 + 2 * i) 2 = Memory.readNat m (off + 2 * (i + 1)) 2
    congr 1
    omega

theorem readEntries_eq (m : List Host.Cell) (views : List RowView) (which : Nat → RowEntry) (off n : Nat) :
    readEntries m views which off n
      = (List.range n).map fun i => Memory.readNat (((views.find? fun v => decide (which i ∈ v.read)).map RowView.mem).getD m) (off + 2 * i) 2 := by
  unfold readEntries
  simp only [entryMemory_eq_find?]

/-! ### Pixels taken without a memory error -/

/-- A change that without memory errors is one of memory and fields alone. -/
def Quiet (s t : State) : Prop := s.errs = [] → Touches [.mem, .fields] s t

theorem Quiet.refl (s : State) : Quiet s s := fun _ => Touches.refl _ s

theorem Quiet.of_touches (h : Touches [.mem, .fields] s t) : Quiet s t := fun _ => h

theorem Quiet.trans (h : Quiet s t) (g : Quiet t u) : Quiet s u := fun none_ =>
  (h none_).trans (g ((h none_ .errs (by decide)).trans none_))

theorem takeShare_quiet (f : Fin 4) (c off : Nat) (tag : Tag) (V : Int) (w : Nat) (cl : Bool) : Quiet s (s.takeShare f c off tag V w cl).1 := by
  intro none_
  unfold State.takeShare
  split
  · exact Touches.refl _ s
  · split
    · exact Touches.refl _ s
    · rw [if_neg (by rw [readErr_of_no_errs none_]; decide)]
      dsimp only
      split
      · exact (touches_mem s _).andThen (mapCell_touches _ _ _ _)
      · exact (touches_mem s _).mono

theorem takeMask_quiet (f : Fin 4) (c off : Nat) (flag : MaskFlag) : Quiet s (s.takeMask f c off flag) := by
  intro none_
  unfold State.takeMask
  split
  · exact Touches.refl _ s
  · split
    · exact Touches.refl _ s
    · rw [if_neg (by rw [readErr_of_no_errs none_]; decide)]
      exact (touches_mem s _).mono

theorem touchShare_quiet (f : Fin 4) (i j : Nat) (tag : Tag) (V : Int) (w : Nat) (cl : Bool) : Quiet s (s.touchShare f i j tag V w cl).1 := by
  unfold State.touchShare
  split
  · exact .refl s
  · exact (Quiet.of_touches (prepareCell_touches s _ _)).trans (takeShare_quiet _ _ _ _ _ _ _)

theorem touchMask_quiet (f : Fin 4) (i j : Nat) (flag : MaskFlag) : Quiet s (s.touchMask f i j flag) := by
  unfold State.touchMask
  split
  · exact .refl s
  · exact (Quiet.of_touches (prepareCell_touches s _ _)).trans (takeMask_quiet _ _ _ _)

theorem depositTarget_quiet (o : Assembly) (v : Int) (cl : Bool) (a : RowRun) (x : Target) : Quiet a.st (depositTarget o v cl a x).st := by
  unfold depositTarget
  split
  · exact .refl _
  · split
    · dsimp only
      split
      · exact .refl _
      · split <;> exact touchShare_quiet _ _ _ _ _ _ _
    · exact .refl _

theorem maskTarget_quiet (o : Assembly) (flag : MaskFlag) (a : RowRun) (x : Target) : Quiet a.st (maskTarget o flag a x).st := by
  unfold maskTarget
  split
  · exact .refl _
  · split
    · exact touchMask_quiet _ _ _ _
    · exact .refl _

theorem rowFold_quiet {α : Type} {f : RowRun → α → RowRun} (h : ∀ a x, Quiet a.st (f a x).st) (l : List α) {a : RowRun} (from_ : a.st = s) :
    Quiet s (l.foldl f a).st := by
  subst from_
  induction l generalizing a with
  | nil => exact .refl _
  | cons x l ih => exact (h a x).trans ih

theorem depositPixel_quiet (o : Assembly) (p : Placement) (x y : Nat) (out : PixelOutcome) (a : RowRun) :
    Quiet a.st (depositPixel o p x y out a).st := by
  unfold depositPixel
  dsimp only
  split
  · exact rowFold_quiet (maskTarget_quiet o _) _ rfl
  · exact rowFold_quiet (maskTarget_quiet o _) _ rfl
  · split
    · exact rowFold_quiet (depositTarget_quiet o _ _) _ rfl
    · exact rowFold_quiet (depositTarget_quiet o _ _) _ rfl

theorem depositPixels_quiet (o : Assembly) (amp : Amp) (defects : List Defect) (seg : SegNo) (e : SegEntry) (p : Placement) (row : RowData) (y : Nat)
    (a : RowRun) : Quiet a.st (depositPixels o amp defects seg e p row y a).st :=
  rowFold_quiet (fun a x => depositPixel_quiet o p x y _ a) _ rfl

/-! ### The row's memory errors (R81, R173) -/

theorem memErrors_pending {α : Type} (src : α → MemSource) (l : List α) (s : State) (some_ : l ≠ []) :
    (l.foldl (fun s x => s.memError (src x)) s).alert.pending = { s.alert.pending with fault := true } := by
  induction l generalizing s with
  | nil => exact absurd rfl some_
  | cons x l ih =>
    have first : (s.memError (src x)).alert.pending = { s.alert.pending with fault := true } := by rw [memError_alert]; rfl
    by_cases last : l = []
    · rw [last]
      exact first
    · rw [List.foldl_cons, ih _ last, first]

/-! ### The row served (R132) -/

theorem setCursor_of_slot (slot : s.slots[n] = some sl) (k : Nat) : s.setCursor n k = { s with slots := s.slots.set n (some { sl with cursor := k }) } := by
  unfold State.setCursor
  rw [slot]
  exact setSlot_of_taken slot _

/-- R132: the row's pixels taken, from the state and order at hand. -/
def State.rowRun (s : State) (views : List RowView) (o : Assembly) (bank : Bank) (n : SlotNo) (seg : SegNo) (e : SegEntry) (p : Placement) (r : Nat) :
    RowRun :=
  depositPixels o bank.amps[seg] bank.defects seg e p (readRow s.mem views bank.amps[seg] e n r) r ⟨s, o.results, o.made, []⟩

/-- R132, steps 3 and 4: what a row leaves, after the run of its pixels. -/
def State.afterRow (s : State) (a : RowRun) (o : Assembly) (n : SlotNo) (sl : Slot) (r : Nat) : State :=
  { a.st.noteDeposits o.field a.cells with
    deposit := .serving { o with results := a.res, made := a.made }
    slots := s.slots.set n (some { sl with cursor := r + 1 }) }

theorem rowRun_touches (none_ : s.errs = []) : Touches [.mem, .fields] s (s.rowRun views o bank n seg e p r).st :=
  depositPixels_quiet _ _ _ _ _ _ _ _ ⟨s, o.results, o.made, []⟩ none_

/-- A unit and a pool replaced. -/
theorem touches_unit_slots (s : State) (d : DepositUnit) (slots : Vector (Option Slot) 128) :
    Touches [.deposit, .slots] s { s with deposit := d, slots := slots } :=
  (touches_deposit s d).andThen (touches_slots { s with deposit := d } slots)

theorem noted_touches (none_ : s.errs = []) (a : RowRun) (run : a = s.rowRun views o bank n seg e p r) :
    Touches [.mem, .fields] s (a.st.noteDeposits o.field a.cells) := by
  subst run
  exact (rowRun_touches none_).andThen (noteDeposits_touches _ _ _)

theorem afterRow_touches (none_ : s.errs = []) :
    Touches [.mem, .fields, .deposit, .slots] s (s.afterRow (s.rowRun views o bank n seg e p r) o n sl r) :=
  (noted_touches none_ _ rfl).andThen (touches_unit_slots _ _ _)

/-- R81: the reads of a row that meet memory errors. -/
def State.rowErrors (s : State) (amp : Amp) (e : SegEntry) (n : SlotNo) (r : Nat) : List (ReadBy × Nat × Nat × MemSource) :=
  (rowReads amp e n r).filter fun x => s.readErr x.1 x.2.1 x.2.2.1

/-- R81: what a row leaves whose reads met memory errors. -/
def State.missedRow (s : State) (amp : Amp) (e : SegEntry) (o : Assembly) (n : SlotNo) (sl : Slot) (r : Nat) : State :=
  { (s.rowErrors amp e n r).foldl (fun s x => s.memError x.2.2.2) s with
    deposit := .serving { o with results := { o.results with rowsMissing := min (o.results.rowsMissing + 1) 4294967295 } }
    slots := s.slots.set n (some { sl with cursor := r + 1 }) }

theorem memErrors_touches (l : List (ReadBy × Nat × Nat × MemSource)) (s : State) :
    Touches [.alert, .mirror, .messages] s (l.foldl (fun s x => s.memError x.2.2.2) s) := by
  induction l generalizing s with
  | nil => exact Touches.refl _ s
  | cons x l ih => exact (memError_touches s x.2.2.2).trans (ih _)

theorem missedRow_touches {amp : Amp} : Touches [.alert, .mirror, .messages, .deposit, .slots] s (s.missedRow amp e o n sl r) :=
  (memErrors_touches _ _).andThen (touches_unit_slots _ _ _)

theorem rowErrors_ne_nil {amp : Amp} (met : ∃ x ∈ rowReads amp e n r, s.readErr x.1 x.2.1 x.2.2.1 = true) : s.rowErrors amp e n r ≠ [] := by
  obtain ⟨x, read, errs⟩ := met
  exact List.ne_nil_of_mem (List.mem_filter.mpr ⟨read, errs⟩)

theorem missedRow_pending {amp : Amp} (met : ∃ x ∈ rowReads amp e n r, s.readErr x.1 x.2.1 x.2.2.1 = true) :
    (s.missedRow amp e o n sl r).alert.pending = { s.alert.pending with fault := true } :=
  memErrors_pending (fun x : ReadBy × Nat × Nat × MemSource => x.2.2.2) _ s (rowErrors_ne_nil met)

/-- The order and the slot changed, after a change that left both. -/
theorem served_eq {ps : List Part} {v : State} (frame : Touches ps s v) (serving : s.deposit = .serving o) (slot : s.slots[n] = some sl)
    (g : Assembly → Assembly) (k : Nat) (deposit : Part.deposit ∉ ps := by decide) (slots : Part.slots ∉ ps := by decide) :
    (v.mapServing g).setCursor n k = { v with deposit := .serving (g o), slots := s.slots.set n (some { sl with cursor := k }) } := by
  have same : v.slots = s.slots := frame .slots slots
  rw [mapServing_of_serving ((frame .deposit deposit).trans serving), setCursor_of_slot (sl := sl) (by
    show v.slots[n] = _
    rw [same]
    exact slot)]
  show ({ v with deposit := _, slots := v.slots.set n _ } : State) = _
  rw [same]

section Serve
variable (valid : s.banks[o.bank] = some bank) (present : o.map[seg] = some e) (placed : o.place[seg] = some p)
include valid present placed

theorem serveRow_eq : s.serveRow views o n seg r = if s.rowErrors bank.amps[seg] e n r ≠ [] then
      (((s.rowErrors bank.amps[seg] e n r).foldl (fun s x => s.memError x.2.2.2) s).mapResults fun q =>
        { q with rowsMissing := satAdd q.rowsMissing 1 }).setCursor n (r + 1)
    else
      let a := s.rowRun views o bank n seg e p r
      ((a.st.noteDeposits o.field a.cells).mapServing fun o => { o with results := a.res, made := a.made }).setCursor n (r + 1) := by
  unfold State.serveRow
  rw [valid, present, placed]
  rfl

variable (serving : s.deposit = .serving o) (slot : s.slots[n] = some sl)
include serving slot

theorem serveRow_of_no_errs (none_ : s.errs = []) :
    s.serveRow views o n seg r = s.afterRow (s.rowRun views o bank n seg e p r) o n sl r := by
  have nothing : ¬ s.rowErrors bank.amps[seg] e n r ≠ [] := by
    unfold State.rowErrors
    simp [readErr_of_no_errs none_]
  refine (serveRow_eq valid present placed).trans ((if_neg nothing).trans ?_)
  dsimp only
  have noted := noted_touches (views := views) (o := o) (bank := bank) (n := n) (seg := seg) (e := e) (p := p) (r := r) none_ _ rfl
  unfold State.afterRow
  generalize s.rowRun views o bank n seg e p r = a at noted ⊢
  exact served_eq noted serving slot _ _

theorem serveRow_of_errs (met : ∃ x ∈ rowReads bank.amps[seg] e n r, s.readErr x.1 x.2.1 x.2.2.1 = true) :
    s.serveRow views o n seg r = s.missedRow bank.amps[seg] e o n sl r := by
  refine (serveRow_eq valid present placed).trans ((if_pos (rowErrors_ne_nil met)).trans ?_)
  have counted := memErrors_touches (s.rowErrors bank.amps[seg] e n r) s
  unfold State.missedRow
  generalize (s.rowErrors bank.amps[seg] e n r).foldl (fun s x => s.memError x.2.2.2) s = v at counted ⊢
  exact served_eq counted serving slot _ _

end Serve

/-! ### The slot after its row -/

/-- A slot that keeps its tag, segment and state is found as before. -/
theorem slotIn_of_moved {k : Nat} (slot : s.slots[n] = some sl) (moved : t.slots = s.slots.set n (some { sl with cursor := k })) (seg : SegNo)
    (states : List SlotState) : t.slotIn tag seg states = s.slotIn tag seg states := by
  unfold State.slotIn State.findSlot
  refine congrArg (fun f => (List.finRange 128).find? f) (funext fun m => ?_)
  have at_ : t.slots[m] = if m = n then some { sl with cursor := k } else s.slots[m] := by
    rw [moved, Fin.getElem_fin, Vector.getElem_set]
    simp only [Fin.val_inj, eq_comm (a := n), Fin.getElem_fin]
  by_cases same : m = n
  · subst same
    rw [at_, if_pos rfl, slot]
  · rw [at_, if_neg same]

/-- R133, R140: after its row a slot does not finish, and the order goes on, when the slot is not COMPLETE or has another row. -/
theorem row_goes_on {k : Nat} (serving : t.deposit = .serving o') (tags : o'.tag = o.tag) (maps : o'.map = o.map) (drains : o'.draining = o.draining)
    (exposures : t.exposures = s.exposures) (moved : t.slots = s.slots.set n (some { sl with cursor := k })) (slot : s.slots[n] = some sl)
    (unfinished : sl.state ≠ .complete ∨ ∃ q ∈ sl.rows, k ≤ q)
    (goes_on : (∃ g, s.awaits o g = true) ∨ ∃ g ∈ o.draining, s.slotIn o.tag g [.late] = some n ∧ ∃ q ∈ sl.rows, k ≤ q) :
    (t.finishTest n) = t ∧ t.endTest = t := by
  have slot' : t.slots[n] = some { sl with cursor := k } := by
    rw [moved]
    simp [Fin.getElem_fin]
  refine ⟨finishTest_of_unfinished serving slot' (unfinished.imp id fun more => Option.isSome_iff_ne_none.mp (rowReady_isSome_iff.mpr more)),
    endTest_of_goes_on serving (goes_on.imp (fun ⟨g, awaited⟩ => ⟨g, ?_⟩) fun ⟨g, under, found, more⟩ => ?_)⟩
  · rwa [awaits_congr exposures maps tags]
  · rw [drains_iff, drains, tags]
    exact ⟨g, under, n, _, (slotIn_of_moved slot moved g _).trans found, slot', more⟩

end Sys2Proof.Machine
end

section
/-! ROW_DEPOSIT in ROW_FOLLOWING (R135, R137; O45). -/

-- One theorem at a time: the threads of a parallel elaboration reserve more memory than the check allows.
set_option Elab.async false

namespace Sys2Proof.Machine

variable {s u : State} {o : Assembly} {n m : SlotNo} {sl : Slot} {seg g : SegNo} {r j : Nat} {views : List RowView} {errs : List MemErr}
  {effect : State → State}

/-! ### The search (R135) -/

/-- R135: the segments in the order of the search. -/
theorem fromTurn_eq (turn : SegNo) : fromTurn turn = (List.range 64).map fun i => turn + Fin.ofNat 64 i := by
  refine List.ext_getElem ?_ fun i h₁ h₂ => ?_
  · simp [fromTurn]
  · simp only [List.length_map, List.length_range] at h₂
    simp only [fromTurn, List.getElem_append, List.getElem_map, List.getElem_range, List.length_drop, List.length_finRange, List.getElem_drop,
      List.getElem_take, List.getElem_finRange]
    refine Fin.ext ?_
    split <;> simp [Fin.val_add] <;> omega

/-- R135: the search comes to the segment `j` places from the turn after those before it. -/
theorem fromTurn_split (turn : SegNo) (within : j < 64) : ∃ before after, fromTurn turn = before ++ (turn + Fin.ofNat 64 j) :: after
    ∧ ∀ g ∈ before, ∃ i < j, g = turn + Fin.ofNat 64 i := by
  have long : j < (fromTurn turn).length := by
    rw [fromTurn_eq]
    simpa using within
  have at_ : (fromTurn turn)[j] = turn + Fin.ofNat 64 j := by simp only [fromTurn_eq, List.getElem_map, List.getElem_range]
  refine ⟨(fromTurn turn).take j, (fromTurn turn).drop (j + 1), ?_, fun g before => ?_⟩
  · rw [← at_, List.getElem_cons_drop, List.take_append_drop]
  · obtain ⟨i, early, rfl⟩ := List.mem_take_iff_getElem.mp before
    refine ⟨i, (lt_min_iff.mp early).1, ?_⟩
    simp only [fromTurn_eq, List.getElem_map, List.getElem_range]

theorem servedSlot_iff : s.servedSlot o g = some m
    ↔ (s.awaits o g = true ∧ s.slotIn o.tag g (if o.deadlinePassed then [.complete] else [.filling, .complete]) = some m)
      ∨ (s.awaits o g = false ∧ g ∈ o.draining ∧ s.slotIn o.tag g [.late] = some m) := by
  unfold State.servedSlot
  cases s.awaits o g with
  | true => simp
  | false => simp [Option.ite_none_right_eq_some]

section Serving
variable (serving : s.deposit = .serving o)
include serving

/-- R135: a segment without a served slot, or whose slot has no row ready and is not COMPLETE, is passed. -/
theorem searchRow_passes (before after : List SegNo) (passed : ∀ g ∈ before, ∀ (m : SlotNo) (x : Slot), s.servedSlot o g = some m →
    s.slots[m] = some x → x.state ≠ .complete ∧ x.rowReady = none) : s.searchRow views (before ++ after) = s.searchRow views after := by
  induction before with
  | nil => rfl
  | cons g before ih =>
    have rest := ih fun g' later => passed g' (List.mem_cons_of_mem _ later)
    rw [List.cons_append, State.searchRow, serving]
    dsimp only
    split
    · next m served =>
      split
      · next x slot =>
        obtain ⟨state, ready⟩ := passed g List.mem_cons_self m x served slot
        rw [ready]
        dsimp only
        rw [finishTest_of_unfinished serving slot (.inl state)]
        exact rest
      · exact rest
    · exact rest

theorem searchRow_serves (served : s.servedSlot o seg = some n) (slot : s.slots[n] = some sl) (ready : sl.rowReady = some r) (after : List SegNo) :
    s.searchRow views (seg :: after)
      = ((s.serveRow views o n seg r).mapServing fun o => { o with turn := seg + 1 }).finishTest n := by
  rw [State.searchRow, serving]
  dsimp only
  rw [served]
  dsimp only
  rw [slot]
  dsimp only
  rw [ready]

/-- R132, R135: the row event of ROW_FOLLOWING that serves the segment `j` places from the turn. -/
theorem rowEvent_of_following (mode : o.tileComplete = false) (within : j < 64) (at_ : seg = o.turn + Fin.ofNat 64 j)
    (passed : ∀ i < j, ∀ (m : SlotNo) (x : Slot), s.servedSlot o (o.turn + Fin.ofNat 64 i) = some m → s.slots[m] = some x →
      x.state ≠ .complete ∧ ∀ q ∈ x.rows, q < x.cursor)
    (served : s.servedSlot o seg = some n) (slot : s.slots[n] = some sl) (ready : sl.rowReady = some r) :
    s.rowEvent views = (((s.serveRow views o n seg r).mapServing fun o => { o with turn := seg + 1 }).finishTest n).endTest := by
  obtain ⟨before, after, split_, early⟩ := fromTurn_split o.turn within
  unfold State.rowEvent
  rw [serving]
  dsimp only
  rw [mode, if_neg (by decide), split_, ← at_, searchRow_passes serving before _ fun g earlier m x found here => ?_,
    searchRow_serves serving served slot ready]
  obtain ⟨i, before_j, rfl⟩ := early g earlier
  obtain ⟨state, done⟩ := passed i before_j m x found here
  exact ⟨state, rowReady_eq_none_iff.mpr done⟩

end Serving

theorem rowEvent_of_not_serving (h : ∀ o, s.deposit ≠ .serving o) : s.rowEvent views = s := by
  unfold State.rowEvent
  split
  · next o serving => exact absurd serving (h o)
  · rfl

/-! ### A step after which the order is still SERVING -/

theorem depositBusy_of_serving (serving : s.deposit = .serving o) : s.depositBusy = true := by
  rw [State.depositBusy, State.assembly, serving]
  rfl

/-- A row event that ends no order: the step notes the memory that a load or define may read on. -/
theorem stepWith_of_goes_on {ps : List Part} (is_effect : effect { s with errs := errs } = u) (frame : Touches ps { s with errs := errs } u)
    (serving : u.deposit = .serving o) (service : Part.service ∉ ps := by decide) :
    s.stepWith errs effect = u.noteMemory { s with errs := errs } :=
  stepWith_of_noLeave is_effect (fun _ => depositBusy_of_serving serving) fun busy => by
    rw [State.serviceBusy, frame .service service]
    exact busy

theorem exec_hostWrite (off : BitVec 34) (bytes : List Byte) (s : State) : exec (.hostWrite off bytes) s = .next (s.hostStore off.toNat bytes) := rfl

/-- Settles O45. -/
theorem rowDepositInRowFollowing : Obligations.RowDepositInRowFollowing := by
  refine ⟨fun s => ⟨rfl, rfl, fun w ws => ⟨_, exec_hostWrite _ _ _, rfl, rfl⟩⟩, fun m views amp e n r => ?_, fun s reads => ?_⟩
  · intro row at_
    refine ⟨readU16s_eq _ _ _, ?_, ?_, ?_⟩
    · dsimp only [row, readRow]
      rw [readEntries_eq]
    · refine if_congr Iff.rfl rfl (congrArg some ((readEntries_eq _ _ _ _ _).trans (List.map_congr_left fun x _ => ?_)))
      show Memory.readNat _ (amp.flat + r * e.image * 2 + 2 * x) 2 = Memory.readNat _ (amp.flat + (r * e.image + x) * 2) 2
      congr 1
      ring
    · refine if_congr Iff.rfl (congrArg some ((readEntries_eq _ _ _ _ _).trans (List.map_congr_left fun x _ => ?_))) rfl
      show Memory.readNat _ (amp.bias + r * e.image * 2 + 2 * x) 2 = Memory.readNat _ (amp.bias + (r * e.image + x) * 2) 2
      congr 1
      ring
  · intro landed
    have lands := landRowWrites_touches s reads.during
    refine ⟨fun not_serving => ?_, fun o seg j n sl r bank e p => ?_⟩
    · have still : ∀ o, ({ landed with errs := reads.errs } : State).deposit ≠ .serving o := by
        rw [show ({ landed with errs := reads.errs } : State).deposit = s.deposit from lands .deposit (by decide)]
        exact not_serving
      rw [exec_rowDeposit]
      exact congrArg Host.Outcome.next (State.stepWith_eq_effect (rowEvent_of_not_serving still) rfl rfl rfl)
    · intro amp s₀ moved serves serving mode within at_ passed served slot sorted next stays valid present placed
      have slots : s₀.slots = s.slots := lands .slots (by decide)
      have exposures : s₀.exposures = s.exposures := lands .exposures (by decide)
      have serving' : s₀.deposit = .serving o := (lands .deposit (by decide)).trans serving
      have slot' : s₀.slots[n] = some sl := by rw [slots]; exact slot
      have valid' : s₀.banks[o.bank] = some bank := by rw [show s₀.banks = s.banks from lands .banks (by decide)]; exact valid
      have awaits_eq : s₀.awaits o = s.awaits o := awaits_congr exposures rfl rfl
      have served_iff (g : SegNo) (m : SlotNo) : s₀.servedSlot o g = some m ↔ serves g m := by
        rw [servedSlot_iff, awaits_eq, slotIn_congr slots, slotIn_congr slots]
      have event := rowEvent_of_following (views := s.rowViews reads.during) serving' mode within at_
        (fun i early m x found here => passed i early m x ((served_iff _ _).mp found) (by rw [← slots]; exact here))
        ((served_iff _ _).mpr served) slot' (rowReady_of_next sorted next)
      have unfinished : sl.state ≠ .complete ∨ ∃ q ∈ sl.rows, r + 1 ≤ q := by
        rcases stays with filling | more | ⟨late, -⟩
        · exact .inl (by rw [filling]; decide)
        · exact .inr more
        · exact .inl (by rw [late]; decide)
      have goes_on : (∃ g, s₀.awaits o g = true) ∨ ∃ g ∈ o.draining, s₀.slotIn o.tag g [.late] = some n ∧ ∃ q ∈ sl.rows, r + 1 ≤ q := by
        rw [awaits_eq]
        rcases served with ⟨awaited, -⟩ | ⟨-, under, found⟩
        · exact .inl ⟨seg, awaited⟩
        · obtain ⟨old, here, -, -, state⟩ := State.slotIn_some found
          obtain rfl : sl = old := Option.some.inj (slot.symm.trans here)
          rcases stays with filling | more | ⟨-, some_⟩
          · rw [filling] at state
            exact absurd state (by decide)
          · exact .inr ⟨seg, under, by rw [slotIn_congr slots]; exact found, more⟩
          · exact .inl some_
      -- The state after the row is the state after the event, but for the turn.
      have ends {v : State} {o₁ : Assembly} (serve : s₀.serveRow (s.rowViews reads.during) o n seg r = v) (unit : v.deposit = .serving o₁)
          (tags : o₁.tag = o.tag) (maps : o₁.map = o.map) (drains : o₁.draining = o.draining) (same : v.exposures = s₀.exposures)
          (pool : v.slots = s₀.slots.set n (some { sl with cursor := r + 1 })) :
          s₀.rowEvent (s.rowViews reads.during) = { v with deposit := .serving { o₁ with turn := seg + 1 } } := by
        rw [serve, mapServing_of_serving unit] at event
        obtain ⟨finish, ending⟩ := row_goes_on (s := s₀) (t := { v with deposit := .serving { o₁ with turn := seg + 1 } }) (o := o)
          rfl tags maps drains same pool slot' unfinished goes_on
        rwa [finish, ending] at event
      refine ⟨fun none_ => ?_, fun met => ?_⟩
      · intro a
        have no_errs : s₀.errs = [] := none_
        have serve := serveRow_of_no_errs (views := s.rowViews reads.during) (r := r) valid' present placed serving' slot' no_errs
        have frame := afterRow_touches (views := s.rowViews reads.during) (o := o) (bank := bank) (n := n) (seg := seg) (e := e) (p := p) (r := r)
          (sl := sl) no_errs
        have event' := ends serve rfl rfl rfl rfl (frame .exposures (by decide)) rfl
        let w : State := { s₀.afterRow a o n sl r with deposit := .serving { o with results := a.res, made := a.made, turn := seg + 1 } }
        have changes : Touches [.mem, .fields, .deposit, .slots] s₀ w := frame.andThen (touches_deposit (s₀.afterRow a o n sl r) _)
        have noted := noteMemory_touches w s₀
        refine ⟨w.noteMemory s₀, ?_, ?_, ?_, noted .fields (by decide), ?_, noted .deposit (by decide)⟩
        · rw [exec_rowDeposit]
          exact congrArg Host.Outcome.next (stepWith_of_goes_on (s := landed) event' changes rfl)
        · exact ((touches_errs landed reads.errs).andThen changes : Touches [.errs, .mem, .fields, .deposit, .slots] _ _).andThen noted
        · exact (noted .mem (by decide)).trans (noteDeposits_touches a.st o.field a.cells .mem (by decide))
        · refine (noted .slots (by decide)).trans ?_
          show s₀.slots.set n _ = s.slots.set n _
          rw [slots]
      · have serve := serveRow_of_errs (views := s.rowViews reads.during) (r := r) valid' present placed serving' slot' met
        have frame := missedRow_touches (s := s₀) (e := e) (o := o) (n := n) (sl := sl) (r := r) (amp := amp)
        have event' := ends serve rfl rfl rfl rfl (frame .exposures (by decide)) rfl
        let missed : Assembly := { o with
          turn := seg + 1, results := { o.results with rowsMissing := min (o.results.rowsMissing + 1) 4294967295 } }
        let w : State := { s₀.missedRow amp e o n sl r with deposit := .serving missed }
        have changes : Touches [.alert, .mirror, .messages, .deposit, .slots] s₀ w := frame.andThen (touches_deposit (s₀.missedRow amp e o n sl r) _)
        have touches : Touches [.errs, .alert, .mirror, .messages, .deposit, .slots] landed w := (touches_errs landed reads.errs).andThen changes
        have keeps : KeepsBusy landed w := by
          refine ⟨?_, congrArg Option.isSome (touches .service (by decide)), touches .mem (by decide)⟩
          rw [depositBusy_of_serving (show w.deposit = .serving missed from rfl),
            depositBusy_of_serving (show landed.deposit = .serving o from serving')]
        refine ⟨w, ?_, touches.mono, missedRow_pending (o := o) (sl := sl) met, ?_, rfl⟩
        · rw [exec_rowDeposit]
          exact congrArg Host.Outcome.next (stepWith_of_keepsBusy event' keeps)
        · show s₀.slots.set n _ = s.slots.set n _
          rw [slots]

end Sys2Proof.Machine
end

section
/-! ROW_DEPOSIT in TILE_COMPLETE, and the row that empties a slot (R133, R134; O46). -/

-- One theorem at a time: the threads of a parallel elaboration reserve more memory than the check allows.
set_option Elab.async false

namespace Sys2Proof.Machine

variable {s v : State} {o o₁ : Assembly} {n : SlotNo} {sl : Slot} {seg : SegNo} {r k : Nat} {views : List RowView} {d : DepositUnit}
  {bank : Bank} {e : SegEntry} {p : Placement} {q : Fin 4} {x : ExpEntry}

/-! ### The pixels do not ask what the unit holds -/

/-- The unit's order replaced. -/
def State.withUnit (d : DepositUnit) (s : State) : State := { s with deposit := d }

/-- A row run over the state with the unit's order replaced. -/
def RowRun.withUnit (d : DepositUnit) (a : RowRun) : RowRun := { a with st := a.st.withUnit d }

theorem mapCell_withUnit (f : Fin 4) (c : Nat) (g : DirCell → DirCell) : (s.withUnit d).mapCell f c g = (s.mapCell f c g).withUnit d := by
  show (match s.fields[f] with | some fd => _ | none => _) = State.withUnit d (match s.fields[f] with | some fd => _ | none => _)
  cases s.fields[f] <;> rfl

theorem mirrorIf_withUnit (c : Bool) (off n v : Nat) : (s.withUnit d).mirrorIf c off n v = (s.mirrorIf c off n v).withUnit d := by
  cases c <;> rfl

theorem raise_withUnit (c : Cause) : (s.withUnit d).raise c = (s.raise c).withUnit d := by
  unfold State.raise
  show (if s.alert.pending.has c = true then _ else if (s.port.control.msgEn && s.port.alertCfg.enables.has c && !s.alert.pending.any) = true
    then _ else _) = _
  split
  · rfl
  · split <;> rfl

theorem memError_withUnit (src : MemSource) : (s.withUnit d).memError src = (s.memError src).withUnit d := by
  unfold State.memError
  exact (congrArg (State.raise .fault) (mirrorIf_withUnit (s := { s with alert := _ }) _ _ _ _)).trans (raise_withUnit _)

theorem zeroCell_withUnit (f : Fin 4) (c : Nat) : (s.withUnit d).zeroCell f c = (s.zeroCell f c).withUnit d := by
  unfold State.zeroCell
  show (match s.fields[f] with | some fd => _ | none => _) = State.withUnit d (match s.fields[f] with | some fd => _ | none => _)
  cases s.fields[f] with
  | none => rfl
  | some fd => exact mapCell_withUnit (s := { s with mem := _ }) _ _ _

theorem writeStale_withUnit (off : Nat) : (s.withUnit d).writeStale off = (s.writeStale off).withUnit d := by
  unfold State.writeStale
  show (if (inGeneral off 4 && !s.inSomeField off 4) = true then _ else _) = _
  split <;> rfl

theorem prepareCell_withUnit (f : Fin 4) (c : Nat) : (s.withUnit d).prepareCell f c = (s.prepareCell f c).withUnit d := by
  unfold State.prepareCell
  show (match s.cellAt f c with | some d => _ | none => _) = State.withUnit d (match s.cellAt f c with | some d => _ | none => _)
  cases s.cellAt f c with
  | none => rfl
  | some cell =>
    dsimp only
    cases cell.state with
    | vacant => exact zeroCell_withUnit f c
    | accumulating => rfl
    | spoiled => rfl
    | finalized =>
      dsimp only
      cases cell.last with
      | none => exact mapCell_withUnit f c _
      | some off =>
        dsimp only
        rw [writeStale_withUnit, mapCell_withUnit]

theorem spoilCell_withUnit (f : Fin 4) (c : Nat) : (s.withUnit d).spoilCell f c = (s.spoilCell f c).withUnit d := by
  unfold State.spoilCell
  rw [mapCell_withUnit, memError_withUnit]

theorem takeShare_withUnit (f : Fin 4) (c off : Nat) (tag : Tag) (V : Int) (w : Nat) (cl : Bool) :
    (s.withUnit d).takeShare f c off tag V w cl = ((s.takeShare f c off tag V w cl).1.withUnit d, (s.takeShare f c off tag V w cl).2) := by
  have cell : (s.withUnit d).cellAt f c = s.cellAt f c := rfl
  have met : (s.withUnit d).readErr .accumulator off 24 = s.readErr .accumulator off 24 := rfl
  unfold State.takeShare
  rw [cell, met]
  cases s.cellAt f c with
  | none => rfl
  | some cell =>
    dsimp only
    split
    · rfl
    · split
      · rw [spoilCell_withUnit]
      · have mem : (s.withUnit d).mem = s.mem := rfl
        rw [mem]
        split
        · exact congrArg (·, ShareOutcome.made) (mapCell_withUnit (s := { s with mem := _ }) _ _ _)
        · rfl

theorem takeMask_withUnit (f : Fin 4) (c off : Nat) (flag : MaskFlag) :
    (s.withUnit d).takeMask f c off flag = (s.takeMask f c off flag).withUnit d := by
  have cell : (s.withUnit d).cellAt f c = s.cellAt f c := rfl
  have met : (s.withUnit d).readErr .accumulator off 24 = s.readErr .accumulator off 24 := rfl
  unfold State.takeMask
  rw [cell, met]
  cases s.cellAt f c with
  | none => rfl
  | some cell =>
    dsimp only
    split
    · rfl
    · split
      · exact spoilCell_withUnit f c
      · rfl

theorem touchShare_withUnit (f : Fin 4) (i j : Nat) (tag : Tag) (V : Int) (w : Nat) (cl : Bool) :
    (s.withUnit d).touchShare f i j tag V w cl = ((s.touchShare f i j tag V w cl).1.withUnit d, (s.touchShare f i j tag V w cl).2) := by
  have fields : (s.withUnit d).fields = s.fields := rfl
  unfold State.touchShare
  rw [fields]
  cases s.fields[f] with
  | none => rfl
  | some fd =>
    dsimp only
    rw [prepareCell_withUnit, takeShare_withUnit]

theorem touchMask_withUnit (f : Fin 4) (i j : Nat) (flag : MaskFlag) : (s.withUnit d).touchMask f i j flag = (s.touchMask f i j flag).withUnit d := by
  have fields : (s.withUnit d).fields = s.fields := rfl
  unfold State.touchMask
  rw [fields]
  cases s.fields[f] with
  | none => rfl
  | some fd =>
    dsimp only
    rw [prepareCell_withUnit, takeMask_withUnit]

theorem depositTarget_withUnit (o : Assembly) (V : Int) (cl : Bool) (a : RowRun) (x : Target) :
    depositTarget o V cl (a.withUnit d) x = (depositTarget o V cl a x).withUnit d := by
  unfold depositTarget
  split
  · rfl
  · split
    · dsimp only
      split
      · rfl
      · have st : (a.withUnit d).st = a.st.withUnit d := rfl
        rw [st, touchShare_withUnit]
        dsimp only
        split <;> rfl
    · rfl

theorem maskTarget_withUnit (o : Assembly) (flag : MaskFlag) (a : RowRun) (x : Target) :
    maskTarget o flag (a.withUnit d) x = (maskTarget o flag a x).withUnit d := by
  unfold maskTarget
  split
  · rfl
  · split
    · have st : (a.withUnit d).st = a.st.withUnit d := rfl
      rw [st, touchMask_withUnit]
      rfl
    · rfl

theorem foldl_withUnit {α : Type} {f : RowRun → α → RowRun} (h : ∀ a x, f (a.withUnit d) x = (f a x).withUnit d) (l : List α) {a b : RowRun}
    (from_ : b = a.withUnit d) : l.foldl f b = (l.foldl f a).withUnit d := by
  subst from_
  exact List.foldl_hom (RowRun.withUnit d) h

theorem depositPixel_withUnit (o : Assembly) (p : Placement) (i y : Nat) (out : PixelOutcome) (a : RowRun) :
    depositPixel o p i y out (a.withUnit d) = (depositPixel o p i y out a).withUnit d := by
  unfold depositPixel
  cases out with
  | saturated =>
    dsimp only
    exact foldl_withUnit (maskTarget_withUnit o _) _ rfl
  | bad =>
    dsimp only
    exact foldl_withUnit (maskTarget_withUnit o _) _ rfl
  | deposit V cl =>
    dsimp only
    refine foldl_withUnit (depositTarget_withUnit o V cl) _ ?_
    cases cl <;> rfl

theorem depositPixels_withUnit (o : Assembly) (amp : Amp) (defects : List Defect) (seg : SegNo) (e : SegEntry) (p : Placement) (row : RowData) (y : Nat)
    {a b : RowRun} (from_ : b = a.withUnit d) :
    depositPixels o amp defects seg e p row y b = (depositPixels o amp defects seg e p row y a).withUnit d :=
  foldl_withUnit (fun a i => depositPixel_withUnit o p i y _ a) _ from_

theorem noteDeposits_withUnit (f : Fin 4) (cells : List Nat) : (s.withUnit d).noteDeposits f cells = (s.noteDeposits f cells).withUnit d :=
  List.foldl_hom (State.withUnit d) fun _ c => mapCell_withUnit f c _

end Sys2Proof.Machine
end

section
/-! ROW_DEPOSIT of COMPLETE slots (R133, R134; O46). -/

-- One theorem at a time: the threads of a parallel elaboration reserve more memory than the check allows.
set_option Elab.async false

namespace Sys2Proof.Machine

variable {s t v : State} {o o₁ : Assembly} {n : SlotNo} {sl : Slot} {seg g : SegNo} {r k : Nat} {views : List RowView} {d : DepositUnit}
  {bank : Bank} {e : SegEntry} {p : Placement} {q : Fin 4} {x : ExpEntry} {c : Option SegNo}

/-! ### The run of an order of another current segment -/

theorem rowRun_choice : (s.withUnit d).rowRun views { o with current := c } bank n seg e p r = (s.rowRun views o bank n seg e p r).withUnit d :=
  (depositPixels_withUnit { o with current := c } bank.amps[seg] bank.defects seg e p (readRow s.mem views bank.amps[seg] e n r) r
    (a := ⟨s, o.results, o.made, []⟩) rfl : _)

/-! ### The choice of a segment (R134) -/

/-- An awaited segment with a COMPLETE slot. -/
def State.tileAt (s : State) (o : Assembly) (g : SegNo) : Prop := s.awaits o g = true ∧ s.slotIn o.tag g [.complete] ≠ none

section Serving
variable (serving : s.deposit = .serving o)
include serving

theorem choose_of_current {g : SegNo} (current : o.current = some g) : s.choose = s := by
  unfold State.choose State.chooseTile
  rw [serving]
  dsimp only
  rw [if_neg]
  rintro ⟨-, none_⟩
  exact nomatch current.symm.trans none_

theorem checkCurrent_of_none (none_ : o.current = none) : s.checkCurrent = s := by
  unfold State.checkCurrent
  rw [serving]
  dsimp only
  rw [none_]

theorem checkCurrent_of_tile (current : o.current = some seg) (tile : s.tileAt o seg) : s.checkCurrent = s := by
  unfold State.checkCurrent
  rw [serving]
  dsimp only
  rw [current]
  dsimp only
  rw [if_pos]
  rw [Bool.and_eq_true]
  exact ⟨tile.1, Option.isSome_iff_ne_none.mpr tile.2⟩

/-- R134: the lowest segment that is awaited and has a COMPLETE slot becomes current; its slot has a row ready, so the choice stands. -/
theorem choose_of_lowest (mode : o.tileComplete = true) (none_ : o.current = none) (tile : s.tileAt o seg) (lower : ∀ g < seg, ¬ s.tileAt o g)
    (found : s.slotIn o.tag seg [.complete] = some n) (slot : s.slots[n] = some sl) (ready : sl.rowReady = some r) :
    s.choose = s.withUnit (.serving { o with current := some seg }) := by
  have chosen : (List.finRange 64).find? (fun g => s.awaits o g && (s.slotIn o.tag g [.complete]).isSome) = some seg :=
    find?_finRange_eq_some (by rw [Bool.and_eq_true]; exact ⟨tile.1, Option.isSome_iff_ne_none.mpr tile.2⟩) fun g below => by
      rw [← Bool.not_eq_true, Bool.and_eq_true]
      exact fun both => lower g below ⟨both.1, Option.isSome_iff_ne_none.mp both.2⟩
  have found' : (s.withUnit (.serving { o with current := some seg })).slotIn o.tag seg [.complete] = some n :=
    (slotIn_congr (t := s.withUnit _) rfl _ _).trans found
  have stays : (s.withUnit (.serving { o with current := some seg })).finishTest n = s.withUnit (.serving { o with current := some seg }) :=
    finishTest_of_unfinished rfl slot (.inr (by rw [ready]; nofun))
  have stands : State.chooseTile 64 (s.withUnit (.serving { o with current := some seg })) = s.withUnit (.serving { o with current := some seg }) := by
    unfold State.chooseTile State.withUnit
    dsimp only
    rw [if_neg]
    rintro ⟨-, gone⟩
    cases gone
  unfold State.choose State.chooseTile
  split
  · next o' here =>
    obtain rfl := DepositUnit.serving.inj (serving.symm.trans here)
    rw [if_pos ⟨mode, none_⟩, chosen]
    dsimp only
    rw [mapServing_of_serving serving]
    show (match (s.withUnit (.serving { o with current := some seg })).slotIn o.tag seg [.complete] with | some n => _ | none => _) = _
    rw [found']
    dsimp only
    exact (congrArg (State.chooseTile 64) stays).trans stands
  · next other => exact absurd serving (other o)

/-- R134: the row event of TILE_COMPLETE serves the segment chosen. -/
theorem rowEvent_of_tile (mode : o.tileComplete = true) (tile : s.tileAt o seg)
    (chosen : o.current = some seg ∨ (o.current = none ∧ ∀ g < seg, ¬ s.tileAt o g))
    (found : s.slotIn o.tag seg [.complete] = some n) (slot : s.slots[n] = some sl) (ready : sl.rowReady = some r) :
    s.rowEvent views = ((((s.withUnit (.serving { o with current := some seg })).serveRow views { o with current := some seg } n seg r).finishTest
      n).choose).endTest := by
  have picks : s.checkCurrent.choose = s.withUnit (.serving { o with current := some seg }) := by
    rcases chosen with current | ⟨none_, lower⟩
    · have same : ({ o with current := some seg } : Assembly) = o := by rw [← current]
      rw [checkCurrent_of_tile serving current tile, choose_of_current serving current, same]
      exact (deposit_eta serving).symm
    · rw [checkCurrent_of_none serving none_]
      exact choose_of_lowest serving mode none_ tile lower found slot ready
  have found' : (s.withUnit (.serving { o with current := some seg })).slotIn o.tag seg [.complete] = some n :=
    (slotIn_congr (t := s.withUnit _) rfl _ _).trans found
  have slot' : (s.withUnit (.serving { o with current := some seg })).slots[n] = some sl := slot
  unfold State.rowEvent State.tileRow
  rw [serving]
  dsimp only
  rw [if_pos mode, picks]
  generalize at_ : s.withUnit (.serving { o with current := some seg }) = u at found' slot' ⊢
  have serving' : u.deposit = .serving { o with current := some seg } := by rw [← at_]; rfl
  rw [serving']
  dsimp only
  rw [found']
  dsimp only
  rw [slot']
  dsimp only
  rw [ready]

end Serving

/-! ### The row that empties its slot (R133) -/

theorem outcomes_set_getElem (v : Vector SegOutcome 64) (i g : SegNo) (out : SegOutcome) : (v.set i out)[g] = if g = i then out else v[g] := by
  rw [Fin.getElem_fin, Vector.getElem_set]
  simp only [Fin.val_inj, eq_comm (a := i), Fin.getElem_fin]

/-- R133: after its last row a COMPLETE slot finishes: its segment alone is no longer awaited. -/
theorem row_empties (serving : v.deposit = .serving o₁) (tags : o₁.tag = o.tag) (maps : o₁.map = o.map) (exposures : v.exposures = s.exposures)
    (moved : v.slots = s.slots.set n (some { sl with cursor := k })) (names : sl.tag = o.tag) (complete : sl.state = .complete)
    (done : ∀ i ∈ sl.rows, i < k) (awaited : s.awaits o sl.seg = true) (place : s.placeOf o.tag = some q) (here : s.exposures[q] = some x)
    (assembling : x.state = .assembling) :
    s.SettlesAndFrees (v.finishTest n) n { sl with cursor := k } .deposited .deposited q x
      ∧ (v.finishTest n).deposit = .serving { o₁ with
          results := o₁.results.finished sl, current := if o₁.current = some sl.seg then none else o₁.current }
      ∧ ∀ g, (v.finishTest n).awaits o g = true ↔ g ≠ sl.seg ∧ s.awaits o g = true := by
  have slot : v.slots[n] = some { sl with cursor := k } := by
    rw [moved]
    simp [Fin.getElem_fin]
  have place' : v.placeOf o₁.tag = some q := (placeOf_congr exposures).trans (by rw [tags]; exact place)
  have here' : v.exposures[q] = some x := by rw [exposures]; exact here
  obtain ⟨-, ⟨slots, settled, reports⟩, deposit⟩ := finishTest_of_finished serving slot (names.trans tags.symm) complete (rowReady_eq_none_iff.mpr done)
    (by rw [awaits_congr exposures maps tags]; exact awaited) place' here' assembling
  rw [exposures] at settled
  refine ⟨⟨?_, settled, reports⟩, deposit, fun g => ?_⟩
  · rw [slots, moved]
    exact vector_set_set _ _ _ _
  · obtain ⟨place'', here'', -⟩ := place_after_set place here settled rfl
    rw [awaits_iff place'' here'', awaits_iff place here]
    show _ ∧ (x.outcomes.set sl.seg .deposited)[g] = .unsettled ↔ _
    rw [outcomes_set_getElem]
    by_cases same : g = sl.seg
    · rw [if_pos same]
      exact ⟨fun both => absurd both.2 (by decide), fun both => absurd same both.1⟩
    · rw [if_neg same]
      exact ⟨fun both => ⟨same, both⟩, fun both => both.2⟩

/-- Settles O46. -/
theorem rowDepositOfCompleteSlots : Obligations.RowDepositOfCompleteSlots := by
  intro s o during serving landed tile
  have lands := landRowWrites_touches s during
  refine ⟨fun errs mode none_ no_tile some_ => ?_, fun seg n sl r bank e p => ?_⟩
  · let s₀ : State := { landed with errs := errs }
    have slots : s₀.slots = s.slots := lands .slots (by decide)
    have exposures : s₀.exposures = s.exposures := lands .exposures (by decide)
    have serving' : s₀.deposit = .serving o := (lands .deposit (by decide)).trans serving
    have awaits_eq : s₀.awaits o = s.awaits o := awaits_congr exposures rfl rfl
    have waits : s₀.choose = s₀ := choose_of_none serving' fun g awaited => by
      rw [awaits_eq] at awaited
      rw [slotIn_congr slots]
      exact not_not.mp fun more => no_tile g ⟨awaited, more⟩
    obtain ⟨g, awaited⟩ := some_
    have stays : s₀.endTest = s₀ := endTest_of_goes_on serving' (.inl ⟨g, by rw [awaits_eq]; exact awaited⟩)
    have event : s₀.rowEvent (s.rowViews during) = s₀ := by
      unfold State.rowEvent State.tileRow
      rw [serving']
      dsimp only
      rw [if_pos mode, checkCurrent_of_none serving' none_, waits, serving']
      dsimp only
      rw [none_]
      exact stays
    rw [exec_rowDeposit]
    exact congrArg Host.Outcome.next (State.stepWith_eq_effect event rfl rfl rfl)
  · intro amp a chosen awaited found slot sorted next valid present placed
    let s₀ : State := { landed with errs := [] }
    have slots : s₀.slots = s.slots := lands .slots (by decide)
    have exposures : s₀.exposures = s.exposures := lands .exposures (by decide)
    have serving' : s₀.deposit = .serving o := (lands .deposit (by decide)).trans serving
    have slot' : s₀.slots[n] = some sl := by rw [slots]; exact slot
    have valid' : s₀.banks[o.bank] = some bank := by rw [show s₀.banks = s.banks from lands .banks (by decide)]; exact valid
    have awaits_eq : s₀.awaits o = s.awaits o := awaits_congr exposures rfl rfl
    have ready := rowReady_of_next sorted next
    obtain ⟨old, slot'', names, segs, state⟩ := State.slotIn_some found
    obtain rfl : sl = old := Option.some.inj (slot.symm.trans slot'')
    have complete : sl.state = .complete := List.mem_singleton.mp state
    subst segs
    have tile_iff (g : SegNo) : s₀.tileAt o g ↔ tile g := by
      unfold State.tileAt
      rw [awaits_eq, slotIn_congr slots]
    -- A row event that leaves the order SERVING.
    have steps {ps : List Part} {w : State} {o' : Assembly} (event : s₀.rowEvent (s.rowViews during) = w) (frame : Touches ps s₀ w)
        (unit : w.deposit = .serving o') (service : Part.service ∉ ps := by decide) :
        ∃ t, exec (.rowDeposit ⟨during, []⟩) s = .next t ∧ Touches [.past] w t := by
      refine ⟨w.noteMemory s₀, ?_, noteMemory_touches _ _⟩
      rw [exec_rowDeposit]
      exact congrArg Host.Outcome.next (stepWith_of_goes_on (s := landed) event frame unit service)
    -- In TILE_COMPLETE, the state after the row, before its slot is looked at.
    let o₁ : Assembly := { o with current := some sl.seg }
    let v : State := (s₀.withUnit (.serving o₁)).afterRow (a.withUnit (.serving o₁)) o₁ n sl r
    have run : (s₀.withUnit (.serving o₁)).rowRun (s.rowViews during) o₁ bank n sl.seg e p r = a.withUnit (.serving o₁) := rowRun_choice
    have unit_touches : Touches [.deposit] s₀ (s₀.withUnit (.serving o₁)) := touches_deposit _ _
    have served : (s₀.withUnit (.serving o₁)).serveRow (s.rowViews during) o₁ n sl.seg r = v := by
      have serve := serveRow_of_no_errs (s := s₀.withUnit (.serving o₁)) (o := o₁) (views := s.rowViews during) (r := r) valid' present placed rfl slot' rfl
      rwa [run] at serve
    have frame : Touches [.mem, .fields, .deposit, .slots] s₀ v := by
      have after := afterRow_touches (s := s₀.withUnit (.serving o₁)) (o := o₁) (views := s.rowViews during) (bank := bank) (n := n) (seg := sl.seg)
        (e := e) (p := p) (r := r) (sl := sl) rfl
      rw [run] at after
      exact unit_touches.andThen after
    have mem : v.mem = a.st.mem := noteDeposits_touches (a.withUnit (.serving o₁)).st o.field a.cells .mem (by decide)
    have fields : v.fields = (a.st.noteDeposits o.field a.cells).fields := by
      show ((a.st.withUnit (.serving o₁)).noteDeposits o.field a.cells).fields = _
      rw [noteDeposits_withUnit]
      rfl
    have moved : v.slots = s.slots.set n (some { sl with cursor := r + 1 }) := by
      show s₀.slots.set n _ = _
      rw [slots]
    have same : v.exposures = s.exposures := (frame .exposures (by decide)).trans exposures
    have event (mode : o.tileComplete = true) (chosen_ : chosen) :
        s₀.rowEvent (s.rowViews during) = ((v.finishTest n).choose).endTest := by
      have picks := rowEvent_of_tile (views := s.rowViews during) serving' mode ((tile_iff _).mpr ⟨awaited, by rw [found]; nofun⟩)
        (chosen_.imp id fun both => ⟨both.1, fun g below more => both.2 g below ((tile_iff g).mp more)⟩)
        (by rw [slotIn_congr slots]; exact found) slot' ready
      rwa [served] at picks
    refine ⟨fun mode chosen_ more => ?_, fun q x done other place here assembling => ?_⟩
    · obtain ⟨finish, ending⟩ := row_goes_on (s := s) (t := v) (o := o) rfl rfl rfl rfl same moved slot (.inr more) (.inl ⟨sl.seg, awaited⟩)
      have ends := event mode chosen_
      rw [finish, choose_of_current (s := v) rfl rfl, ending] at ends
      obtain ⟨t, step, noted⟩ := steps ends frame rfl
      refine ⟨t, step, ((touches_errs landed []).andThen frame : Touches [.errs, .mem, .fields, .deposit, .slots] _ _).andThen noted,
        (noted .mem (by decide)).trans mem, (noted .fields (by decide)).trans fields, (noted .slots (by decide)).trans moved, noted .deposit (by decide)⟩
    · intro emptied
      obtain ⟨g, not_seg, g_awaited⟩ := other
      -- A row event that comes to the finish of the slot.
      have ends {w : State} {o' : Assembly} (unit : w.deposit = .serving o') (tags : o'.tag = o.tag) (maps : o'.map = o.map)
          (results : o'.results = a.res) (frame : Touches [.mem, .fields, .deposit, .slots] s₀ w) (mem : w.mem = a.st.mem)
          (fields : w.fields = (a.st.noteDeposits o.field a.cells).fields) (moved : w.slots = s.slots.set n (some { sl with cursor := r + 1 }))
          (event : s₀.rowEvent (s.rowViews during) = w.finishTest n) :
          ∃ t, exec (.rowDeposit ⟨during, []⟩) s = .next t
            ∧ Touches [.mem, .past, .fields, .slots, .exposures, .mirror, .deposit, .errs] landed t
            ∧ t.mem = a.st.mem ∧ t.fields = (a.st.noteDeposits o.field a.cells).fields
            ∧ s.SettlesAndFrees t n { sl with cursor := r + 1 } .deposited .deposited q x
            ∧ t.deposit = .serving { o' with
                results := a.res.finished sl, current := if o'.current = some sl.seg then none else o'.current } := by
        have same : w.exposures = s.exposures := (frame .exposures (by decide)).trans exposures
        obtain ⟨⟨slots', settled, report, waits, at_, bytes⟩, unit', -⟩ := row_empties unit tags maps same moved names complete
          (fun i hi => Nat.lt_succ_of_le (done i hi)) awaited place here assembling
        have finish := finishTest_touches w n
        have changes : Touches [.mem, .fields, .deposit, .slots, .exposures, .mirror] s₀ (w.finishTest n) := frame.andThen finish
        obtain ⟨t, step, noted⟩ := steps event changes unit'
        refine ⟨t, step, ((touches_errs landed []).andThen changes : Touches [.errs, .mem, .fields, .deposit, .slots, .exposures, .mirror] _ _).andThen noted,
          (noted .mem (by decide)).trans ((finish .mem (by decide)).trans mem), (noted .fields (by decide)).trans ((finish .fields (by decide)).trans fields),
          ⟨(noted .slots (by decide)).trans slots', (noted .exposures (by decide)).trans settled, report, ?_, at_, bytes⟩, ?_⟩
        · rw [noted .mirror (by decide)]
          exact waits
        · rw [noted .deposit (by decide), unit', results]
      -- Another segment is awaited still, so the order goes on.
      have goes_on {w : State} {o' : Assembly} (unit : w.deposit = .serving o') (tags : o'.tag = o.tag) (maps : o'.map = o.map)
          (awaits : ∀ g, w.awaits o g = true ↔ g ≠ sl.seg ∧ s.awaits o g = true) : w.endTest = w := by
        refine endTest_of_goes_on unit (.inl ⟨g, ?_⟩)
        rw [awaits_congr rfl maps tags]
        exact (awaits g).mpr ⟨not_seg, g_awaited⟩
      refine ⟨fun mode chosen_ alone => ?_, fun mode turn in_turn => ?_⟩
      · obtain ⟨⟨slots', -⟩, unit', awaits'⟩ := row_empties (s := s) (v := v) (o := o) rfl rfl rfl same moved names complete
          (fun i hi => Nat.lt_succ_of_le (done i hi)) awaited place here assembling
        have no_choice : (v.finishTest n).choose = v.finishTest n := choose_of_none unit' fun h h_awaited => by
          obtain ⟨differs, before⟩ := (awaits' h).mp h_awaited
          refine Option.eq_none_iff_forall_ne_some.mpr fun m found_m => ?_
          obtain ⟨y, slot_y, tag_y, seg_y, state_y⟩ := State.slotIn_some found_m
          rw [slots', Fin.getElem_fin, Vector.getElem_set] at slot_y
          split at slot_y
          · cases slot_y
          · refine alone h differs ⟨before, fun none_ => State.slotIn_none none_ slot_y tag_y seg_y state_y⟩
        have event' := event mode chosen_
        rw [no_choice, goes_on unit' rfl rfl awaits'] at event'
        have all := ends (w := v) (o' := { o₁ with results := a.res, made := a.made }) rfl rfl rfl rfl frame mem fields moved event'
        have stands : (if (some sl.seg : Option SegNo) = some sl.seg then none else some sl.seg) = if o.tileComplete = true ∨ o.current = some sl.seg then none else o.current := by
          rw [if_pos rfl, if_pos (.inl mode)]
        show ∃ t, _
        rw [← stands]
        exact all
      · let w₀ : State := s₀.afterRow a o n sl r
        let w : State := { w₀ with deposit := .serving { o with results := a.res, made := a.made, turn := sl.seg + 1 } }
        have frame₀ : Touches [.mem, .fields, .deposit, .slots] s₀ w₀ := afterRow_touches rfl
        have frame_w : Touches [.mem, .fields, .deposit, .slots] s₀ w := frame₀.andThen (touches_deposit w₀ _)
        have mem_w : w.mem = a.st.mem := noteDeposits_touches a.st o.field a.cells .mem (by decide)
        have moved_w : w.slots = s.slots.set n (some { sl with cursor := r + 1 }) := by
          show s₀.slots.set n _ = _
          rw [slots]
        have serve : s₀.serveRow (s.rowViews during) o n sl.seg r = w₀ := serveRow_of_no_errs valid' present placed serving' slot' rfl
        have at_turn : s₀.servedSlot o sl.seg = some n := by
          refine servedSlot_iff.mpr (.inl ⟨by rw [awaits_eq]; exact awaited, ?_⟩)
          rw [slotIn_congr slots]
          rcases in_turn with passed | first
          · rw [if_pos passed]
            exact found
          · split
            · exact found
            · exact first
        have event' := rowEvent_of_following (views := s.rowViews during) (j := 0) serving' mode (by decide)
          (show sl.seg = o.turn + Fin.ofNat 64 0 by rw [turn]; exact (add_zero _).symm) (fun i none_ => absurd none_ (Nat.not_lt_zero i))
          at_turn slot' ready
        rw [serve, mapServing_of_serving (s := w₀) (o := { o with results := a.res, made := a.made }) rfl] at event'
        obtain ⟨-, unit', awaits'⟩ := row_empties (s := s) (v := w) (o := o) rfl rfl rfl ((frame_w .exposures (by decide)).trans exposures) moved_w names
          complete (fun i hi => Nat.lt_succ_of_le (done i hi)) awaited place here assembling
        have event'' : s₀.rowEvent (s.rowViews during) = w.finishTest n := event'.trans (goes_on unit' rfl rfl awaits')
        have all := ends (w := w) (o' := { o with results := a.res, made := a.made, turn := sl.seg + 1 }) rfl rfl rfl rfl frame_w mem_w rfl moved_w event''
        have stands : (if o.current = some sl.seg then none else o.current)
            = if o.tileComplete = true ∨ o.current = some sl.seg then none else o.current :=
          if_congr (by rw [mode]; simp) rfl rfl
        show ∃ t, _
        rw [← stands]
        exact all

end Sys2Proof.Machine
end

section
/-! An ASSEMBLE bound to its entry (R129; towards O20). -/

-- One theorem at a time: the threads of a parallel elaboration reserve more memory than the check allows.
set_option Elab.async false

namespace Sys2Proof.Machine

variable {s t : State} {o o' : Assembly} {p : Fin 4} {x : ExpEntry} {seg : SegNo} {c : Bool}

/-! ### Binding (R129) -/

/-- R129: the unit and the entry as binding begins. -/
def State.bound (o : Assembly) (s : State) : State :=
  { s.mapEntry o.tag (fun e => { e with state := .assembling }) with deposit := .serving { o with turn := 0, current := none } }

theorem bound_touches (o : Assembly) : Touches [.exposures, .mirror, .deposit] s (s.bound o) :=
  (mapEntry_touches s o.tag _).andThen (touches_deposit _ _)

section Entry
variable (place : s.placeOf o.tag = some p) (here : s.exposures[p] = some x)
include place here

theorem bound_exposures : (s.bound o).exposures = s.exposures.set p (some { x with state := .assembling }) := mapEntry_exposures place here _

theorem bind_eq : s.bind o
    = (((List.finRange 64).foldl (State.bindSegment (decide (x.state = .closed)) o) (s.bound o)).choose).endTest := by
  unfold State.bind
  rw [entryOf_of_place place here]
  rfl

end Entry

theorem bindSegment_of_not_awaited (settled : s.awaits o seg = false) : State.bindSegment c o s seg = s := by
  unfold State.bindSegment
  rw [settled, if_neg (by decide)]

theorem bindSegment_of_no_slot (awaited : s.awaits o seg = true) (none_ : s.slotOf o.tag seg = none) :
    State.bindSegment c o s seg = if c then s.settleMissing o.tag seg else s := by
  unfold State.bindSegment
  rw [if_pos awaited, none_]

/-- R129, R131, R133: before the deadline, a slot that agrees with the map copy and has a row ready or is not COMPLETE is left. -/
theorem bindSegment_of_good_slot (serving : s.deposit = .serving o') (tags : o'.tag = o.tag) (maps : o'.map = o.map) (before : o'.deadlinePassed = false)
    (awaited : s.awaits o seg = true) {n : SlotNo} (found : s.slotOf o.tag seg = some n)
    (good : ∀ (sl : Slot) (e : SegEntry), s.slots[n] = some sl → o.map[seg] = some e →
      (sl.rowLen = e.rowLen ∧ sl.mapRows = e.rows) ∧ (sl.state = .complete → ∃ q ∈ sl.rows, sl.cursor ≤ q)) :
    State.bindSegment c o s seg = s := by
  obtain ⟨sl, slot, names, segs⟩ := slotOf_some found
  subst segs
  have awaited' : s.awaits o' sl.seg = true := by
    rw [awaits_congr rfl maps tags]
    exact awaited
  obtain ⟨e, present⟩ : ∃ e, o.map[sl.seg] = some e := by
    unfold State.awaits at awaited
    rw [Bool.and_eq_true] at awaited
    exact Option.isSome_iff_exists.mp awaited.1
  obtain ⟨agrees, ready⟩ := good sl e slot present
  have examined : s.examineSlot n = s :=
    (examineSlot_of_agrees serving slot (names.trans tags.symm) awaited' (by rw [maps]; exact present) agrees).trans
      (if_neg (by rw [before]; exact fun both => nomatch both.1))
  have finished : s.finishTest n = s := by
    refine finishTest_of_unfinished serving slot ?_
    by_cases complete : sl.state = .complete
    · exact .inr (Option.isSome_iff_ne_none.mp (rowReady_isSome_iff.mpr (ready complete)))
    · exact .inl complete
  unfold State.bindSegment
  rw [if_pos awaited, found]
  dsimp only
  rw [examined, finished]

/-! ### A CLOSED entry without slots (R129, R140) -/

/-- R129, R139: a segment settled MISSING and counted. -/
theorem settleMissing_eq (serving : s.deposit = .serving o') (place : s.placeOf o.tag = some p) (here : s.exposures[p] = some x) (seg : SegNo) :
    s.settleMissing o.tag seg = { s with
      exposures := s.exposures.set p (some { x with outcomes := x.outcomes.set seg .missing })
      deposit := .serving { o' with results := { o'.results with missing := min (o'.results.missing + 1) 4294967295 } } } := by
  let u : State := { s with exposures := s.exposures.set p (some { x with outcomes := x.outcomes.set seg .missing }) }
  have settled : s.settle o.tag seg .missing = u := settle_eq place here seg .missing
  unfold State.settleMissing
  rw [settled, mapResults_of_serving (s := u) serving]
  rfl

/-- What going through segments without slots comes to: the awaited ones settled MISSING and counted. -/
structure MissingSettled (o o' : Assembly) (p : Fin 4) (x : ExpEntry) (segs : List SegNo) (s t : State) : Prop where
  touches : Touches [.exposures, .deposit] s t
  place : t.placeOf o.tag = some p
  entry : ∃ y, t.exposures[p] = some y ∧ y.held = x.held
  others : ∀ w, t.exposures.set p w = s.exposures.set p w
  unit : t.deposit = .serving { o' with results := { o'.results with missing := o'.results.missing + segs.countP (s.awaits o) } }
  awaits : ∀ g, t.awaits o g = true ↔ g ∉ segs ∧ s.awaits o g = true

theorem foldl_bindSegment_missing (segs : List SegNo) (each : segs.Nodup) (serving : s.deposit = .serving o') (tags : o'.tag = o.tag)
    (room : o'.results.missing + segs.length ≤ 4294967295) (place : s.placeOf o.tag = some p) (here : s.exposures[p] = some x)
    (none_ : ∀ (n : SlotNo) (sl : Slot), s.slots[n] = some sl → sl.tag ≠ o.tag) :
    MissingSettled o o' p x segs s (segs.foldl (State.bindSegment true o) s) := by
  induction segs generalizing s o' x with
  | nil => exact ⟨Touches.refl _ s, place, ⟨x, here, rfl⟩, fun _ => rfl, serving, fun g => by simp⟩
  | cons seg segs ih =>
    obtain ⟨not_in, each'⟩ := List.nodup_cons.mp each
    rw [List.length_cons] at room
    rw [List.foldl_cons]
    cases awaited : s.awaits o seg with
    | false =>
      rw [bindSegment_of_not_awaited awaited]
      obtain ⟨touches, place', entry, others, unit, awaits⟩ := ih each' serving tags (by omega) place here none_
      refine ⟨touches, place', entry, others, ?_, fun g => ?_⟩
      · rw [unit, List.countP_cons_of_neg (by rw [awaited]; decide)]
      · rw [awaits g, List.mem_cons, not_or]
        refine ⟨fun both => ⟨⟨?_, both.1⟩, both.2⟩, fun both => ⟨both.1.2, both.2⟩⟩
        rintro rfl
        exact absurd (both.2.symm.trans awaited) (by decide)
    | true =>
      let y : ExpEntry := { x with outcomes := x.outcomes.set seg .missing }
      let o₁ : Assembly := { o' with results := { o'.results with missing := min (o'.results.missing + 1) 4294967295 } }
      let t : State := { s with exposures := s.exposures.set p (some y), deposit := .serving o₁ }
      have step : State.bindSegment true o s seg = t :=
        (bindSegment_of_no_slot awaited (slotOf_eq_none none_ seg)).trans (settleMissing_eq serving place here seg)
      have one : o₁.results.missing = o'.results.missing + 1 := min_eq_left (by omega)
      obtain ⟨place', here', -⟩ := place_after_set (t := t) place here (e' := y) rfl rfl
      have fewer (g : SegNo) : t.awaits o g = true ↔ g ≠ seg ∧ s.awaits o g = true := by
        rw [awaits_iff place' here', awaits_iff place here]
        show _ ∧ (x.outcomes.set seg .missing)[g] = .unsettled ↔ _
        rw [outcomes_set_getElem]
        by_cases same : g = seg
        · rw [if_pos same]
          exact ⟨fun both => absurd both.2 (by decide), fun both => absurd same both.1⟩
        · rw [if_neg same]
          exact ⟨fun both => ⟨same, both⟩, fun both => both.2⟩
      rw [step]
      obtain ⟨touches, place'', entry, others, unit, awaits⟩ := ih each' (s := t) (o' := o₁) (x := y) rfl tags (by rw [one]; omega) place' here' none_
      have first : Touches [.exposures, .deposit] s t := 
        (touches_exposures s (s.exposures.set p (some y))).andThen (touches_deposit { s with exposures := s.exposures.set p (some y) } (.serving o₁))
      refine ⟨first.trans touches, place'', entry, fun w => (others w).trans (vector_set_set _ _ _ _), ?_, fun g => ?_⟩
      · rw [unit, List.countP_cons_of_pos awaited]
        have same : segs.countP (t.awaits o) = segs.countP (s.awaits o) := List.countP_congr fun g later => by
          rw [fewer g]
          exact ⟨And.right, fun before => ⟨fun same => not_in (same ▸ later), before⟩⟩
        rw [same]
        show DepositUnit.serving { o' with results := { o'.results with missing := o₁.results.missing + _ } } = _
        rw [one, Nat.add_assoc, Nat.add_comm 1]
      · rw [awaits g, fewer g, List.mem_cons, not_or]
        exact ⟨fun ⟨later, differs, before⟩ => ⟨⟨differs, later⟩, before⟩, fun ⟨⟨differs, later⟩, before⟩ => ⟨later, differs, before⟩⟩

/-- R129, R140: bound to a CLOSED entry that holds no slot, an order ends EMPTY, with every segment awaited counted missing. -/
theorem bind_of_closed_empty (place : s.placeOf o.tag = some p) (here : s.exposures[p] = some x) (closed : x.state = .closed) (held : x.held = 0)
    (none_ : ∀ (n : SlotNo) (sl : Slot), s.slots[n] = some sl → sl.tag ≠ o.tag) (fresh : o.results.missing = 0) (empty : o.made = false)
    (drained : o.draining = []) :
    ∃ v : State, s.bind o = ({ v with deposit := .idle } : State).retire o.record .empty
        ({ o.results with missing := (List.finRange 64).countP (s.awaits o) } : Results).toList
      ∧ Touches [.exposures, .mirror, .deposit] s v ∧ v.exposures = s.exposures.set p none := by
  have begins := bound_touches (s := s) o
  have exposures := bound_exposures place here
  obtain ⟨place₀, here₀, -⟩ := place_after_set (t := s.bound o) place here exposures rfl
  have none₀ : ∀ (n : SlotNo) (sl : Slot), (s.bound o).slots[n] = some sl → sl.tag ≠ o.tag := by
    rw [begins .slots (by decide)]
    exact none_
  have awaits₀ : (s.bound o).awaits o = s.awaits o := by
    funext g
    rw [Bool.eq_iff_iff, awaits_iff place₀ here₀, awaits_iff place here]
  obtain ⟨touches, place₁, ⟨y, here₁, held₁⟩, others, unit, awaits⟩ := foldl_bindSegment_missing (o := o) (s := s.bound o) (o' := { o with turn := 0, current := none })
    (List.finRange 64) (List.nodup_finRange 64) rfl rfl (by rw [show ({ o with turn := 0, current := none } : Assembly).results = o.results from rfl, fresh]; decide)
    place₀ here₀ none₀
  have bound := bind_eq place here
  rw [closed, decide_eq_true rfl] at bound
  generalize (List.finRange 64).foldl (State.bindSegment true o) (s.bound o) = u at touches place₁ here₁ others unit awaits bound
  let o₁ : Assembly := { o with turn := 0, current := none, results := { o.results with missing := (List.finRange 64).countP (s.awaits o) } }
  have serving : u.deposit = .serving o₁ := by
    rw [unit, awaits₀]
    show DepositUnit.serving { o with turn := 0, current := none, results := { o.results with missing := o.results.missing + _ } } = _
    rw [fresh, Nat.zero_add]
  have settled (g : SegNo) : u.awaits o₁ g = false := by
    rw [← Bool.not_eq_true]
    exact fun awaited => ((awaits g).mp awaited).1 (List.mem_finRange g)
  have nothing : u.choose = u := choose_of_none serving fun g awaited => absurd (awaited.symm.trans (settled g)) (by decide)
  have no_drain : u.drains o₁ = false := by
    unfold State.drains
    rw [show o₁.draining = [] from drained]
    rfl
  rw [nothing, endTest_of_settled serving settled no_drain, endAssembly_eq (o := o₁) place₁ here₁, status_eq, if_pos empty] at bound
  refine ⟨u.assembledEntry o.tag, bound, (begins.andThen touches : Touches [.exposures, .mirror, .deposit] _ _).andThen (assembledEntry_touches o.tag), ?_⟩
  rw [assembledEntry_exposures place₁ here₁, if_pos (held₁.trans held), others, exposures]
  exact vector_set_set _ _ _ _

/-! ### An order that is bound and goes on (R129, R134) -/

/-- R129: with every awaited segment's slot in order, or none to settle, binding leaves the unit SERVING and makes its choice. -/
theorem bind_of_good_slots (place : s.placeOf o.tag = some p) (here : s.exposures[p] = some x) (before : o.deadlinePassed = false)
    (closed : x.state = .closed → ∀ seg, s.awaits o seg = true → s.slotOf o.tag seg ≠ none)
    (good : ∀ (n : SlotNo) (sl : Slot) (e : SegEntry), s.slots[n] = some sl → sl.tag = o.tag → s.awaits o sl.seg = true → o.map[sl.seg] = some e →
      (sl.rowLen = e.rowLen ∧ sl.mapRows = e.rows) ∧ (sl.state = .complete → ∃ q ∈ sl.rows, sl.cursor ≤ q)) :
    s.bind o = (s.bound o).choose.endTest := by
  have begins := bound_touches (s := s) o
  have exposures := bound_exposures place here
  have slots : (s.bound o).slots = s.slots := begins .slots (by decide)
  obtain ⟨place₀, here₀, -⟩ := place_after_set (t := s.bound o) place here exposures rfl
  have awaits₀ (g : SegNo) : (s.bound o).awaits o g = s.awaits o g := by
    rw [Bool.eq_iff_iff, awaits_iff place₀ here₀, awaits_iff place here]
  have each (seg : SegNo) : State.bindSegment (decide (x.state = .closed)) o (s.bound o) seg = s.bound o := by
    cases awaited : (s.bound o).awaits o seg with
    | false => exact bindSegment_of_not_awaited awaited
    | true =>
      have awaited' := (awaits₀ seg).symm.trans awaited
      cases found : (s.bound o).slotOf o.tag seg with
      | none =>
        rw [bindSegment_of_no_slot awaited found, if_neg]
        rw [decide_eq_true_eq]
        intro was_closed
        exact closed was_closed seg awaited' ((slotOf_congr slots seg).symm.trans found)
      | some n =>
        refine bindSegment_of_good_slot (o' := { o with turn := 0, current := none }) rfl rfl rfl before awaited found fun sl e slot present => ?_
        obtain ⟨sl', slot', names, segs⟩ := slotOf_some found
        obtain rfl : sl = sl' := Option.some.inj (slot.symm.trans slot')
        subst segs
        exact good n sl e (by rw [← slots]; exact slot) names awaited' present
  rw [bind_eq place here, List.foldl_fixed' each]

end Sys2Proof.Machine
end

section
/-! The take-up of an ASSEMBLE (R92, R94, R95, R127, R128, R129; O20). -/

-- One theorem at a time: the threads of a parallel elaboration reserve more memory than the check allows.
set_option Elab.async false

namespace Sys2Proof.Machine

variable {s : State} {o : Assembly} {off fieldNo bankNo : Nat} {tag : Tag} {f : Fin 4} {fd : Field} {b : Fin 8} {bank : Bank} {m : FocalMap}

/-! ### The checks, in their order (R128) -/

section Checks

theorem checkAssemble_of_no_field (none_ : ∀ f : Fin 4, fieldNo = f.val → s.fields[f] = none) :
    s.checkAssemble off tag fieldNo bankNo = .error .badField := by
  unfold State.checkAssemble
  by_cases number : fieldNo < 4
  · rw [show idx? 4 fieldNo = some ⟨fieldNo, number⟩ from dif_pos number]
    dsimp only
    rw [none_ ⟨fieldNo, number⟩ rfl]
  · rw [idx?_of_ge (Nat.not_lt.mp number)]

variable (field : fieldNo = f.val) (defined : s.fields[f] = some fd)
include field defined

theorem checkAssemble_of_no_bank (none_ : ∀ b : Fin 8, bankNo = b.val → s.banks[b] = none) :
    s.checkAssemble off tag fieldNo bankNo = .error .badBank := by
  subst field
  unfold State.checkAssemble
  rw [idx?_val]
  dsimp only
  rw [defined]
  dsimp only
  by_cases number : bankNo < 8
  · rw [show idx? 8 bankNo = some ⟨bankNo, number⟩ from dif_pos number]
    dsimp only
    rw [none_ ⟨bankNo, number⟩ rfl]
  · rw [idx?_of_ge (Nat.not_lt.mp number)]

variable (bank_number : bankNo = b.val) (valid : s.banks[b] = some bank)
include bank_number valid

theorem checkAssemble_of_no_map (none_ : s.loader.inUse = none) : s.checkAssemble off tag fieldNo bankNo = .error .noMap := by
  subst field bank_number
  unfold State.checkAssemble
  rw [idx?_val, idx?_val]
  dsimp only
  rw [defined, valid, none_]

theorem checkAssemble_of_map (inUse : s.loader.inUse = some m) : s.checkAssemble off tag fieldNo bankNo
    = if !bank.fits m.entries then .error .bankGeometry
      else if !((readPointing s.mem off).fits && placementsFit (composeAll m.entries (readPointing s.mem off) fd)) then .error .placementRange
      else if s.isAssembled tag then .error .alreadyAssembled
      else .ok (newAssembly s.mem off tag f b fd m (composeAll m.entries (readPointing s.mem off) fd) s.timeBase) := by
  subst field bank_number
  unfold State.checkAssemble
  rw [idx?_val, idx?_val]
  dsimp only
  rw [defined, valid, inUse]

end Checks

/-! ### What the checks ask (R79, R94, R95) -/

theorem planeFits_iff {e : SegEntry} : planeFits off e = true ↔ 0x1000 ≤ off ∧ off + e.image * e.rows * 2 ≤ 0x3D8000000 := inGeneral_iff

theorem fitsSegment_iff {seg : SegNo} {e : SegEntry} : bank.fitsSegment seg e = true
    ↔ (bank.amps[seg].mode = .overscan → bank.amps[seg].skip + bank.amps[seg].n ≤ e.overscan)
      ∧ (bank.amps[seg].flat ≠ 0 → planeFits bank.amps[seg].flat e = true)
      ∧ (bank.amps[seg].mode = .plane → planeFits bank.amps[seg].bias e = true)
      ∧ ∀ d ∈ bank.defects, d.seg = seg.val → d.lastCol < e.image ∧ d.lastRow < e.rows := by
  unfold Bank.fitsSegment
  simp only [Bool.and_eq_true, Bool.or_eq_true, decide_eq_true_eq, List.all_eq_true, and_assoc, ← imp_iff_not_or, ne_eq,
    ← or_iff_not_imp_left]

theorem linearFits_iff {c : Int} : linearFits c = true ↔ c.natAbs < 2 ^ 31 := decide_eq_true_iff

theorem placement_fits_iff {p : Placement} : p.fits = true
    ↔ (p.A.natAbs < 2 ^ 31 ∧ p.B.natAbs < 2 ^ 31) ∧ p.Dc.natAbs < 2 ^ 31 ∧ p.E.natAbs < 2 ^ 31 := by
  simp only [Placement.fits, Bool.and_eq_true, linearFits_iff, and_assoc]

theorem pointing_fits_iff {p : Pointing} : p.fits = true ↔ p.pu.natAbs < 2 ^ 61 ∧ p.pv.natAbs < 2 ^ 61 := by
  rw [Pointing.fits, Bool.and_eq_true, decide_eq_true_eq, decide_eq_true_eq]
  norm_num

theorem bank_fits_iff {map : Vector (Option SegEntry) 64} :
    bank.fits map = true ↔ ∀ (seg : SegNo) (e : SegEntry), map[seg] = some e → bank.fitsSegment seg e = true := by
  unfold Bank.fits
  rw [List.all_eq_true]
  refine ⟨fun all seg e present => ?_, fun all seg _ => ?_⟩
  · have here := all seg (List.mem_finRange seg)
    rwa [present] at here
  · split
    · next e present => exact all seg e present
    · rfl

theorem placementsFit_iff {place : Vector (Option Placement) 64} :
    placementsFit place = true ↔ ∀ (seg : SegNo) (p : Placement), place[seg] = some p → p.fits = true := by
  unfold placementsFit
  rw [List.all_eq_true]
  refine ⟨fun all seg p present => ?_, fun all seg _ => ?_⟩
  · have here := all seg (List.mem_finRange seg)
    rwa [present] at here
  · split
    · next p present => exact all seg p present
    · rfl

theorem composeAll_getElem (map : Vector (Option SegEntry) 64) (p : Pointing) (fd : Field) (seg : SegNo) :
    (composeAll map p fd)[seg] = (map[seg]).map fun e => compose e p fd.ou fd.ov := vecOf_getElem _ _ _

theorem composed_fit_iff {map : Vector (Option SegEntry) 64} {p : Pointing} : placementsFit (composeAll map p fd) = true
    ↔ ∀ (seg : SegNo) (e : SegEntry), map[seg] = some e → (compose e p fd.ou fd.ov).fits = true := by
  rw [placementsFit_iff]
  refine forall_congr' fun seg => ?_
  rw [composeAll_getElem]
  cases map[seg] <;> simp

/-! ### The dispatch -/

/-- R128: the dispatch of an ASSEMBLE reads its record as it stood before the take-up. -/
theorem checkAssemble_taken : (s.taken []).checkAssemble s.walker.cursor tag fieldNo bankNo = s.checkAssemble s.walker.cursor tag fieldNo bankNo := by
  have pointing : readPointing (s.taken []).mem s.walker.cursor = readPointing s.mem s.walker.cursor := by
    unfold readPointing
    rw [taken_readInt 52 4, taken_readInt 56 4, taken_readInt 64 8, taken_readInt 72 8]
  have held (f : Fin 4) (b : Fin 8) (fd : Field) (m : FocalMap) (place : Vector (Option Placement) 64) :
      newAssembly (s.taken []).mem s.walker.cursor tag f b fd m place s.timeBase = newAssembly s.mem s.walker.cursor tag f b fd m place s.timeBase := by
    unfold newAssembly readDeadline
    rw [taken_readNat 44 1, taken_readNat 45 1, taken_readNat 48 4]
  unfold State.checkAssemble
  rw [pointing]
  simp only [show (s.taken []).timeBase = s.timeBase from rfl, held]
  rfl

theorem Presented.dispatch_assemble (h : Presented s 1) : (s.taken []).dispatch s.walker.cursor (readHead s.mem s.walker.cursor)
    = (s.taken []).takeAssemble s.walker.cursor (BitVec.ofNat 16 (Memory.readNat s.mem (s.walker.cursor + 40) 2))
        (Memory.readNat s.mem (s.walker.cursor + 42) 1) (Memory.readNat s.mem (s.walker.cursor + 43) 1) := by
  have field : (readHead s.mem s.walker.cursor).field = Memory.readNat s.mem (s.walker.cursor + 42) 1 := if_pos h.kind_eq
  have bank : (readHead s.mem s.walker.cursor).bank = Memory.readNat s.mem (s.walker.cursor + 43) 1 := if_pos h.kind_eq
  rw [Machine.dispatch_assemble rfl h.head_kind, field, bank]
  rfl

theorem takeAssemble_of_error {st : Status} (check : s.checkAssemble off tag fieldNo bankNo = .error st) :
    s.takeAssemble off tag fieldNo bankNo = s.retire off st [] := by
  unfold State.takeAssemble
  rw [check]

theorem takeAssemble_of_no_entry (check : s.checkAssemble off tag fieldNo bankNo = .ok o) (none_ : s.entryOf tag = none) :
    s.takeAssemble off tag fieldNo bankNo = { s with deposit := .waiting o } := by
  unfold State.takeAssemble
  rw [check]
  dsimp only
  rw [none_]

theorem takeAssemble_of_entry {x : ExpEntry} (check : s.checkAssemble off tag fieldNo bankNo = .ok o) (entry : s.entryOf tag = some x) :
    s.takeAssemble off tag fieldNo bankNo = s.bind o := by
  unfold State.takeAssemble
  rw [check]
  dsimp only
  rw [entry]

theorem entryOf_of_no_place (none_ : s.placeOf tag = none) : s.entryOf tag = none := by
  unfold State.entryOf
  rw [none_]

theorem isAssembled_of_no_entry (none_ : s.entryOf tag = none) : s.isAssembled tag = false := by
  unfold State.isAssembled
  rw [none_]

theorem isAssembled_of_entry {x : ExpEntry} (entry : s.entryOf tag = some x) : s.isAssembled tag = decide (x.state = .assembled) := by
  unfold State.isAssembled
  rw [entry]

end Sys2Proof.Machine
end

section
/-! An ASSEMBLE taken: held, bound, or ended at once (R127, R128, R129; O20). -/

-- One theorem at a time: the threads of a parallel elaboration reserve more memory than the check allows.
set_option Elab.async false

namespace Sys2Proof.Machine

variable {s : State} {o : Assembly} {p : Fin 4} {x : ExpEntry}

theorem choose_of_rowFollowing (serving : s.deposit = .serving o) (mode : o.tileComplete = false) : s.choose = s := by
  unfold State.choose State.chooseTile
  rw [serving]
  dsimp only
  rw [if_neg]
  rintro ⟨tile, -⟩
  exact nomatch mode.symm.trans tile

/-! ### The choice at binding (R129, R134) -/

/-- R129: binding chooses the current segment. -/
def ChosenAt (s : State) (o : Assembly) (current : Option SegNo) : Prop :=
  (current = none ↔ o.tileComplete = false ∨ ∀ seg, ¬ s.tileAt o seg) ∧ ∀ seg, current = some seg → s.tileAt o seg ∧ ∀ g < seg, ¬ s.tileAt o g

/-- R129, R134: with no current segment, a choice serves the lowest tile that is COMPLETE, if its slot has a row ready, or none. -/
theorem choose_chosenAt (serving : s.deposit = .serving o) (fresh : o.current = none)
    (ready : ∀ (g : SegNo) (n : SlotNo) (sl : Slot), s.tileAt o g → s.slotIn o.tag g [.complete] = some n → s.slots[n] = some sl →
      sl.rowReady.isSome = true) :
    ∃ current, s.choose = s.withUnit (.serving { o with current := current }) ∧ ChosenAt s o current := by
  have same : s.withUnit (.serving { o with current := none }) = s := by
    rw [show ({ o with current := none } : Assembly) = o by rw [← fresh]]
    exact deposit_eta serving
  by_cases waits : o.tileComplete = false ∨ ∀ seg, ¬ s.tileAt o seg
  · refine ⟨none, ?_, ⟨fun _ => waits, fun _ => rfl⟩, nofun⟩
    rw [same]
    rcases waits with following | no_tile
    · exact choose_of_rowFollowing serving following
    · exact choose_of_none serving fun seg awaited => of_not_not fun found => no_tile seg ⟨awaited, found⟩
  · obtain ⟨mode, some_tile⟩ := not_or.mp waits
    obtain ⟨seg, tile, lower⟩ := WellFounded.has_min (wellFounded_lt (α := SegNo)) {g | s.tileAt o g} (not_forall_not.mp some_tile)
    have lower' (g : SegNo) (below : g < seg) : ¬ s.tileAt o g := fun earlier => lower g earlier below
    obtain ⟨n, found⟩ := Option.ne_none_iff_exists'.mp tile.2
    obtain ⟨sl, slot, -⟩ := State.slotIn_some found
    obtain ⟨r, row⟩ := Option.isSome_iff_exists.mp (ready seg n sl tile found slot)
    refine ⟨some seg, choose_of_lowest serving (Bool.not_eq_false _ ▸ mode) fresh tile lower' found slot row, ⟨nofun, fun h => absurd h waits⟩, ?_⟩
    rintro g ⟨⟩
    exact ⟨tile, lower'⟩

/-! ### Bound at its take-up (R129, R140) -/

section Bound
variable (h : Presented s 1) (event : (s.taken []).dispatch s.walker.cursor (readHead s.mem s.walker.cursor) = (s.taken []).bind o)
  (place : s.placeOf o.tag = some p) (here : s.exposures[p] = some x)
include h event place here

/-- R129: the slots of its segments in order, the order taken is SERVING. -/
theorem taken_serves (turn : o.turn = 0) (current : o.current = none) (before : o.deadlinePassed = false) (any : ∃ seg, s.awaits o seg = true)
    (slots_of_closed : x.state = .closed → ∀ seg, s.awaits o seg = true → s.slotOf o.tag seg ≠ none)
    (good : ∀ (n : SlotNo) (sl : Slot) (e : SegEntry), s.slots[n] = some sl → sl.tag = o.tag → s.awaits o sl.seg = true → o.map[sl.seg] = some e →
      (sl.rowLen = e.rowLen ∧ sl.mapRows = e.rows) ∧ (sl.state = .complete → ∃ q ∈ sl.rows, sl.cursor ≤ q)) :
    ∃ t current, s.TakesInto t [.deposit, .exposures] ∧ t.deposit = .serving { o with current := current }
      ∧ t.exposures = s.exposures.set p (some { x with state := .assembling }) ∧ ChosenAt s o current := by
  have bound := bind_of_good_slots (s := s.taken []) (o := o) place here before slots_of_closed good
  let u := (s.taken []).bound o
  have begins : Touches [.exposures, .mirror, .deposit] (s.taken []) u := bound_touches o
  have exposures : u.exposures = s.exposures.set p (some { x with state := .assembling }) := bound_exposures (s := s.taken []) place here
  obtain ⟨place', here', -⟩ := place_after_set (s := s) (t := u) place here exposures rfl
  have awaits_u (g : SegNo) : u.awaits o g = true ↔ s.awaits o g = true := by
    rw [awaits_iff place' here', awaits_iff place here]
  have slots : u.slots = s.slots := begins .slots (by decide)
  have tile_u (g : SegNo) : u.tileAt o g ↔ s.tileAt o g := and_congr (awaits_u g) (by rw [slotIn_congr slots])
  have serving : u.deposit = .serving o := by
    show DepositUnit.serving { o with turn := 0, current := none } = .serving o
    rw [← turn, ← current]
  obtain ⟨current, chose, chosen⟩ := choose_chosenAt serving current fun g n sl is_tile found slot => by
    obtain ⟨sl', slot', names, segs, complete⟩ := State.slotIn_some found
    obtain rfl : sl = sl' := Option.some.inj (slot.symm.trans slot')
    subst segs
    have awaits_sl := (awaits_u _).mp is_tile.1
    obtain ⟨e, present⟩ := Option.isSome_iff_exists.mp ((awaits_iff place here).mp awaits_sl).1
    rw [slots] at slot
    exact rowReady_isSome_iff.mpr ((good n sl e slot names awaits_sl present).2 (List.mem_singleton.mp complete))
  let v : State := u.withUnit (.serving { o with current := current })
  have goes_on : v.endTest = v := endTest_of_goes_on (s := v) (o := { o with current := current }) rfl
    (.inl (any.imp fun g awaits_g => (awaits_u g).mpr awaits_g))
  have frame : Touches [.exposures, .mirror, .deposit] (s.taken []) v := begins.andThen (touches_deposit u _)
  obtain ⟨t, ⟨step, kept, rest⟩, touches, -⟩ := takesInto h (ps := [.exposures, .mirror, .deposit]) (event.trans (bound.trans (by rw [chose, goes_on])))
    frame.mono (.of_past (frame .past (by decide))) (fun _ => rfl) (fun busy => by
      rw [State.serviceBusy, frame .service (by decide)]
      exact busy)
  refine ⟨t, current, ⟨step, kept.mono, rest⟩, touches .deposit (by decide), (touches .exposures (by decide)).trans exposures, ?_⟩
  unfold ChosenAt at chosen ⊢
  simpa only [tile_u] using chosen

/-- R129, R140: bound to a CLOSED entry that holds no slot, the order taken ends at once. -/
theorem taken_ends_empty (closed : x.state = .closed) (held : x.held = 0) (none_ : ∀ (n : SlotNo) (sl : Slot), s.slots[n] = some sl → sl.tag ≠ o.tag)
    (record : o.record = s.walker.cursor) (fresh : o.results.missing = 0) (empty : o.made = false) (drained : o.draining = []) :
    ∃ t, s.TakesAndRetires t .empty ({ o.results with missing := (List.finRange 64).countP (s.awaits o) } : Results).toList [.exposures]
      ∧ t.exposures = s.exposures.set p none := by
  obtain ⟨v, bound, frame, exposures⟩ := bind_of_closed_empty (s := s.taken []) (o := o) place here closed held none_ fresh empty drained
  rw [record] at bound
  have stays : Touches [.mirror, .exposures] (s.taken []) { v with deposit := .idle } := fun q untouched => by
    by_cases unit : q = .deposit
    · subst unit
      exact h.deposit_idle.symm
    · refine (frame.andThen (touches_deposit v .idle) : Touches [.exposures, .mirror, .deposit] _ _) q ?_
      simp only [List.mem_cons, List.not_mem_nil, or_false, not_or] at untouched ⊢
      exact ⟨untouched.2, untouched.1, unit⟩
  obtain ⟨t, takes, touches, -⟩ := takesAndRetires h (ps := [.exposures]) (event.trans bound) stays
    (fun busy => by
      rw [State.depositBusy, State.assembly, h.deposit_idle] at busy
      exact nomatch busy)
    (fun busy => by
      rw [State.serviceBusy, stays .service (by decide)]
      exact busy)
  exact ⟨t, takes, (touches .exposures (by decide)).trans exposures⟩

end Bound

/-! ### What the order holds -/

theorem compose_eq (e : SegEntry) (q : Pointing) (ou ov : Int) : compose e q ou ov
    = { A := roundDiv (q.cp * e.a - q.sp * e.c) (2 ^ 30), B := roundDiv (q.cp * e.b - q.sp * e.d) (2 ^ 30),
        Dc := roundDiv (q.sp * e.a + q.cp * e.c) (2 ^ 30), E := roundDiv (q.sp * e.b + q.cp * e.d) (2 ^ 30),
        Cu := roundDiv (q.cp * e.e - q.sp * e.f) (2 ^ 30) + q.pu - ou * 2 ^ 30,
        Cv := roundDiv (q.sp * e.e + q.cp * e.f) (2 ^ 30) + q.pv - ov * 2 ^ 30 } := by
  norm_num [compose, one30]

theorem bank_fits_iff_geometry {bank : Bank} {map : Vector (Option SegEntry) 64} : bank.fits map = true
    ↔ ∀ (seg : SegNo) (e : SegEntry), map[seg] = some e →
      (bank.amps[seg].mode = .overscan → bank.amps[seg].skip + bank.amps[seg].n ≤ e.overscan)
        ∧ (bank.amps[seg].flat ≠ 0 → 0x1000 ≤ bank.amps[seg].flat ∧ bank.amps[seg].flat + e.image * e.rows * 2 ≤ 0x3D8000000)
        ∧ (bank.amps[seg].mode = .plane → 0x1000 ≤ bank.amps[seg].bias ∧ bank.amps[seg].bias + e.image * e.rows * 2 ≤ 0x3D8000000)
        ∧ ∀ d ∈ bank.defects, d.seg = seg.val → d.lastCol < e.image ∧ d.lastRow < e.rows := by
  simp only [bank_fits_iff, fitsSegment_iff, planeFits_iff]

theorem composed_range_iff {map : Vector (Option SegEntry) 64} {q : Pointing} {fd : Field} :
    (q.fits && placementsFit (composeAll map q fd)) = true
    ↔ (q.pu.natAbs < 2 ^ 61 ∧ q.pv.natAbs < 2 ^ 61) ∧ ∀ (seg : SegNo) (e : SegEntry), map[seg] = some e →
      ((compose e q fd.ou fd.ov).A.natAbs < 2 ^ 31 ∧ (compose e q fd.ou fd.ov).B.natAbs < 2 ^ 31)
        ∧ (compose e q fd.ou fd.ov).Dc.natAbs < 2 ^ 31 ∧ (compose e q fd.ou fd.ov).E.natAbs < 2 ^ 31 := by
  rw [Bool.and_eq_true, pointing_fits_iff, composed_fit_iff]
  simp only [placement_fits_iff]

/-- Results not listed are 0 in the record. -/
theorem takesAndRetires_congr {t : State} {st : Status} {rs rs' : List Nat} {ps : List Part} (same : ∀ i < 11, rs.getD i 0 = rs'.getD i 0)
    (h : s.TakesAndRetires t st rs ps) : s.TakesAndRetires t st rs' ps := by
  obtain ⟨step, kept, past, ⟨word, code, at_, slots⟩, rest⟩ := h
  exact ⟨step, kept, past, ⟨word, code, at_, fun i hi => (slots i hi).trans (by rw [same i hi])⟩, rest⟩

/-- Settles O20. -/
theorem assembleTakeUp : Obligations.AssembleTakeUp := by
  intro s presents c tag weight deadline cp sp pu pv
  have h := presents.presented
  have dispatched := h.dispatch_assemble
  have check_taken := checkAssemble_taken (s := s) (tag := tag) (fieldNo := Memory.readNat s.mem (c + 42) 1)
    (bankNo := Memory.readNat s.mem (c + 43) 1)
  have fails {st : Status} (check : s.checkAssemble c tag (Memory.readNat s.mem (c + 42) 1) (Memory.readNat s.mem (c + 43) 1) = .error st) :
      s.FailsTakeUp st := failsTakeUp h (dispatched.trans (takeAssemble_of_error (check_taken.trans check)))
  refine ⟨fun no_field => fails (checkAssemble_of_no_field no_field), fun f fd field defined =>
    ⟨fun no_bank => fails (checkAssemble_of_no_bank field defined no_bank), fun b bank number valid =>
    ⟨fun no_map => fails (checkAssemble_of_no_map field defined number valid no_map), fun m inUse => ?_⟩⟩⟩
  intro placed inGeneralRegion geometry range holds
  have checks := checkAssemble_of_map (off := c) (tag := tag) field defined number valid inUse
  let q : Pointing := readPointing s.mem c
  let o : Assembly := newAssembly s.mem c tag f b fd m (composeAll m.entries q fd) s.timeBase
  have composed (e : SegEntry) : compose e q fd.ou fd.ov = placed e :=
    (compose_eq e q fd.ou fd.ov).trans (by dsimp only [placed, q, readPointing, cp, sp, pu, pv, c])
  have fits : bank.fits m.entries = true ↔ geometry := bank_fits_iff_geometry
  have in_range : (q.fits && placementsFit (composeAll m.entries q fd)) = true ↔ range := by
    rw [composed_range_iff]
    simp only [composed]
    dsimp only [range, q, readPointing, pu, pv, c]
    exact Iff.rfl
  have past_geometry (geo : geometry) : ¬ (!bank.fits m.entries) = true := by
    rw [fits.mpr geo]
    decide
  have past_range (rng : range) : ¬ (!(q.fits && placementsFit (composeAll m.entries q fd))) = true := by
    rw [in_range.mpr rng]
    decide
  have held (current : Option SegNo) : holds { o with current := current } current := by
    refine ⟨fun seg => (composeAll_getElem _ _ _ seg).trans ?_, rfl⟩
    simp only [composed]
  have passes (geo : geometry) (rng : range) (fresh : s.isAssembled tag = false) :
      (s.taken []).checkAssemble c tag (Memory.readNat s.mem (c + 42) 1) (Memory.readNat s.mem (c + 43) 1) = .ok o := by
    rw [check_taken, checks, if_neg (past_geometry geo), if_neg (past_range rng), if_neg (by rw [fresh]; decide)]
  refine ⟨fun misfit => fails ?_, fun geo out_of_range => fails ?_, fun geo rng absent => ?_, fun p x geo rng place here => ?_⟩
  · rw [checks, if_pos]
    rw [Bool.not_eq_true', ← Bool.not_eq_true, fits]
    exact misfit
  · rw [checks, if_neg (past_geometry geo), if_pos]
    rw [Bool.not_eq_true', ← Bool.not_eq_true, in_range]
    exact out_of_range
  · have no_entry := entryOf_of_no_place absent
    have event := dispatched.trans (takeAssemble_of_no_entry (passes geo rng (isAssembled_of_no_entry no_entry)) no_entry)
    obtain ⟨t, takes, touches, -⟩ := takesInto h (ps := [.deposit]) event ((touches_deposit (s.taken []) _).mono) (.of_past rfl)
      (fun _ => rfl) (fun busy => busy)
    exact ⟨t, o, takes, held none, touches .deposit (by decide)⟩
  intro awaited tile
  have entry := entryOf_of_place place here
  have assembled := isAssembled_of_entry entry
  have awaits_o (seg : SegNo) : s.awaits o seg = true ↔ awaited seg := awaits_iff place here
  have tile_o (seg : SegNo) : s.tileAt o seg ↔ tile seg := and_congr_left fun _ => awaits_o seg
  have binds (unassembled : x.state ≠ .assembled) : (s.taken []).dispatch c (readHead s.mem c) = (s.taken []).bind o :=
    dispatched.trans (takeAssemble_of_entry (passes geo rng (by rw [assembled]; exact decide_eq_false unassembled)) entry)
  refine ⟨fun is_assembled => fails ?_, fun bindable ⟨seg, awaits_seg⟩ slots_of_closed good => ?_, fun closed empty no_slots => ?_⟩
  · rw [checks, if_neg (past_geometry geo), if_neg (past_range rng), if_pos]
    rw [assembled, is_assembled]
    rfl
  · obtain ⟨t, current, takes, serving, exposures, unchosen, lowest⟩ := taken_serves (o := o) h
      (binds fun is_assembled => by rcases bindable with h | h <;> exact nomatch is_assembled.symm.trans h) place here rfl rfl rfl
      ⟨seg, (awaits_o seg).mpr awaits_seg⟩ (fun closed g awaits_g => slots_of_closed closed g ((awaits_o g).mp awaits_g))
      (fun n sl e slot names awaits_sl => good n sl e slot names ((awaits_o _).mp awaits_sl))
    refine ⟨t, { o with current := current }, current, takes, held current, serving, exposures, ?_, fun g is_current => ?_⟩
    · rw [unchosen, show o.tileComplete = false ↔ Memory.readNat s.mem (c + 44) 1 ≠ 1 from decide_eq_false_iff_not]
      simp only [tile_o]
    · simpa only [tile_o] using lowest g is_current
  · obtain ⟨t, takes, exposures⟩ := taken_ends_empty (o := o) h (binds fun is_assembled => nomatch is_assembled.symm.trans closed) place here closed
      empty no_slots rfl rfl rfl rfl
    have missing : (List.finRange 64).countP (s.awaits o)
        = (List.finRange 64).countP fun seg => (m.entries[seg]).isSome && decide (x.outcomes[seg] = .unsettled) :=
      List.countP_congr fun g _ => by
        rw [Bool.and_eq_true, decide_eq_true_eq]
        exact awaits_o g
    rw [missing] at takes
    refine ⟨t, takesAndRetires_congr (fun i small => ?_) takes, exposures⟩
    interval_cases i <;> rfl

end Sys2Proof.Machine
end

section
/-! The end of a merged burst and of a burst (R17, R18, R20 to R22, R24, R25; towards O23 and O24). -/

-- One theorem at a time: the threads of a parallel elaboration reserve more memory than the check allows.
set_option Elab.async false

namespace Sys2Proof.Machine

variable {s t : State} {l : LinkNo} {n : LaneNo} {k : Link} {tag : Tag} {b : Bool} {cs : Vector Nat 14} {c : LinkCounter}

/-! ### Counters that gain under a condition (R26) -/

/-- The counters after one of them has gained, if it does. -/
def gainIf (b : Bool) (c : LinkCounter) (n : Nat) (cs : Vector Nat 14) : Vector Nat 14 := if b then cs.set c.idx (satAdd cs[c.idx] n) else cs

theorem gainIf_same (n : Nat) : (gainIf b c n cs)[c.idx] = if b = true then min (cs[c.idx] + n) 4294967295 else cs[c.idx] := by
  unfold gainIf
  cases b with
  | false => rfl
  | true => simp [satAdd, Config.counterMax]

theorem gainIf_other {i : Fin 14} (n : Nat) (other : i ≠ c.idx) : (gainIf b c n cs)[i] = cs[i] := by
  unfold gainIf
  cases b with
  | false => rfl
  | true => simp [Fin.val_inj, other.symm]

theorem countIf_links (h : t.links = s.links.set l { k with counters := cs }) (b : Bool) (c : LinkCounter) (n : Nat) :
    (if b = true then t.count l c n else t).links = s.links.set l { k with counters := gainIf b c n cs } := by
  cases b with
  | false => exact h
  | true =>
    rw [if_pos rfl, count_links, link_of_set h, h]
    exact Vector.set_set ..

/-! ### The merged burst ends (R18, R20, R22, R24) -/

/-- R20, R22, R24: the counters once the merged burst has ended. -/
def Link.endCounters (k : Link) : Vector Nat 14 :=
  gainIf k.missesEndMark .missingEndMarks 1 (gainIf k.parser.midPacket .truncated 1 (gainIf (decide (0 < k.heldCount)) .excess k.heldCount k.counters))

/-- R18, R20 to R22, R24: the link once the merged burst has ended. -/
def Link.mergeEnded (k : Link) : Link :=
  { k with
    counters := k.endCounters
    mergeOpen := false
    lanes := vecOf fun n => k.lanes[n].afterMerge
    parser := { Parser.start with discarding := k.parser.discarding } }

theorem endMerge_links : (s.endMerge l).links = s.links.set l s.links[l].mergeEnded := by
  have start : s.links = s.links.set l { s.links[l] with counters := s.links[l].counters } := links_eq_set
  have excess := countIf_links start (decide (0 < s.links[l].heldCount)) .excess s.links[l].heldCount
  have truncated := countIf_links excess s.links[l].parser.midPacket .truncated 1
  have missing := countIf_links truncated s.links[l].missesEndMark .missingEndMarks 1
  unfold State.endMerge
  simp only [decide_eq_true_eq] at missing
  exact mapLink_links_of_set missing _

theorem mergeEnded_lane (k : Link) (m : LaneNo) : k.mergeEnded.lanes[m] = k.lanes[m].afterMerge := vecOf_getElem _ _ _

theorem mergeEnded_excess (k : Link) : k.mergeEnded.counters[LinkCounter.excess.idx]
    = if 0 < k.heldCount then min (k.counters[LinkCounter.excess.idx] + k.heldCount) 4294967295 else k.counters[LinkCounter.excess.idx] := by
  show k.endCounters[LinkCounter.excess.idx] = _
  rw [Link.endCounters, gainIf_other _ (by decide), gainIf_other _ (by decide), gainIf_same]
  simp only [decide_eq_true_eq]

theorem mergeEnded_truncated (k : Link) : k.mergeEnded.counters[LinkCounter.truncated.idx]
    = if k.parser.midPacket = true then min (k.counters[LinkCounter.truncated.idx] + 1) 4294967295 else k.counters[LinkCounter.truncated.idx] := by
  show k.endCounters[LinkCounter.truncated.idx] = _
  rw [Link.endCounters, gainIf_other _ (by decide), gainIf_same, gainIf_other _ (by decide)]

theorem mergeEnded_missing (k : Link) : k.mergeEnded.counters[LinkCounter.missingEndMarks.idx]
    = if k.missesEndMark = true then min (k.counters[LinkCounter.missingEndMarks.idx] + 1) 4294967295
      else k.counters[LinkCounter.missingEndMarks.idx] := by
  show k.endCounters[LinkCounter.missingEndMarks.idx] = _
  rw [Link.endCounters, gainIf_same, gainIf_other _ (by decide), gainIf_other _ (by decide)]

theorem mergeEnded_other (k : Link) {i : Fin 14} (excess : i ≠ LinkCounter.excess.idx) (truncated : i ≠ LinkCounter.truncated.idx)
    (missing : i ≠ LinkCounter.missingEndMarks.idx) : k.mergeEnded.counters[i] = k.counters[i] := by
  show k.endCounters[i] = _
  rw [Link.endCounters, gainIf_other _ missing, gainIf_other _ truncated, gainIf_other _ excess]

theorem midPacket_iff {p : Parser} : p.midPacket = true ↔ p.discarding = false ∧ (p.hdr ≠ [] ∨ p.cur ≠ none) := by
  simp [Parser.midPacket, Option.isSome_iff_ne_none]

section Settings
variable {st : LinkSettings} (settings : k.settings = some st)
include settings

theorem missesEndMark_iff : k.missesEndMark = true ↔ st.burstEnd = true ∧ (k.endMark = false ∨ k.parser.discarding = true) := by
  unfold Link.missesEndMark
  rw [settings]
  simp

theorem inUse_of_lanes (m : LaneNo) : k.inUse m = decide (m.val < st.lanes) := by
  unfold Link.inUse
  rw [settings]

theorem mem_lanesInUse {m : LaneNo} : m ∈ k.lanesInUse ↔ m.val < st.lanes := by
  unfold Link.lanesInUse
  rw [List.mem_filter, inUse_of_lanes settings, decide_eq_true_eq]
  exact and_iff_right (List.mem_finRange m)

theorem heldCount_eq : k.heldCount = ((List.finRange 4).map fun m => if m.val < st.lanes then k.lanes[m].held.length else 0).sum := by
  have sums (ms : List LaneNo) : ((ms.filter k.inUse).map fun m => k.lanes[m].held.length).sum
      = (ms.map fun m => if m.val < st.lanes then k.lanes[m].held.length else 0).sum := by
    induction ms with
    | nil => rfl
    | cons m ms ih =>
      rw [List.filter_cons, inUse_of_lanes settings, List.map_cons, List.sum_cons]
      by_cases used : m.val < st.lanes
      · rw [if_pos (decide_eq_true used), if_pos used, List.map_cons, List.sum_cons, ih]
      · rw [if_neg (by rw [decide_eq_true_eq]; exact used), if_neg used, Nat.zero_add, ih]
  exact sums _

end Settings

/-- R18: the merge has come to its end: nothing held in the lane whose turn it is, and nothing to come in it. -/
theorem merge_of_exhausted (link : s.links[l] = k) (mergeOpen : k.mergeOpen = true) (nothing : k.lanes[k.turn].held = [])
    (exhausted : k.turnExhausted = true) : s.merge l = s.endMerge l := by
  subst link
  unfold State.merge State.mergeLoop
  dsimp only
  rw [if_pos mergeOpen, nothing]
  dsimp only
  rw [if_pos exhausted]

/-! ### The burst closes (R21, R25) -/

/-- R21: every lane in use has ended. -/
def Link.allEnded (k : Link) : Bool := k.lanesInUse.all fun n => decide (k.lanes[n].phase = .ended)

theorem allEnded_iff {st : LinkSettings} (settings : k.settings = some st) :
    k.allEnded = true ↔ ∀ m : LaneNo, m.val < st.lanes → k.lanes[m].phase = .ended := by
  simp only [Link.allEnded, List.all_eq_true, mem_lanesInUse settings, decide_eq_true_eq]

/-- R21, R25: the link after the check for the end of its burst, `st` the settings drawn for it. -/
def Link.afterBurst (k : Link) (st : Option LinkSettings) : Link :=
  if k.allEnded = true then if k.replaced = true then k.resettled st else { k with phase := .idle } else k

theorem closeCheck_of_open (stays : s.links[l].allEnded = false) : s.closeCheck l = s := by
  unfold State.closeCheck
  exact if_neg fun both => absurd (both.2.symm.trans stays) (by decide)

theorem closeCheck_of_ended (burst : s.links[l].phase = .burst) (all : s.links[l].allEnded = true) :
    s.closeCheck l = if s.links[l].replaced then s.takeSettings l else s.mapLink l fun k => { k with phase := .idle } := by
  unfold State.closeCheck
  exact if_pos ⟨burst, all⟩

theorem closeCheck_links (burst : s.links[l].phase = .burst) :
    (s.closeCheck l).links = s.links.set l (s.links[l].afterBurst (drawSettings s.loader.inUse l)) := by
  unfold Link.afterBurst
  cases all : s.links[l].allEnded with
  | false =>
    rw [closeCheck_of_open all]
    exact links_eq_set
  | true =>
    rw [closeCheck_of_ended burst all, if_pos rfl]
    by_cases replaced : s.links[l].replaced = true
    · rw [if_pos replaced, if_pos replaced]
      exact takeSettings_links
    · rw [if_neg replaced, if_neg replaced]
      rfl

theorem closeCheck_touches_of_not_serving (idle : s.links[l].replaced = false ∨ ∀ o, s.deposit ≠ .serving o) :
    Touches [.links, .exposures, .slots, .mirror] s (s.closeCheck l) := by
  unfold State.closeCheck
  dsimp only
  split
  · split
    · next replaced => exact takeSettings_touches_of_not_serving (idle.resolve_left (by rw [replaced]; decide))
    · exact (mapLink_touches s l _).mono
  · exact Touches.refl _ s

/-- R25: with no exposure to close, a link that goes OFF changes itself alone. -/
theorem takeSettings_touches_link (nothing : drawSettings s.loader.inUse l ≠ none ∨ s.links[l].current = none) :
    Touches [.links] s (s.takeSettings l) := by
  unfold State.takeSettings
  split
  · exact mapLink_touches s l _
  · next none_ =>
    unfold State.enterOff
    rw [nothing.resolve_left (not_not.mpr none_)]
    exact mapLink_touches s l _

theorem closeCheck_touches_link
    (nothing : (s.links[l].allEnded = true → s.links[l].replaced = true → drawSettings s.loader.inUse l ≠ none) ∨ s.links[l].current = none) :
    Touches [.links] s (s.closeCheck l) := by
  unfold State.closeCheck
  dsimp only
  split
  · next both =>
    split
    · next replaced => exact takeSettings_touches_link (nothing.imp (fun draws => draws both.2 replaced) id)
    · exact mapLink_touches s l _
  · exact Touches.refl _ s

/-! ### A close depends on the table and the pool alone (R53) -/

/-- The exposure table and the tile pool of two states are the same. -/
structure SameTables (s t : State) : Prop where
  exposures : t.exposures = s.exposures
  slots : t.slots = s.slots

theorem SameTables.of_touches {ps : List Part} (h : Touches ps s t) (exposures : Part.exposures ∉ ps := by decide) (slots : Part.slots ∉ ps := by decide) :
    SameTables s t := ⟨h .exposures exposures, h .slots slots⟩

section SameTables
variable (h : SameTables s t)
include h

theorem SameTables.placeOf (tag : Tag) : t.placeOf tag = s.placeOf tag := by
  unfold State.placeOf
  rw [h.exposures]

theorem SameTables.setPlace (p : Fin 4) (new : Option ExpEntry) : SameTables (s.setPlace p new) (t.setPlace p new) where
  exposures := by rw [setPlace_exposures, setPlace_exposures, h.exposures]
  slots := by rw [setPlace_touches t p new .slots (by decide), setPlace_touches s p new .slots (by decide), h.slots]

theorem SameTables.mapEntry (tag : Tag) (f : ExpEntry → ExpEntry) : SameTables (s.mapEntry tag f) (t.mapEntry tag f) := by
  unfold State.mapEntry
  rw [h.placeOf, h.exposures]
  split
  · split
    · exact h.setPlace _ _
    · exact h
  · exact h

theorem SameTables.removalCheck (tag : Tag) : SameTables (s.removalCheck tag) (t.removalCheck tag) := by
  unfold State.removalCheck
  rw [h.placeOf, h.exposures]
  split
  · split
    · split
      · exact h.setPlace _ _
      · exact h
    · exact h
  · exact h

theorem SameTables.setSlot (n : SlotNo) (new : Option Slot) : SameTables (s.setSlot n new) (t.setSlot n new) where
  exposures := by rw [setSlot_touches t n new .exposures (by decide), setSlot_touches s n new .exposures (by decide), h.exposures]
  slots := by rw [setSlot_slots, setSlot_slots, h.slots]

theorem SameTables.freeSlotAs (why : FreeReason) (n : SlotNo) : SameTables (s.freeSlotAs why n) (t.freeSlotAs why n) := by
  unfold State.freeSlotAs
  rw [h.slots]
  split
  · exact h
  · next sl here =>
    have queued : SameTables (s.queueMirror (reportOff sl.seg) (reportBytes why sl)) (t.queueMirror (reportOff sl.seg) (reportBytes why sl)) :=
      ⟨h.exposures, h.slots⟩
    exact ((queued.setSlot n none).mapEntry sl.tag _).removalCheck sl.tag

theorem SameTables.closeSlot (l : LinkNo) (tag : Tag) (n : SlotNo) : SameTables (State.closeSlot l tag s n) (State.closeSlot l tag t n) := by
  unfold State.closeSlot
  rw [h.slots]
  split
  · split
    · split
      · exact h.setSlot _ _
      · exact h
      · exact h.freeSlotAs _ _
    · exact h
  · exact h

theorem SameTables.closeSlots (l : LinkNo) (tag : Tag) (ns : List SlotNo) :
    SameTables (ns.foldl (State.closeSlot l tag) s) (ns.foldl (State.closeSlot l tag) t) := by
  induction ns generalizing s t with
  | nil => exact h
  | cons n ns ih => exact ih (h.closeSlot l tag n)

theorem SameTables.closeFor (l : LinkNo) (tag : Tag) (before : ∀ o, s.deposit ≠ .serving o) (after : ∀ o, t.deposit ≠ .serving o) :
    SameTables (s.closeFor l tag) (t.closeFor l tag) := by
  have named (u : State) (c r : Option Tag) : SameTables u (u.setNames l c r) := .of_touches (setNames_touches u l c r)
  have through {u v : State} (same : SameTables u v) (c r c' r' : Option Tag) : SameTables (u.setNames l c r) (v.setNames l c' r') :=
    ⟨(named v c' r').exposures.trans (same.exposures.trans (named u c r).exposures.symm),
      (named v c' r').slots.trans (same.slots.trans (named u c r).slots.symm)⟩
  rw [closeFor_of_not_serving before, closeFor_of_not_serving after, entryOf_congr h.exposures]
  split
  · exact through ((h.closeSlots l tag _).mapEntry tag _) _ _ _ _
  · exact through h _ _ _ _

end SameTables

end Sys2Proof.Machine
end

section
/-! The end mark that ends the merged burst (R16, R18, R21, R25; O23). -/

-- One theorem at a time: the threads of a parallel elaboration reserve more memory than the check allows.
set_option Elab.async false

namespace Sys2Proof.Machine

variable {s : State} {l : LinkNo} {n : LaneNo} {k : Link} {st : LinkSettings}

/-- R16: the link with one lane ended. -/
def Link.laneEnded (k : Link) (n : LaneNo) : Link := k.setLane n { k.lanes[n] with phase := .ended, restarted := false }

theorem setLane_getElem (k : Link) (n m : LaneNo) (x : Lane) : (k.setLane n x).lanes[m] = if m = n then x else k.lanes[m] := by
  show (k.lanes.set n x)[m.val] = _
  rw [Vector.getElem_set]
  simp only [Fin.val_inj, eq_comm (a := n), Fin.getElem_fin]

theorem laneEnded_held (k : Link) (n m : LaneNo) : (k.laneEnded n).lanes[m].held = k.lanes[m].held := by
  unfold Link.laneEnded
  rw [setLane_getElem]
  split
  · next same => rw [same]
  · rfl

theorem laneEnded_phase (k : Link) (n m : LaneNo) : (k.laneEnded n).lanes[m].phase = if m = n then .ended else k.lanes[m].phase := by
  unfold Link.laneEnded
  rw [setLane_getElem]
  split <;> rfl

/-- R16, R18: the link once the end mark of the lane at the turn has ended the merged burst. -/
abbrev Link.ending (k : Link) (n : LaneNo) : Link := (k.laneEnded n).mergeEnded

theorem ending_lane_n (k : Link) (n : LaneNo) : (k.ending n).lanes[n].phase = .ended := by
  rw [mergeEnded_lane]
  show (if (k.laneEnded n).lanes[n].phase = .waiting then LanePhase.ended else (k.laneEnded n).lanes[n].phase) = _
  rw [laneEnded_phase, if_pos rfl]
  rfl

theorem ending_lane_other (k : Link) {m : LaneNo} (other : m ≠ n) :
    (k.ending n).lanes[m].phase = if k.lanes[m].phase = .waiting then .ended else k.lanes[m].phase := by
  rw [mergeEnded_lane]
  show (if (k.laneEnded n).lanes[m].phase = .waiting then LanePhase.ended else (k.laneEnded n).lanes[m].phase) = _
  rw [laneEnded_phase, if_neg other]

theorem ending_held (k : Link) (m : LaneNo) : (k.ending n).lanes[m].held = [] := by
  rw [mergeEnded_lane]
  rfl

/-- R21: the burst closes when no other lane in use is open. -/
theorem ending_allEnded_iff (settings : k.settings = some st) :
    (k.ending n).allEnded = true ↔ ∀ m : LaneNo, m.val < st.lanes → m ≠ n → k.lanes[m].phase ≠ .opened := by
  rw [allEnded_iff (k := k.ending n) settings]
  refine forall_congr' fun m => imp_congr_right fun _ => ?_
  by_cases same : m = n
  · subst same
    exact iff_of_true (ending_lane_n k m) fun differs => absurd rfl differs
  · rw [ending_lane_other k same]
    cases k.lanes[m].phase <;> simp [same]

theorem laneEnd_of_opened (used : s.links[l].inUse n = true) (burst : s.links[l].phase = .burst) (opened : s.links[l].lanes[n].phase = .opened) :
    s.laneEnd l n = s.endLane l n false := by
  unfold State.laneEnd
  dsimp only
  rw [used, burst]
  dsimp only
  rw [opened]
  rfl

/-- R16, R18: the end mark of the lane at the turn, with nothing held in it, ends the merged burst. -/
theorem endLane_of_turn (turn : s.links[l].turn = n) (mergeOpen : s.links[l].mergeOpen = true) (nothing : s.links[l].lanes[n].held = []) :
    s.endLane l n false = ((s.mapLink l fun k => k.laneEnded n).endMerge l).closeCheck l := by
  subst turn
  have link : (s.mapLink l fun k => k.laneEnded s.links[l].turn).links[l] = s.links[l].laneEnded s.links[l].turn :=
    link_of_set (State.setLink_links s l _)
  generalize s.links[l] = k at mergeOpen nothing link ⊢
  have held : (k.laneEnded k.turn).lanes[(k.laneEnded k.turn).turn].held = [] := (laneEnded_held k _ _).trans nothing
  have ended : (k.laneEnded k.turn).lanes[(k.laneEnded k.turn).turn].phase = .ended := (laneEnded_phase k _ _).trans (if_pos rfl)
  have exhausted : (k.laneEnded k.turn).turnExhausted = true := by
    unfold Link.turnExhausted
    dsimp only
    rw [held, ended]
    rfl
  exact congrArg (State.closeCheck l) (merge_of_exhausted link mergeOpen held exhausted)

theorem afterBurst_kept (k : Link) (x : Option LinkSettings) :
    (k.afterBurst x).mergeOpen = k.mergeOpen ∧ (k.afterBurst x).lanes = k.lanes ∧ (k.afterBurst x).counters = k.counters := by
  unfold Link.afterBurst
  split
  · split
    · cases x <;> exact ⟨rfl, rfl, rfl⟩
    · exact ⟨rfl, rfl, rfl⟩
  · exact ⟨rfl, rfl, rfl⟩

/-- Settles O23. -/
theorem endMarkEndsTheMergedBurst : Obligations.EndMarkEndsTheMergedBurst := by
  intro l n errs st s k held truncates closes off misses settings used burst idle turn mergeOpen opened nothing
  let s₀ : State := { s with errs := errs }
  let ended : State := (s₀.mapLink l fun k => k.laneEnded n).endMerge l
  let t : State := ended.closeCheck l
  have ended_touches : Touches [.errs, .links, .mirror] s ended :=
    ((touches_errs s errs).andThen (mapLink_touches s₀ l _) : Touches [.errs, .links] _ _).andThen (endMerge_touches _ l)
  have ended_links : ended.links = s.links.set l (k.ending n) := by
    have lane : (s₀.mapLink l fun k => k.laneEnded n).links = s.links.set l (k.laneEnded n) := State.setLink_links s₀ l _
    exact endMerge_links.trans (by rw [link_of_set lane, lane]; exact Vector.set_set ..)
  have link : ended.links[l] = k.ending n := link_of_set ended_links
  have ended_burst : ended.links[l].phase = .burst := by
    rw [link]
    exact burst
  have loader : ended.loader = s.loader := ended_touches .loader (by decide)
  have t_links : t.links = s.links.set l ((k.ending n).afterBurst (drawSettings s.loader.inUse l)) := by
    rw [closeCheck_links ended_burst, link, loader, ended_links]
    exact Vector.set_set ..
  have t_link : t.links[l] = (k.ending n).afterBurst (drawSettings s.loader.inUse l) := link_of_set t_links
  have still (h : ∀ o, s.deposit ≠ .serving o) : ∀ o, ended.deposit ≠ .serving o := by
    rw [ended_touches .deposit (by decide)]
    exact h
  have touches : Touches [.links, .exposures, .slots, .mirror, .errs] s t :=
    ((ended_touches.andThen (closeCheck_touches_of_not_serving (by rw [link]; exact idle.imp id still))
      : Touches [.errs, .links, .mirror, .links, .exposures, .slots, .mirror] s t)).mono
  have all_ended : (k.ending n).allEnded = true ↔ closes := ending_allEnded_iff settings
  have step : exec (.laneEndMark l n errs) s = .next t :=
    exec_laneEndMark ((laneEnd_of_opened (s := s₀) (inUse_of_settings settings used) burst opened).trans (endLane_of_turn (s := s₀) turn mergeOpen nothing))
      (.of_frame touches)
  obtain ⟨same_open, same_lanes, same_counters⟩ := afterBurst_kept (k.ending n) (drawSettings s.loader.inUse l)
  have while_open (h : ¬ closes) : t.links[l] = k.ending n := by
    rw [t_link, Link.afterBurst, if_neg (mt all_ended.mp h)]
  have when_closed (h : closes) (as_was : k.replaced = false) : t.links[l] = { k.ending n with phase := .idle } := by
    rw [t_link, Link.afterBurst, if_pos (all_ended.mpr h), if_neg (by rw [show (k.ending n).replaced = false from as_was]; decide)]
  have when_replaced (h : closes) (replaced : k.replaced = true) : t.links[l] = (k.ending n).resettled (drawSettings s.loader.inUse l) := by
    rw [t_link, Link.afterBurst, if_pos (all_ended.mpr h), if_pos (show (k.ending n).replaced = true from replaced)]
  refine ⟨t, step, touches, fun stays => ?_, fun m other => other_link_of_set t_links other, ?_, ?_, fun m => ?_, fun m other => ?_,
    fun stays => ?_, fun h => ?_, fun h as_was => ?_, fun h replaced x draws => ?_, fun gone => ?_, ?_⟩
  · refine (ended_touches.andThen (closeCheck_touches_link ?_) : Touches [.errs, .links, .mirror, .links] s t).mono
    rw [link, loader]
    exact stays.imp (fun not_off all replaced none_ => not_off ⟨⟨all_ended.mp all, replaced⟩, none_⟩) id
  · rw [t_link, same_open]
    rfl
  · rw [t_link, same_lanes]
    exact ending_lane_n k n
  · rw [t_link, same_lanes]
    exact ending_held k m
  · rw [t_link, same_lanes]
    exact ending_lane_other k other
  · by_cases h : closes
    · cases replaced : k.replaced with
      | false =>
        rw [when_closed h replaced]
        exact ⟨rfl, rfl⟩
      | true =>
        cases draws : drawSettings s.loader.inUse l with
        | none => exact absurd ⟨⟨h, replaced⟩, draws⟩ stays
        | some x =>
          rw [when_replaced h replaced, draws]
          exact ⟨rfl, rfl⟩
    · rw [while_open h]
      exact ⟨rfl, rfl⟩
  · rw [while_open h]
    exact ⟨burst, rfl, rfl⟩
  · rw [when_closed h as_was]
    exact ⟨rfl, rfl⟩
  · rw [when_replaced h replaced, draws]
    exact ⟨rfl, rfl⟩
  · obtain ⟨⟨h, replaced⟩, none_⟩ := gone
    have not_serving := idle.resolve_left (by rw [replaced]; decide)
    rw [when_replaced h replaced, none_]
    refine ⟨⟨rfl, rfl⟩, rfl, rfl, fun c current marker => ?_⟩
    have frame : Touches [.errs, .links, .exposures, .slots, .mirror] s ((s.heard l errs).closeFor l c) :=
      (heard_touches.andThen (closeFor_touches_of_not_serving not_serving) : Touches [.errs, .links, .links, .exposures, .slots, .mirror] _ _).mono
    refine ⟨(s.heard l errs).closeFor l c, ?_, ?_⟩
    · refine exec_exposureClose (by rw [show s.links[l].phase = .burst from burst]; decide) (closeExposure_of_current ?_ ?_) (.of_frame frame)
      · rw [unmark_link]
        exact marker
      · rw [unmark_link]
        exact current
    · have closed : t = (ended.closeFor l c).mapLink l fun k =>
          { k with phase := .off, settings := none, current := none, refused := none, replaced := false } := by
        refine (closeCheck_of_ended ended_burst (by rw [link]; exact all_ended.mpr h)).trans ?_
        rw [link, if_pos (show (k.ending n).replaced = true from replaced)]
        unfold State.takeSettings State.enterOff
        rw [loader, none_, link, show (k.ending n).current = some c from current]
      have same : SameTables (s.heard l errs) ended := ⟨ended_touches .exposures (by decide), ended_touches .slots (by decide)⟩
      have ends := same.closeFor l c not_serving (still not_serving)
      rw [closed]
      exact ⟨ends.exposures, ends.slots⟩
  · have heldCount : (k.laneEnded n).heldCount = held := by
      rw [heldCount_eq (k := k.laneEnded n) settings]
      simp only [laneEnded_held]
      rfl
    have mid : (k.laneEnded n).parser.midPacket = true ↔ truncates := midPacket_iff
    have missing : (k.laneEnded n).missesEndMark = true ↔ misses := missesEndMark_iff (k := k.laneEnded n) settings
    rw [t_link, same_counters]
    refine ⟨fun none_ => ?_, fun some_ => ?_, fun h => ?_, fun h => ?_, fun h => ?_, fun h => ?_, fun i excess truncated missed => ?_⟩
    · rw [mergeEnded_excess, heldCount, if_neg (by omega)]
      rfl
    · rw [mergeEnded_excess, heldCount, if_pos some_]
      rfl
    · rw [mergeEnded_truncated, if_pos (mid.mpr h)]
      rfl
    · rw [mergeEnded_truncated, if_neg (mt mid.mp h)]
      rfl
    · rw [mergeEnded_missing, if_pos (missing.mpr h)]
      rfl
    · rw [mergeEnded_missing, if_neg (mt missing.mp h)]
      rfl
    · exact mergeEnded_other _ excess truncated missed

end Sys2Proof.Machine
end

section
/-! One link changed at a time, and the parser's bytes (R23, R24, R30 to R35, R38; towards O24). -/

-- One theorem at a time: the threads of a parallel elaboration reserve more memory than the check allows.
set_option Elab.async false

namespace Sys2Proof.Machine

variable {s t u : State} {l : LinkNo} {k k' : Link} {b : Byte} {h : Header} {f : Bool}

/-! ### One link changed -/

/-- One link has become the one given, and its changes wait for the progress block; nothing else has changed. -/
structure LinkBecomes (l : LinkNo) (s t : State) (k : Link) : Prop where
  touches : Touches [.links, .mirror] s t
  links : t.links = s.links.set l k

theorem LinkBecomes.link (h : LinkBecomes l s t k) : t.links[l] = k := link_of_set h.links

theorem LinkBecomes.trans (first : LinkBecomes l s t k) (next : LinkBecomes l t u k') : LinkBecomes l s u k' where
  touches := (first.touches.andThen next.touches : Touches [.links, .mirror, .links, .mirror] s u).mono
  links := by
    rw [next.links, first.links]
    exact Vector.set_set ..

theorem linkBecomes_refl (link : s.links[l] = k) : LinkBecomes l s s k := ⟨Touches.refl _ s, by rw [← link]; exact links_eq_set⟩

theorem linkBecomes_mapLink (link : s.links[l] = k) (g : Link → Link) : LinkBecomes l s (s.mapLink l g) (g k) :=
  ⟨(mapLink_touches s l g).mono, by rw [← link]; exact State.setLink_links s l _⟩

theorem linkBecomes_count (link : s.links[l] = k) (c : LinkCounter) : LinkBecomes l s (s.count l c 1) (k.counted c) :=
  ⟨count_touches s l c 1, count_links_of (by rw [← link]; exact links_eq_set) c⟩

/-- A header that was corrected is counted. -/
def Link.fixedIf (f : Bool) (k : Link) : Link := if f = true then k.counted .headersFixed else k

theorem linkBecomes_fixedIf (link : s.links[l] = k) (f : Bool) : LinkBecomes l s (if f then s.count l .headersFixed 1 else s) (k.fixedIf f) := by
  cases f with
  | true => exact linkBecomes_count link _
  | false => exact linkBecomes_refl link

theorem linkBecomes_setEndMark (link : s.links[l] = k) (on : Bool) : LinkBecomes l s (s.setEndMark l on) { k with endMark := on } :=
  linkBecomes_mapLink link fun k => { k with endMark := on }

/-! ### A packet that completes (R38) -/

theorem linkBecomes_burstEnd {payload footer : List Byte} (link : s.links[l] = k) (kind : h.kind = 5) :
    LinkBecomes l s (s.completePacket l ⟨h, payload, footer⟩) { k with endMark := true } := by
  have marked := linkBecomes_setEndMark link true
  have delivered : (s.setEndMark l true).fate l ⟨h, payload, footer⟩ = s.setEndMark l true := by
    rw [fate_of_linkLevel (by rw [kind]; rfl)]
    unfold State.deliver
    dsimp only
    rw [kind]
    rfl
  unfold State.completePacket
  dsimp only
  rw [decide_eq_true kind, delivered]
  exact marked

section Streams
variable {st : LinkSettings} {payload footer : List Byte} (link : s.links[l] = k) (settings : k.settings = some st)
include link settings

theorem linkBecomes_filtered (level : linkLevel h.kind = false) (none_ : st.streams[h.stream] = none) :
    LinkBecomes l s (s.completePacket l ⟨h, payload, footer⟩) (({ k with endMark := false } : Link).counted .filtered) := by
  have other : h.kind ≠ 5 := by
    intro five
    rw [five] at level
    exact absurd level (by decide)
  have marked := linkBecomes_setEndMark link false
  unfold State.completePacket
  dsimp only
  rw [decide_eq_false other, fate_of_filtered level ((streamOf_eq (by rw [marked.link]; exact settings)).trans none_)]
  exact marked.trans (linkBecomes_count marked.link _)

theorem linkBecomes_crcFailure (kind : h.kind = 8) (enabled : st.streams[h.stream] ≠ none) (wrong : crc16 payload ≠ leNat footer) :
    LinkBecomes l s (s.completePacket l ⟨h, payload, footer⟩) (({ k with endMark := false } : Link).counted .crcFailures) := by
  have marked := linkBecomes_setEndMark link false
  obtain ⟨g, stream⟩ := Option.ne_none_iff_exists'.mp enabled
  have found : (s.setEndMark l false).streamOf l h.stream = some g := (streamOf_eq (by rw [marked.link]; exact settings)).trans stream
  have fails : (s.setEndMark l false).fate l ⟨h, payload, footer⟩ = (s.setEndMark l false).count l .crcFailures 1 := by
    unfold State.fate
    rw [if_neg (not_filtered (p := ⟨h, payload, footer⟩) found), if_neg (by rw [kind]; decide), if_neg (by rw [kind]; decide), if_pos ⟨kind, wrong⟩]
  unfold State.completePacket
  dsimp only
  rw [decide_eq_false (by rw [kind]; decide), fails]
  exact marked.trans (linkBecomes_count marked.link _)

end Streams

/-! ### One byte (R30 to R35) -/

/-- R30, R38: the link once a packet has completed, or a header is settled: the parser at the start of a packet. -/
def Link.atStart (endMark : Bool) (k : Link) : Link := { k with endMark := endMark, parser := ⟨[], none, [], false⟩ }

/-- R23, R33: the link once a header is lost. -/
def Link.lost (k : Link) : Link := ({ k.atStart false with parser := ⟨[], none, [], true⟩ } : Link).counted .headersLost

/-- R31: the header code reads the four bytes as three of data and one of check. -/
theorem decode_split (last : k.parser.hdr.length = 3) :
    decodeHeader (leNat ((k.parser.hdr ++ [b]).take 3)) (leNat ((k.parser.hdr ++ [b]).drop 3))
    = decodeHeader (leNat k.parser.hdr) b.toNat := by
  rw [List.take_left' last, List.drop_left' last]
  rfl

section Byte
variable (link : s.links[l] = k) (taking : k.parser.discarding = false)
include link taking

section Header
variable (header : k.parser.cur = none)
include header

theorem parseByte_of_header : s.parseByte l b =
    if (k.parser.hdr ++ [b]).length = 4
    then (s.mapLink l fun x => { x with parser := { k.parser with hdr := k.parser.hdr ++ [b] }, endMark := false }).parseHeader l (k.parser.hdr ++ [b])
    else s.mapLink l fun x => { x with parser := { k.parser with hdr := k.parser.hdr ++ [b] }, endMark := false } := by
  unfold State.parseByte
  dsimp only
  rw [link, taking, if_neg (by decide), header]

theorem parseByte_early (early : k.parser.hdr.length < 3) :
    LinkBecomes l s (s.parseByte l b) { k with endMark := false, parser := { k.parser with hdr := k.parser.hdr ++ [b] } } := by
  rw [parseByte_of_header link taking header, if_neg (by rw [List.length_append, List.length_singleton]; omega)]
  exact linkBecomes_mapLink link _

theorem parseByte_fourth (last : k.parser.hdr.length = 3) : s.parseByte l b = (s.mapLink l fun x =>
    { x with parser := { k.parser with hdr := k.parser.hdr ++ [b] }, endMark := false }).parseHeader l (k.parser.hdr ++ [b]) := by
  rw [parseByte_of_header link taking header, if_pos (by rw [List.length_append, last]; rfl)]

end Header

theorem parseByte_of_payload (packet : k.parser.cur = some h) : s.parseByte l b =
    if (k.parser.buffer ++ [b]).length = h.value.toNat + 2
    then (s.mapLink l fun x => { x with parser := Parser.start }).completePacket l
      ⟨h, (k.parser.buffer ++ [b]).take h.value.toNat, (k.parser.buffer ++ [b]).drop h.value.toNat⟩
    else s.mapLink l fun x => { x with parser := { k.parser with buffer := k.parser.buffer ++ [b] } } := by
  unfold State.parseByte
  dsimp only
  rw [link, taking, if_neg (by decide), packet]

theorem parseByte_buffers (packet : k.parser.cur = some h) (more : (k.parser.buffer ++ [b]).length < h.value.toNat + 2) :
    LinkBecomes l s (s.parseByte l b) { k with parser := { k.parser with buffer := k.parser.buffer ++ [b] } } := by
  rw [parseByte_of_payload link taking packet, if_neg (by omega)]
  exact linkBecomes_mapLink link _

section Last
variable {st : LinkSettings} (settings : k.settings = some st) (packet : k.parser.cur = some h)
  (last : (k.parser.buffer ++ [b]).length = h.value.toNat + 2)
include settings packet last

theorem parseByte_last_filtered (level : linkLevel h.kind = false) (none_ : st.streams[h.stream] = none) :
    LinkBecomes l s (s.parseByte l b) ((k.atStart false).counted .filtered) := by
  rw [parseByte_of_payload link taking packet, if_pos last]
  have started := linkBecomes_mapLink link fun x => { x with parser := Parser.start }
  exact started.trans (linkBecomes_filtered started.link settings level none_)

theorem parseByte_last_crcFailure (kind : h.kind = 8) (enabled : st.streams[h.stream] ≠ none)
    (wrong : crc16 ((k.parser.buffer ++ [b]).take h.value.toNat) ≠ leNat ((k.parser.buffer ++ [b]).drop h.value.toNat)) :
    LinkBecomes l s (s.parseByte l b) ((k.atStart false).counted .crcFailures) := by
  rw [parseByte_of_payload link taking packet, if_pos last]
  have started := linkBecomes_mapLink link fun x => { x with parser := Parser.start }
  exact started.trans (linkBecomes_crcFailure started.link settings kind enabled wrong)

end Last

/-! ### A header settled (R31 to R34) -/

section Settled
variable (header : k.parser.cur = none) (last : k.parser.hdr.length = 3)
include header last

theorem parseByte_lost (lost : decodeHeader (leNat k.parser.hdr) b.toNat = none
      ∨ ∃ h f, decodeHeader (leNat k.parser.hdr) b.toNat = some (h, f) ∧ 8 ≤ h.kind.val ∧ 4096 < h.value.toNat) :
    LinkBecomes l s (s.parseByte l b) k.lost := by
  have headed := linkBecomes_mapLink link fun x => { x with parser := { k.parser with hdr := k.parser.hdr ++ [b] }, endMark := false }
  have loses (t : State) : t.parseHeader l (k.parser.hdr ++ [b]) = t.loseHeader l := by
    unfold State.parseHeader
    rw [decode_split last]
    rcases lost with none_ | ⟨h, f, read, long, above⟩
    · rw [none_]
    · rw [read]
      dsimp only
      rw [if_pos (by simp [Header.long, Config.payloadMax, long, above])]
  rw [parseByte_fourth link taking header last, loses]
  have counted := headed.trans (linkBecomes_count headed.link .headersLost)
  exact counted.trans (linkBecomes_mapLink counted.link fun x => { x with parser := { Parser.start with discarding := true } })

variable (read : decodeHeader (leNat k.parser.hdr) b.toNat = some (h, f))
include read

theorem parseByte_long (long : 8 ≤ h.kind.val) (fits : h.value.toNat ≤ 4096) :
    LinkBecomes l s (s.parseByte l b) (({ k.atStart false with parser := ⟨[], some h, [], false⟩ } : Link).fixedIf f) := by
  have headed := linkBecomes_mapLink link fun x => { x with parser := { k.parser with hdr := k.parser.hdr ++ [b] }, endMark := false }
  have begins (t : State) : t.parseHeader l (k.parser.hdr ++ [b])
      = (if f then t.count l .headersFixed 1 else t).mapLink l fun k => { k with parser := { Parser.start with cur := some h } } := by
    unfold State.parseHeader
    rw [decode_split last, read]
    dsimp only
    rw [if_neg (by simp [Config.payloadMax, fits]), if_pos (by simp [Header.long, long])]
  rw [parseByte_fourth link taking header last, begins]
  have counted := headed.trans (linkBecomes_fixedIf headed.link f)
  have all := counted.trans (linkBecomes_mapLink counted.link fun k => { k with parser := { Parser.start with cur := some h } })
  cases f <;> exact all

/-- R34: a short packet completes with its header. -/
theorem parseByte_short (short : h.kind.val < 8) : ∃ t, LinkBecomes l s t ((k.atStart false).fixedIf f)
    ∧ s.parseByte l b = t.completePacket l ⟨h, [], []⟩ := by
  have headed := linkBecomes_mapLink link fun x => { x with parser := { k.parser with hdr := k.parser.hdr ++ [b] }, endMark := false }
  have completes (t : State) : t.parseHeader l (k.parser.hdr ++ [b])
      = ((if f then t.count l .headersFixed 1 else t).mapLink l fun k => { k with parser := Parser.start }).completePacket l ⟨h, [], []⟩ := by
    unfold State.parseHeader
    rw [decode_split last, read]
    dsimp only
    have not_long : h.long = false := decide_eq_false (Nat.not_le.mpr short)
    rw [not_long, if_neg (by simp), if_neg (by decide)]
  have counted := headed.trans (linkBecomes_fixedIf headed.link f)
  have all := counted.trans (linkBecomes_mapLink counted.link fun k => { k with parser := Parser.start })
  refine ⟨_, ?_, (parseByte_fourth link taking header last).trans (completes _)⟩
  cases f <;> exact all

theorem parseByte_burstEnd (kind : h.kind = 5) : LinkBecomes l s (s.parseByte l b) ((k.atStart true).fixedIf f) := by
  obtain ⟨t, started, completes⟩ := parseByte_short link taking header last read (by rw [kind]; decide)
  rw [completes]
  have all := started.trans (linkBecomes_burstEnd (payload := []) (footer := []) started.link kind)
  cases f <;> exact all

theorem parseByte_short_filtered {st : LinkSettings} (settings : k.settings = some st) (short : h.kind.val < 8) (level : linkLevel h.kind = false)
    (none_ : st.streams[h.stream] = none) : LinkBecomes l s (s.parseByte l b) (((k.atStart false).fixedIf f).counted .filtered) := by
  obtain ⟨t, started, completes⟩ := parseByte_short link taking header last read short
  have settings' : ((k.atStart false).fixedIf f).settings = some st := by
    cases f <;> exact settings
  rw [completes]
  have all := started.trans (linkBecomes_filtered (payload := []) (footer := []) started.link settings' level none_)
  cases f <;> exact all

end Settled
end Byte

end Sys2Proof.Machine
end

section
/-! The merge, byte by byte (R16 to R20; O24). -/

-- One theorem at a time: the threads of a parallel elaboration reserve more memory than the check allows.
set_option Elab.async false

namespace Sys2Proof.Machine

variable {s t : State} {l : LinkNo} {n m : LaneNo} {k k' : Link} {st : LinkSettings} {b x : Byte} {bs : List Byte}

/-! ### Where the merge stands (R17, R18) -/

/-- R17: the link with one more byte held in a lane. -/
def Link.holding (k : Link) (n : LaneNo) (b : Byte) : Link := k.setLane n { k.lanes[n] with held := k.lanes[n].held ++ [b] }

/-- R17: the link once the first byte held in the lane at the turn has been taken, `bs` the others. -/
def Link.took (k : Link) (bs : List Byte) : Link :=
  { k.setLane k.turn { k.lanes[k.turn] with held := bs } with merged := k.merged + 1, turn := k.nextTurn }

/-- R18: the merge waits for the lane at the turn. -/
def Link.Waits (k : Link) : Prop := k.lanes[k.turn].held = [] ∧ k.turnExhausted = false

/-- What a byte at the parser changes in a link. -/
def Link.Parsed (k k' : Link) : Prop := ∃ p e cs, k' = { k with parser := p, endMark := e, counters := cs }

theorem Link.Parsed.waits (parsed : k.Parsed k') (h : k.Waits) : k'.Waits := by
  obtain ⟨p, e, cs, rfl⟩ := parsed
  exact h

theorem Link.Parsed.allEnded (parsed : k.Parsed k') : k'.allEnded = k.allEnded := by
  obtain ⟨p, e, cs, rfl⟩ := parsed
  rfl

theorem mergeLoop_of_waits (link : s.links[l] = k) (waits : k.Waits) (fuel : Nat) : s.mergeLoop l fuel = s := by
  subst link
  cases fuel with
  | zero => rfl
  | succ fuel =>
    unfold State.mergeLoop
    dsimp only
    split
    · rw [waits.1]
      dsimp only
      rw [waits.2, if_neg (by decide)]
    · rfl

theorem mergeLoop_takes (link : s.links[l] = k) (mergeOpen : k.mergeOpen = true) (held : k.lanes[k.turn].held = b :: bs) (fuel : Nat) :
    s.mergeLoop l (fuel + 1) = ((s.mapLink l fun _ => k.took bs).parseByte l b).mergeLoop l fuel := by
  subst link
  rw [State.mergeLoop]
  dsimp only
  rw [if_pos mergeOpen, held]
  rfl

section Open
variable (settings : k.settings = some st) (used : n.val < st.lanes) (opened : k.lanes[n].phase = .opened)
include settings used opened

theorem allEnded_of_opened : k.allEnded = false := by
  rw [← Bool.not_eq_true, allEnded_iff settings]
  intro all
  exact absurd ((all n used).symm.trans opened) (by decide)

/-- R18: while a lane is open, the merge waits for a lane that has not ended. -/
theorem turnExhausted_of_opened (going : k.lanes[k.turn].phase ≠ .ended) : k.turnExhausted = false := by
  have some_open : (k.lanesInUse.all fun n => decide (k.lanes[n].phase ≠ .opened)) = false := by
    rw [← Bool.not_eq_true, List.all_eq_true]
    intro all
    exact absurd opened (of_decide_eq_true (all n ((mem_lanesInUse settings).mpr used)))
  unfold Link.turnExhausted
  dsimp only
  rw [some_open, decide_eq_false going]
  simp

theorem waits_of_opened (nothing : k.lanes[k.turn].held = []) (going : k.lanes[k.turn].phase ≠ .ended) : k.Waits :=
  ⟨nothing, turnExhausted_of_opened settings used opened going⟩

end Open

theorem nextTurn_eq (settings : k.settings = some st) : k.nextTurn = if k.turn.val + 1 < st.lanes then k.turn + 1 else 0 := by
  unfold Link.nextTurn
  rw [settings]

theorem heldCount_pos (settings : k.settings = some st) (used : n.val < st.lanes) (held : k.lanes[n].held ≠ []) : 0 < k.heldCount := by
  rw [Nat.pos_iff_ne_zero]
  intro none_
  have each := List.sum_eq_zero_iff.mp none_
  exact held (List.length_eq_zero_iff.mp (each _ (List.mem_map.mpr ⟨n, (mem_lanesInUse settings).mpr used, rfl⟩)))

theorem holding_held (k : Link) (n : LaneNo) (b : Byte) : (k.holding n b).lanes[n].held = k.lanes[n].held ++ [b] := by
  unfold Link.holding
  rw [setLane_getElem, if_pos rfl]

/-- R17: a byte that enters at its turn, with nothing held before it, is taken at once. -/
theorem holding_took (k : Link) (b : Byte) (nothing : k.lanes[k.turn].held = []) :
    (k.holding k.turn b).took [] = { k with merged := k.merged + 1, turn := k.nextTurn } := by
  have lanes : (k.holding k.turn b).lanes.set k.turn { (k.holding k.turn b).lanes[k.turn] with held := [] } = k.lanes := by
    have here : ({ (k.holding k.turn b).lanes[k.turn] with held := [] } : Lane) = k.lanes[k.turn] := by
      unfold Link.holding
      rw [setLane_getElem, if_pos rfl, ← nothing]
    rw [here]
    show (k.lanes.set k.turn _).set k.turn _ = k.lanes
    rw [Vector.set_set]
    simp
  exact congrArg (fun L => ({ k with merged := k.merged + 1, turn := k.nextTurn, lanes := L } : Link)) lanes

/-! ### A byte on an open lane (R16 to R20) -/

section Byte
variable (link : s.links[l] = k) (settings : k.settings = some st) (used : n.val < st.lanes) (burst : k.phase = .burst)
  (opened : k.lanes[n].phase = .opened)
include link settings used burst opened

theorem laneByte_of_opened : s.laneByte l n b = if !k.mergeOpen then s.count l .excess 1
    else if Config.laneLimit ≤ k.lanes[n].held.length then ((s.count l .excess 1).endMerge l).closeCheck l
    else ((s.mapLink l fun k => k.holding n b).merge l).closeCheck l := by
  subst link
  unfold State.laneByte
  dsimp only
  rw [inUse_of_settings settings used, burst]
  dsimp only
  rw [opened]
  rfl

theorem laneByte_of_merge_ended (ended : k.mergeOpen = false) : LinkBecomes l s (s.laneByte l n b) (k.counted .excess) := by
  rw [laneByte_of_opened link settings used burst opened, ended]
  exact linkBecomes_count link _

section MergeOpen
variable (mergeOpen : k.mergeOpen = true)
include mergeOpen

/-- R19, R20: a byte that overflows its lane ends the merged burst; the lane itself is still open, and so the burst. -/
theorem laneByte_of_full (full : 1024 ≤ k.lanes[n].held.length) :
    s.laneByte l n b = (s.count l .excess 1).endMerge l ∧ ((s.count l .excess 1).endMerge l).links = s.links.set l (k.counted .excess).mergeEnded := by
  have counted := linkBecomes_count (l := l) link .excess
  have links : ((s.count l .excess 1).endMerge l).links = s.links.set l (k.counted .excess).mergeEnded := by
    rw [endMerge_links, counted.link, counted.links]
    exact Vector.set_set ..
  have stays : (k.counted .excess).mergeEnded.allEnded = false := by
    refine allEnded_of_opened (n := n) (st := st) settings used ?_
    rw [mergeEnded_lane]
    show (if k.lanes[n].phase = .waiting then LanePhase.ended else k.lanes[n].phase) = _
    rw [opened]
    rfl
  refine ⟨?_, links⟩
  rw [laneByte_of_opened link settings used burst opened, mergeOpen, if_neg (by decide), if_pos full]
  exact closeCheck_of_open (by rw [link_of_set links]; exact stays)

variable (room : k.lanes[n].held.length < 1024)
include room

theorem laneByte_of_room : s.laneByte l n b = ((s.mapLink l fun k => k.holding n b).mergeLoop l ((k.holding n b).heldCount + 1)).closeCheck l := by
  rw [laneByte_of_opened link settings used burst opened, mergeOpen, if_neg (by decide), if_neg (Nat.not_le.mpr room)]
  unfold State.merge
  rw [(linkBecomes_mapLink link fun k => k.holding n b).link]

/-- R17: a byte out of turn is held. -/
theorem laneByte_of_other_turn (turn : k.turn ≠ n) (nothing : k.lanes[k.turn].held = []) (going : k.lanes[k.turn].phase ≠ .ended) :
    LinkBecomes l s (s.laneByte l n b) (k.holding n b) := by
  have held := linkBecomes_mapLink (l := l) link fun k => k.holding n b
  have at_turn : (k.holding n b).lanes[(k.holding n b).turn] = k.lanes[k.turn] := (setLane_getElem k n k.turn _).trans (if_neg turn)
  have opened' : (k.holding n b).lanes[n].phase = .opened := by
    unfold Link.holding
    rw [setLane_getElem, if_pos rfl]
    exact opened
  have waits : (k.holding n b).Waits :=
    waits_of_opened (n := n) (st := st) settings used opened' (by rw [at_turn]; exact nothing) (by rw [at_turn]; exact going)
  rw [laneByte_of_room link settings used burst opened mergeOpen room, mergeLoop_of_waits held.link waits,
    closeCheck_of_open (by rw [held.link]; exact allEnded_of_opened settings used opened')]
  exact held

end MergeOpen

/-! ### A byte at its turn (R17, R30) -/

section Turn
variable (mergeOpen : k.mergeOpen = true) (turn : k.turn = n) (nothing : k.lanes[n].held = [])
include mergeOpen turn nothing

/-- R17: the byte is taken, and the merge goes on with the next lane. -/
theorem laneByte_at_turn : ∃ t, LinkBecomes l s t { k with merged := k.merged + 1, turn := k.nextTurn }
    ∧ s.laneByte l n b = ((t.parseByte l b).mergeLoop l (k.holding n b).heldCount).closeCheck l := by
  subst turn
  have held := linkBecomes_mapLink (l := l) link fun x => x.holding k.turn b
  have first : (k.holding k.turn b).lanes[(k.holding k.turn b).turn].held = b :: [] :=
    (holding_held k k.turn b).trans (by rw [nothing]; rfl)
  have takes := held.trans (linkBecomes_mapLink held.link fun _ => (k.holding k.turn b).took [])
  rw [holding_took k b nothing] at takes
  refine ⟨_, takes, ?_⟩
  rw [laneByte_of_room link settings used burst opened mergeOpen (by rw [nothing]; decide), mergeLoop_takes held.link mergeOpen first,
    holding_took k b nothing]

/-- R17, R30: the byte goes to the parser, and the merge waits for the next lane. -/
theorem laneByte_merged (waits : ({ k with merged := k.merged + 1, turn := k.nextTurn } : Link).Waits)
    (parse : ∀ t : State, t.links[l] = { k with merged := k.merged + 1, turn := k.nextTurn } → LinkBecomes l t (t.parseByte l b) k')
    (parsed : ({ k with merged := k.merged + 1, turn := k.nextTurn } : Link).Parsed k') : LinkBecomes l s (s.laneByte l n b) k' := by
  obtain ⟨t, taken, event⟩ := laneByte_at_turn (b := b) link settings used burst opened mergeOpen turn nothing
  have all := taken.trans (parse t taken.link)
  rw [event, mergeLoop_of_waits all.link (parsed.waits waits),
    closeCheck_of_open (by rw [all.link, parsed.allEnded]; exact allEnded_of_opened (n := n) (st := st) settings used opened)]
  exact all

end Turn
end Byte

end Sys2Proof.Machine
end

section
/-! A byte on an open lane, whatever becomes of it (R16 to R20, R23, R24, R30, R33 to R35, R38; O24). -/

-- One theorem at a time: the threads of a parallel elaboration reserve more memory than the check allows.
set_option Elab.async false

namespace Sys2Proof.Machine

variable {s : State} {l : LinkNo} {n m : LaneNo} {k : Link} {st : LinkSettings} {b x : Byte}

/-- R17: of two lanes, the turn comes back after each. -/
theorem turn_returns (settings : k.settings = some st) (two : st.lanes = 2) (used : n.val < 2) (turn : k.turn = n) (next : m = k.nextTurn) :
    m.val < 2 ∧ (if m.val + 1 < 2 then m + 1 else 0) = n := by
  have each : ∀ i : LaneNo, i.val < 2 →
      (if i.val + 1 < 2 then i + 1 else 0).val < 2 ∧ (if (if i.val + 1 < 2 then i + 1 else 0).val + 1 < 2 then (if i.val + 1 < 2 then i + 1 else 0) + 1 else 0) = i := by
    decide
  rw [next, nextTurn_eq settings, two, turn]
  exact each n used

/-- R17, R30: two lanes: a byte at its turn, and then the byte that the other lane held. -/
theorem laneByte_takes_two (link : s.links[l] = k) (settings : k.settings = some st) (used : n.val < st.lanes) (burst : k.phase = .burst)
    (opened : k.lanes[n].phase = .opened) (mergeOpen : k.mergeOpen = true) (turn : k.turn = n) (nothing : k.lanes[n].held = [])
    (next : m = k.nextTurn) (differs : m ≠ n) (two : st.lanes = 2) (held : k.lanes[m].held = [x])
    (taking : k.parser.discarding = false) (header : k.parser.cur = none) (early : k.parser.hdr.length < 2) :
    LinkBecomes l s (s.laneByte l n b) { k with
      merged := k.merged + 2, endMark := false, lanes := k.lanes.set m { k.lanes[m] with held := [] },
      parser := { k.parser with hdr := k.parser.hdr ++ [b, x] } } := by
  obtain ⟨-, back⟩ := turn_returns settings two (two ▸ used) turn next
  subst next
  obtain ⟨t, taken, event⟩ := laneByte_at_turn (b := b) link settings used burst opened mergeOpen turn nothing
  have first := taken.trans (parseByte_early (b := b) taken.link taking header (Nat.lt_succ_of_lt early))
  let k₂ : Link := { k with
    merged := k.merged + 1, turn := k.nextTurn, endMark := false, parser := { k.parser with hdr := k.parser.hdr ++ [b] } }
  have at_next : k₂.lanes[k₂.turn].held = x :: [] := held
  have takes := first.trans (linkBecomes_mapLink first.link fun _ => k₂.took [])
  have second := takes.trans (parseByte_early (b := x) takes.link taking header (by
    show (k.parser.hdr ++ [b]).length < 3
    rw [List.length_append, List.length_singleton]
    omega))
  have comes_back : k₂.nextTurn = n := by
    rw [nextTurn_eq (k := k₂) settings, two]
    exact back
  have result : ({ k₂.took [] with endMark := false, parser := { (k₂.took []).parser with hdr := (k₂.took []).parser.hdr ++ [x] } } : Link)
      = { k with
        merged := k.merged + 2, endMark := false, lanes := k.lanes.set k.nextTurn { k.lanes[k.nextTurn] with held := [] },
        parser := { k.parser with hdr := k.parser.hdr ++ [b, x] } } := by
    unfold Link.took
    rw [comes_back, ← turn]
    show ({ k with parser := { k.parser with hdr := k.parser.hdr ++ [b] ++ [x] }, merged := _, endMark := _, lanes := _ } : Link) = _
    rw [List.append_assoc]
    rfl
  rw [result] at second
  have lane : (k.lanes.set k.nextTurn { k.lanes[k.nextTurn] with held := [] })[n] = k.lanes[n] := (setLane_getElem k k.nextTurn n _).trans (if_neg differs.symm)
  have waits : ({ k with
      merged := k.merged + 2, endMark := false, lanes := k.lanes.set k.nextTurn { k.lanes[k.nextTurn] with held := [] },
      parser := { k.parser with hdr := k.parser.hdr ++ [b, x] } } : Link).Waits := by
    subst turn
    exact waits_of_opened (n := k.turn) (st := st) settings used (by rw [lane]; exact opened) (by rw [lane]; exact nothing)
      (by rw [lane, opened]; decide)
  have some_held : 0 < (k.holding n b).heldCount :=
    heldCount_pos (n := n) (st := st) settings used (by rw [holding_held]; exact List.concat_ne_nil b _)
  obtain ⟨fuel, fuel_eq⟩ := Nat.exists_eq_succ_of_ne_zero (Nat.pos_iff_ne_zero.mp some_held)
  rw [event, fuel_eq, mergeLoop_takes first.link mergeOpen at_next, mergeLoop_of_waits second.link waits,
    closeCheck_of_open (by rw [second.link]; exact allEnded_of_opened (n := n) (st := st) settings used (by rw [lane]; exact opened))]
  exact second

/-- Settles O24. -/
theorem laneDataByteMergedOrExcess : Obligations.LaneDataByteMergedOrExcess := by
  intro l n b errs st s k plain becomes enabled merged start lost fixed next settings used burst opened
  let s₀ : State := { s with errs := errs }
  have link : s₀.links[l] = k := rfl
  -- A command whose effect is one link changed.
  have changes {k' : Link} (event : LinkBecomes l s₀ (s₀.laneByte l n b) k') : becomes k' := by
    have touches : Touches [.links, .mirror, .errs] s (s₀.laneByte l n b) :=
      ((touches_errs s errs).andThen event.touches : Touches [.errs, .links, .mirror] s _).mono
    exact ⟨_, exec_laneDataByte rfl (.of_frame touches), touches, event.links⟩
  -- On a link of one lane the byte is merged at once.
  have merges {k' : Link} (h : plain) (parse : ∀ t : State, t.links[l] = merged → LinkBecomes l t (t.parseByte l b) k') (parsed : merged.Parsed k') :
      becomes k' := by
    obtain ⟨one, turn, mergeOpen, nothing, -⟩ := h
    have first : n = 0 := by
      apply Fin.ext
      show n.val = 0
      omega
    have at_turn : k.turn = n := turn.trans first.symm
    have returns : ({ k with merged := k.merged + 1, turn := k.nextTurn } : Link) = merged := by
      have again : k.nextTurn = k.turn := by
        rw [nextTurn_eq settings, one, if_neg (by omega), turn]
      rw [again]
    have waits : merged.Waits := by
      have here : k.lanes[k.turn] = k.lanes[n] := by simp only [at_turn]
      refine waits_of_opened (k := merged) (n := n) (st := st) settings used opened ?_ ?_
      · show k.lanes[k.turn].held = []
        rw [here]
        exact nothing
      · show k.lanes[k.turn].phase ≠ .ended
        rw [here, opened]
        decide
    refine changes (laneByte_merged link settings used burst opened mergeOpen at_turn nothing ?_ ?_ ?_)
    · rw [returns]
      exact waits
    · rw [returns]
      exact parse
    · rw [returns]
      exact parsed
  have not_linkLevel {h : Header} (not_open : h.kind ≠ 1) (not_close : h.kind ≠ 2) (not_end : h.kind ≠ 5) : linkLevel h.kind = false :=
    decide_eq_false (by rintro (h | h | h); exacts [not_open h, not_close h, not_end h])
  have long_level {h : Header} (long : 8 ≤ h.kind.val) : linkLevel h.kind = false :=
    not_linkLevel (by rintro h; rw [h] at long; exact absurd long (by decide)) (by rintro h; rw [h] at long; exact absurd long (by decide))
      (by rintro h; rw [h] at long; exact absurd long (by decide))
  refine ⟨fun h header early => ?_, fun h header last => ?_, fun h' h packet => ?_, fun mergeOpen turn nothing going room => ?_,
    fun mergeOpen turn differs nothing going taking header => ?_, fun ended => ?_, fun mergeOpen full => ?_⟩
  · exact merges h (fun t at_ => parseByte_early at_ h.2.2.2.2 header early) ⟨_, _, _, rfl⟩
  · have taking : merged.parser.discarding = false := h.2.2.2.2
    have loses (is_lost : decodeHeader (leNat k.parser.hdr) b.toNat = none
        ∨ ∃ h f, decodeHeader (leNat k.parser.hdr) b.toNat = some (h, f) ∧ 8 ≤ h.kind.val ∧ 4096 < h.value.toNat) : becomes lost :=
      merges h (fun t at_ => parseByte_lost (k := merged) at_ taking header last is_lost) ⟨_, _, _, rfl⟩
    refine ⟨fun none_ => loses (.inl none_), fun h' f read => ⟨fun long above => loses (.inr ⟨h', f, read, long, above⟩), fun long fits => ?_,
      fun kind => ?_, fun short not_open not_close not_end disabled => ?_⟩⟩
    · exact merges h (fun t at_ => parseByte_long (k := merged) at_ taking header last read long fits) (by cases f <;> exact ⟨_, _, _, rfl⟩)
    · exact merges h (fun t at_ => parseByte_burstEnd (k := merged) at_ taking header last read kind) (by cases f <;> exact ⟨_, _, _, rfl⟩)
    · exact merges h (fun t at_ => parseByte_short_filtered (k := merged) at_ taking header last read settings short
        (not_linkLevel not_open not_close not_end) (not_not.mp disabled)) (by cases f <;> exact ⟨_, _, _, rfl⟩)
  · have taking : merged.parser.discarding = false := h.2.2.2.2
    refine ⟨fun more => ?_, fun last => ⟨fun long disabled => ?_, fun kind is_enabled wrong => ?_⟩⟩
    · exact merges h (fun t at_ => parseByte_buffers (k := merged) at_ taking packet more) ⟨_, _, _, rfl⟩
    · exact merges h (fun t at_ => parseByte_last_filtered (k := merged) at_ taking settings packet last (long_level long) (not_not.mp disabled))
        ⟨_, _, _, rfl⟩
    · exact merges h (fun t at_ => parseByte_last_crcFailure (k := merged) at_ taking settings packet last kind is_enabled wrong) ⟨_, _, _, rfl⟩
  · exact changes (laneByte_of_other_turn link settings used burst opened mergeOpen room turn nothing going)
  · have is_next : next = k.nextTurn := by
      rw [nextTurn_eq settings, turn]
    refine ⟨fun early waiting => ?_, fun x early two held => ?_⟩
    · have lane : k.lanes[k.nextTurn] = k.lanes[next] := by simp only [is_next]
      have waits : ({ k with merged := k.merged + 1, turn := k.nextTurn } : Link).Waits :=
        waits_of_opened (n := n) (st := st) settings used opened ((congrArg Lane.held lane).trans waiting) (by
          show k.lanes[k.nextTurn].phase ≠ .ended
          rw [lane]
          exact going)
      rw [is_next]
      exact changes (laneByte_merged link settings used burst opened mergeOpen turn nothing waits
        (fun t at_ => parseByte_early at_ taking header early) ⟨_, _, _, rfl⟩)
    · exact changes (laneByte_takes_two link settings used burst opened mergeOpen turn nothing is_next differs two held taking header early)
  · exact changes (laneByte_of_merge_ended link settings used burst opened ended)
  · obtain ⟨event, links⟩ := laneByte_of_full (b := b) link settings used burst opened mergeOpen full
    have touches : Touches [.errs, .links, .mirror] s ((s₀.count l .excess 1).endMerge l) :=
      ((touches_errs s errs).andThen (count_touches s₀ l .excess 1) : Touches [.errs, .links, .mirror] s _).andThen (endMerge_touches _ l)
    refine ⟨_, exec_laneDataByte event (.of_frame touches), ?_, ?_⟩
    · rw [link_of_set links]
      rfl
    · have one_more : (k.counted .excess).counters[LinkCounter.excess.idx] = min (k.counters[LinkCounter.excess.idx] + 1) 4294967295 := by
        simp [Link.counted]
      have held : (k.counted .excess).heldCount = ((List.finRange 4).map fun m => if m.val < st.lanes then k.lanes[m].held.length else 0).sum :=
        heldCount_eq (k := k.counted .excess) settings
      rw [link_of_set links, mergeEnded_excess, one_more, held]
      split <;> omega

end Sys2Proof.Machine
end
